-- ==== Sys2Proof/Word.lean ====
section
/-! DEFINITION. The word types of the MS9-940 (spec 00 R2, 01 R9, 12 R312): plain synonyms of `BitVec`, so that its lemmas apply. -/

namespace Sys2Proof

abbrev Byte := BitVec 8
abbrev W16 := BitVec 16
abbrev W32 := BitVec 32
/-- A Ryufer or Ompen scalar register (R9, R312). -/
abbrev W64 := BitVec 64
/-- A program counter: segment [17:12], bundle offset [11:0] (R9). -/
abbrev Pc := BitVec 18
/-- A vector register, 128 lanes of 32 bits (R9, R125). -/
abbrev VWord := BitVec 4096
/-- A predicate register, one bit a lane (R9). -/
abbrev PWord := BitVec 128
/-- An Ompen vector register, 16 lanes of 32 bits (R312). -/
abbrev OWord := BitVec 512

/-- Register names as the bundles write them (R38). -/
abbrev SReg := BitVec 5
abbrev GReg := BitVec 4
abbrev VReg := BitVec 6
abbrev PReg := BitVec 4
abbrev HReg := BitVec 4
abbrev KReg := BitVec 4
abbrev MReg := BitVec 3
/-- Register names of the Ompen instruction set (R312, R313). -/
abbrev QReg := BitVec 4
abbrev ZReg := BitVec 2
abbrev EReg := BitVec 3
/-- Register names of the Wellhead's RV64 processors (R422). -/
abbrev XReg := BitVec 5

/-- The two slots that share the scalar block (R44). -/
inductive AB where
  | a
  | b
  deriving DecidableEq, Repr

/-- The four slots of a bundle (R12). -/
inductive Slot where
  | a
  | b
  | c
  | d
  deriving DecidableEq, Repr

end Sys2Proof
end

