-- ==== Sys2Proof/Syntax.lean ====
section
/-! DEFINITION. `Instr`: one constructor for each row of spec/opcode_table.json. Ryufer instructions carry the slot they stand in where two slots share them (R44), their guard or predicate, and their operand fields; a field that a header widens is held at its combined width (R43). Ompen and Wellhead instructions carry their fields. The rows that are events of other agents carry nothing: which core or pending item such an event is about, and what the outside supplies with it, stands in the state as plain data (`Machine.Select`). -/

namespace Sys2Proof

/-- One row of spec/opcode_table.json, with its operands. -/
inductive Instr where
  -- bundle-level rows
  | hdr (d c b : BitVec 8)
  -- shared scalar block, integer (R73 to R81)
  | add (sl : AB) (g : GReg) (sd sa sb : SReg)
  | sub (sl : AB) (g : GReg) (sd sa sb : SReg)
  | and (sl : AB) (g : GReg) (sd sa sb : SReg)
  | or (sl : AB) (g : GReg) (sd sa sb : SReg)
  | xor (sl : AB) (g : GReg) (sd sa sb : SReg)
  | shl (sl : AB) (g : GReg) (sd sa sb : SReg)
  | shr (sl : AB) (g : GReg) (sd sa sb : SReg)
  | sra (sl : AB) (g : GReg) (sd sa sb : SReg)
  | min (sl : AB) (g : GReg) (sd sa sb : SReg)
  | max (sl : AB) (g : GReg) (sd sa sb : SReg)
  | minn (sl : AB) (g : GReg) (sd sa sb : SReg)
  | maxn (sl : AB) (g : GReg) (sd sa sb : SReg)
  | mul (sl : AB) (g : GReg) (sd sa sb : SReg)
  | mulh (sl : AB) (g : GReg) (sd sa sb : SReg)
  | mulhn (sl : AB) (g : GReg) (sd sa sb : SReg)
  | madd (sl : AB) (g : GReg) (sd sa sb : SReg)
  | addi (sl : AB) (g : GReg) (sd sa : SReg) (imm : BitVec 19)
  | andi (sl : AB) (g : GReg) (sd sa : SReg) (imm : BitVec 19)
  | ori (sl : AB) (g : GReg) (sd sa : SReg) (imm : BitVec 19)
  | xori (sl : AB) (g : GReg) (sd sa : SReg) (imm : BitVec 19)
  | shli (sl : AB) (g : GReg) (sd sa : SReg) (n : BitVec 6)
  | shri (sl : AB) (g : GReg) (sd sa : SReg) (n : BitVec 6)
  | srai (sl : AB) (g : GReg) (sd sa : SReg) (n : BitVec 6)
  | lui (sl : AB) (g : GReg) (sd : SReg) (imm : BitVec 24)
  | clz (sl : AB) (g : GReg) (sd sa : SReg)
  | popc (sl : AB) (g : GReg) (sd sa : SReg)
  | bfx (sl : AB) (g : GReg) (sd sa : SReg) (wm1 : BitVec 5) (pos : BitVec 6)
  | bfi (sl : AB) (g : GReg) (sd sa : SReg) (wm1 : BitVec 5) (pos : BitVec 6)
  | sel (sl : AB) (g : GReg) (sd sa sb : SReg) (gc : GReg)
  | div (sl : AB) (g : GReg) (sd sa sb : SReg)
  | divn (sl : AB) (g : GReg) (sd sa sb : SReg)
  | rem (sl : AB) (g : GReg) (sd sa sb : SReg)
  | remn (sl : AB) (g : GReg) (sd sa sb : SReg)
  | cmp (sl : AB) (g : GReg) (pair cc : BitVec 3) (sa sb : SReg)
  | cmpi (sl : AB) (g : GReg) (pair cc : BitVec 3) (sa : SReg) (imm : BitVec 18)
  | glog (sl : AB) (g : GReg) (pair fn : BitVec 3) (ga gb : GReg)
  | movg (sl : AB) (g : GReg) (toGuards : Bool) (r : SReg)
  -- scalar floating point (R82 to R86)
  | fadd (sl : AB) (g : GReg) (sd sa sb : SReg) (ftz : Bool) (rm : BitVec 3) (fmt : BitVec 2)
  | fsub (sl : AB) (g : GReg) (sd sa sb : SReg) (ftz : Bool) (rm : BitVec 3) (fmt : BitVec 2)
  | fmul (sl : AB) (g : GReg) (sd sa sb : SReg) (ftz : Bool) (rm : BitVec 3) (fmt : BitVec 2)
  | ffma (sl : AB) (g : GReg) (sd sa sb : SReg) (ftz : Bool) (rm : BitVec 3) (fmt : BitVec 2)
  | fmin (sl : AB) (g : GReg) (sd sa sb : SReg) (ftz : Bool) (fmt : BitVec 2)
  | fmax (sl : AB) (g : GReg) (sd sa sb : SReg) (ftz : Bool) (fmt : BitVec 2)
  | fcmp (sl : AB) (g : GReg) (pair cc : BitVec 3) (sa sb : SReg) (ftz : Bool) (fmt : BitVec 2)
  | fcvt (sl : AB) (g : GReg) (sd sa : SReg) (conv : BitVec 5) (ftz : Bool) (rm : BitVec 3)
  -- scalar loads and stores (R87, R88)
  | ldb (sl : AB) (g : GReg) (sd : SReg) (h : HReg) (sa : SReg) (imm : BitVec 15)
  | ldh (sl : AB) (g : GReg) (sd : SReg) (h : HReg) (sa : SReg) (imm : BitVec 15)
  | ldw (sl : AB) (g : GReg) (sd : SReg) (h : HReg) (sa : SReg) (imm : BitVec 15)
  | ldd (sl : AB) (g : GReg) (sd : SReg) (h : HReg) (sa : SReg) (imm : BitVec 15)
  | ldbx (sl : AB) (g : GReg) (sd : SReg) (h : HReg) (sa : SReg) (imm : BitVec 15)
  | ldhx (sl : AB) (g : GReg) (sd : SReg) (h : HReg) (sa : SReg) (imm : BitVec 15)
  | ldwx (sl : AB) (g : GReg) (sd : SReg) (h : HReg) (sa : SReg) (imm : BitVec 15)
  | stb (sl : AB) (g : GReg) (ss : SReg) (h : HReg) (sa : SReg) (imm : BitVec 15)
  | sth (sl : AB) (g : GReg) (ss : SReg) (h : HReg) (sa : SReg) (imm : BitVec 15)
  | stw (sl : AB) (g : GReg) (ss : SReg) (h : HReg) (sa : SReg) (imm : BitVec 15)
  | std (sl : AB) (g : GReg) (ss : SReg) (h : HReg) (sa : SReg) (imm : BitVec 15)
  -- slot A control (R89 to R101)
  | br (g : GReg) (hint : BitVec 2) (disp : BitVec 19)
  | call (g : GReg) (hint : BitVec 2) (disp : BitVec 19)
  | ret (g : GReg) (hint : BitVec 2)
  | jr (g : GReg) (hint : BitVec 2) (sa : SReg)
  | loops (g : GReg) (pair : BitVec 3) (sa : SReg) (ec : BitVec 8)
  | loopr (g : GReg) (hint : BitVec 2) (disp : BitVec 19)
  | loopc (g : GReg) (hint : BitVec 2) (disp : BitVec 19)
  | spawn (g : GReg) (h : HReg) (sa : SReg) (imm : BitVec 7)
  | endTask (g : GReg)
  | waitk (g : GReg) (k : KReg)
  | segmark (g : GReg) (n : BitVec 6)
  | trap (g : GReg) (n : BitVec 16)
  | bkpt (g : GReg) (n : BitVec 16)
  | eret (g : GReg)
  | sysrd (g : GReg) (sd : SReg) (n : BitVec 16)
  | syswr (g : GReg) (ss : SReg) (n : BitVec 16)
  | kstat (g : GReg) (sd : SReg) (k : KReg)
  | kclr (g : GReg) (k : KReg)
  | idle (g : GReg)
  -- slot B memory and synchronisation (R216 to R234)
  | vld (g : GReg) (vd : VReg) (h : HReg) (sa : SReg) (mode : BitVec 3) (imm : BitVec 11)
  | vst (g : GReg) (vs : VReg) (h : HReg) (sa : SReg) (mode : BitVec 3) (imm : BitVec 11)
  | vlds (g : GReg) (vd : VReg) (h : HReg) (sa : SReg) (mode : BitVec 3) (imm : BitVec 11)
  | vsts (g : GReg) (vs : VReg) (h : HReg) (sa : SReg) (mode : BitVec 3) (imm : BitVec 11)
  | ldro (g : GReg) (sd : SReg) (h : HReg) (sa : SReg) (imm : BitVec 15)
  | vldro (g : GReg) (vd : VReg) (h : HReg) (sa : SReg) (mode : BitVec 3) (imm : BitVec 11)
  | roinv (g : GReg)
  | lda (g : GReg) (sd : SReg) (h : HReg) (sa : SReg) (size : BitVec 2) (scope : BitVec 3)
  | stl (g : GReg) (ss : SReg) (h : HReg) (sa : SReg) (size : BitVec 2) (scope : BitVec 3)
  | amo (g : GReg) (sd : SReg) (h : HReg) (sa : SReg) (fn : BitVec 4) (scope : BitVec 3)
  | acas (g : GReg) (sd : SReg) (h : HReg) (sa : SReg) (scope : BitVec 3)
  | fadda (g : GReg) (sd : SReg) (h : HReg) (sa : SReg) (old : Bool) (scope : BitVec 3)
  | fence (g : GReg) (scope : BitVec 3)
  | drain (g : GReg) (scope : BitVec 3)
  | hbind (g : GReg) (h : HReg) (sa : SReg)
  | hinfo (g : GReg) (sd : SReg) (h : HReg) (sa : SReg) (imm : BitVec 15)
  | hsetxv (g : GReg) (h : HReg) (sa : SReg)
  | mset (g : GReg) (ss : SReg) (m : MReg)
  | mget (g : GReg) (sd : SReg) (m : MReg)
  | tuse (g : GReg) (h : HReg) (sa : SReg) (imm : BitVec 15)
  | pref (g : GReg) (h : HReg) (sa : SReg) (imm : BitVec 15)
  | awaitf (g : GReg) (ring : BitVec 6) (th : BitVec 18)
  | rels (g : GReg) (ring : BitVec 6) (sa : SReg) (imm : BitVec 18)
  | rpush (g : GReg) (ring : BitVec 6) (sa : SReg) (imm : BitVec 18)
  | barr (g : GReg) (gs : BitVec 2)
  | barw (g : GReg) (gs : BitVec 2) (sa : SReg)
  | bart (g : GReg) (gs : BitVec 2) (pair : BitVec 3) (sa : SReg)
  | split (g : GReg) (code : BitVec 3)
  -- slot C vector and predicate (R130 to R156)
  | vadd (p : PReg) (vd va vb : VReg) (ty : BitVec 3)
  | vsub (p : PReg) (vd va vb : VReg) (ty : BitVec 3)
  | vmul (p : PReg) (vd va vb : VReg) (ty : BitVec 3)
  | vfma (p : PReg) (vd va vb : VReg) (ty : BitVec 3)
  | vmin (p : PReg) (vd va vb : VReg) (ty : BitVec 3)
  | vmax (p : PReg) (vd va vb : VReg) (ty : BitVec 3)
  | vabs (p : PReg) (vd va : VReg) (ty : BitVec 3)
  | vneg (p : PReg) (vd va : VReg) (ty : BitVec 3)
  | vand (p : PReg) (vd va vb : VReg) (ty : BitVec 3)
  | vor (p : PReg) (vd va vb : VReg) (ty : BitVec 3)
  | vxor (p : PReg) (vd va vb : VReg) (ty : BitVec 3)
  | vshl (p : PReg) (vd va vb : VReg) (ty : BitVec 3)
  | vshr (p : PReg) (vd va vb : VReg) (ty : BitVec 3)
  | vsra (p : PReg) (vd va vb : VReg) (ty : BitVec 3)
  | vmulh (p : PReg) (vd va vb : VReg) (ty : BitVec 3)
  | vadds (p : PReg) (vd va : VReg) (sb : SReg) (ty : BitVec 3)
  | vsubs (p : PReg) (vd va : VReg) (sb : SReg) (ty : BitVec 3)
  | vmuls (p : PReg) (vd va : VReg) (sb : SReg) (ty : BitVec 3)
  | vfmas (p : PReg) (vd va : VReg) (sb : SReg) (ty : BitVec 3)
  | vmins (p : PReg) (vd va : VReg) (sb : SReg) (ty : BitVec 3)
  | vmaxs (p : PReg) (vd va : VReg) (sb : SReg) (ty : BitVec 3)
  | vands (p : PReg) (vd va : VReg) (sb : SReg) (ty : BitVec 3)
  | vors (p : PReg) (vd va : VReg) (sb : SReg) (ty : BitVec 3)
  | vxors (p : PReg) (vd va : VReg) (sb : SReg) (ty : BitVec 3)
  | vshls (p : PReg) (vd va : VReg) (sb : SReg) (ty : BitVec 3)
  | vshrs (p : PReg) (vd va : VReg) (sb : SReg) (ty : BitVec 3)
  | vsras (p : PReg) (vd va : VReg) (sb : SReg) (ty : BitVec 3)
  | vmulhs (p : PReg) (vd va : VReg) (sb : SReg) (ty : BitVec 3)
  | vcmp (p : PReg) (pair cc : BitVec 3) (va vb : VReg) (ty : BitVec 3)
  | vcmps (p : PReg) (pair cc : BitVec 3) (va : VReg) (sb : SReg) (ty : BitVec 3)
  | vsel (p : PReg) (vd va vb : VReg) (ty : BitVec 3)
  | vmov (p : PReg) (vd va : VReg) (ty : BitVec 3)
  | vbcast (p : PReg) (vd : VReg) (sb : SReg) (ty : BitVec 3)
  | vidx (p : PReg) (vd : VReg) (imm : BitVec 14) (ty : BitVec 3)
  | vcvt (p : PReg) (vd va : VReg) (fmt : BitVec 4) (unpack sat : Bool) (ty : BitVec 3)
  | vpack (p : PReg) (vd va vb : VReg) (ty : BitVec 3)
  | vunpk (p : PReg) (vd va : VReg) (half : Bool) (ty : BitVec 3)
  | vred (p : PReg) (toScalar : Bool) (dst : BitVec 5) (va : VReg) (fn ty : BitVec 3)
  | vscan (p : PReg) (vd va : VReg) (fn ty : BitVec 3)
  | vperm (p : PReg) (vd va vb : VReg) (ty : BitVec 3)
  | vrot (p : PReg) (vd va : VReg) (sb : SReg) (ty : BitVec 3)
  | vexp2 (p : PReg) (vd va : VReg) (ty : BitVec 3)
  | vlog2 (p : PReg) (vd va : VReg) (ty : BitVec 3)
  | vrcp (p : PReg) (vd va : VReg) (ty : BitVec 3)
  | vrsq (p : PReg) (vd va : VReg) (ty : BitVec 3)
  | vtanh (p : PReg) (vd va : VReg) (ty : BitVec 3)
  | vscac (p : PReg) (vd va vb : VReg) (ty : BitVec 3)
  | pcommit (p : PReg) (vd : VReg) (part : BitVec 6) (sb : SReg) (ty : BitVec 3)
  | vtopk (p : PReg) (vd va vb : VReg) (ty : BitVec 3)
  | vmaxi (p : PReg) (vd va vb : VReg) (ty : BitVec 3)
  | pand (p pd pa pb : PReg)
  | por (p pd pa pb : PReg)
  | pxor (p pd pa pb : PReg)
  | pnot (p pd pa : PReg)
  | pmov (p pd pa : PReg)
  | pcnt (p : PReg) (sd : SReg) (pa : PReg)
  | vget (p : PReg) (sd : SReg) (va : VReg) (lane : BitVec 7)
  | vset (p : PReg) (vd : VReg) (lane : BitVec 7) (sb : SReg)
  | vrnd (p : PReg) (vd va : VReg) (rm ty : BitVec 3)
  | vclamp (p : PReg) (vd va vb : VReg) (ty : BitVec 3)
  -- slot D engines (R259, R278, R287, R292, R296, R299, R307) and the events of the engines
  | mcall (g : GReg) (kd ka kb kc : KReg) (n : BitVec 7)
  | mzero (g : GReg) (kd ka kb kc : KReg) (tile : BitVec 2)
  | mloop (kleft : Bool) (l : BitVec 2) (target : BitVec 10)
  | madv (dest : BitVec 3) (src : BitVec 2) (set : Bool) (imm : BitVec 32)
  | kjoin (g : GReg) (kd ka kb kc : KReg)
  | xcopy (g : GReg) (kd ka kb kc : KReg) (x : BitVec 4)
  | xload (g : GReg) (kd ka kb kc : KReg) (x : BitVec 4)
  | xstore (g : GReg) (kd ka kb kc : KReg) (x : BitVec 4)
  | xgather (g : GReg) (kd ka kb kc : KReg) (x : BitVec 4)
  | xscatter (g : GReg) (kd ka kb kc : KReg) (x : BitVec 4)
  | xfill (g : GReg) (kd ka kb kc : KReg) (x : BitVec 4)
  | txpose (g : GReg) (variant : BitVec 5)
  | tconv (g : GReg) (x : BitVec 5)
  | texpand (g : GReg) (n : BitVec 2) (rm : BitVec 3)
  | tstream (g : GReg) (kd ka kb kc : KReg) (x : BitVec 4)
  | coll (g : GReg) (kd ka kb kc : KReg) (op gs : BitVec 2)
  | nmcall (g : GReg) (kd ka kb kc : KReg) (n : BitVec 8)
  | nmred (g : GReg) (kd ka kb kc : KReg)
  | nmired (g : GReg) (kd ka kb kc : KReg)
  -- the Ompen instruction set (R313 to R331)
  | ompenAdd (d a b : QReg)
  | ompenSub (d a b : QReg)
  | ompenAnd (d a b : QReg)
  | ompenOr (d a b : QReg)
  | ompenXor (d a b : QReg)
  | ompenShl (d a b : QReg)
  | ompenShr (d a b : QReg)
  | ompenSra (d a b : QReg)
  | ompenMul (d a b : QReg)
  | ompenMin (d a b : QReg)
  | ompenMax (d a b : QReg)
  | ompenMinn (d a b : QReg)
  | ompenMaxn (d a b : QReg)
  | ompenAddi (d a : QReg) (imm : BitVec 18)
  | ompenAndi (d a : QReg) (imm : BitVec 18)
  | ompenShli (d a : QReg) (n : BitVec 6)
  | ompenShri (d a : QReg) (n : BitVec 6)
  | ompenSrai (d a : QReg) (n : BitVec 6)
  | ompenLui (d : QReg) (imm : BitVec 22)
  | beq (a b : QReg) (disp : BitVec 15)
  | bne (a b : QReg) (disp : BitVec 15)
  | blt (a b : QReg) (disp : BitVec 15)
  | bge (a b : QReg) (disp : BitVec 15)
  | bltn (a b : QReg) (disp : BitVec 15)
  | bgen (a b : QReg) (disp : BitVec 15)
  | jmp (disp : BitVec 26)
  | loop (a : QReg) (disp : BitVec 15)
  | rds (d : QReg) (code : BitVec 4)
  | ld (d a : QReg) (size : BitVec 2) (imm : BitVec 13)
  | st (d a : QReg) (size : BitVec 2) (imm : BitVec 13)
  | ldx (d a : QReg) (e : EReg) (size : BitVec 2) (imm : BitVec 13)
  | stx (d a : QReg) (e : EReg) (size : BitVec 2) (imm : BitVec 13)
  | wld (d a : QReg) (imm : BitVec 13)
  | wst (d a : QReg) (imm : BitVec 13)
  | wldx (d a : QReg) (e : EReg) (imm : BitVec 13)
  | wstx (d a : QReg) (e : EReg) (imm : BitVec 13)
  | wfma (d a b : QReg) (z : ZReg) (ty : BitVec 3)
  | wadd (d a b : QReg) (z : ZReg) (ty : BitVec 3)
  | wmin (d a b : QReg) (z : ZReg) (ty : BitVec 3)
  | wmax (d a b : QReg) (z : ZReg) (ty : BitVec 3)
  | wcvt (d a : QReg) (z : ZReg) (fn : BitVec 4)
  | wbcast (d a : QReg) (z : ZReg)
  | wget (d a lane : QReg)
  | wcmp (d a b : QReg) (z : ZReg) (cc ty : BitVec 3)
  | wred (d a b : QReg) (z : ZReg) (fn : BitVec 4) (ty : BitVec 3)
  | topk (d a b : QReg) (ty : BitVec 3)
  | sectexp (d a b : QReg)
  | sectcmp (d a b : QReg)
  | ired (d a b : QReg) (e : EReg)
  | flagst (s a : QReg) (e : EReg)
  -- the Wellhead's command processors (R422, R423)
  | rngf (d s t : XReg)
  | bfxt (d s t : XReg)
  | sgwait (d s t : XReg)
  | dispx (d s t : XReg)
  | walog (d s t : XReg)
  | wacommit (d s t : XReg)
  -- SYSWR of the four registers whose write has a behaviour of its own (R271, R284, R377)
  | mpdataWrite (g : GReg) (ss : SReg)
  | ringcfgWrite (g : GReg) (ss : SReg)
  | wpinWrite (g : GReg) (ss : SReg)
  | wunpinWrite (g : GReg) (ss : SReg)
  -- rows without operands: bundle rows, micro-ops, Ompen words and the events of every agent; what an event is about stands in the state (`Machine.Select`)
  | nop
  | nullifierSkip
  | writebackLand
  | interlockedResultArrive
  | singleStep
  | branchTrace
  | wakeNotice
  | stlHeldPerform
  | atomicPerformAtHome
  | storeApplyAtHome
  | remoteStoreFailure
  | remoteAccessTimeout
  | ringCounterUpdate
  | barrierArrivalRemote
  | generationBroadcast
  | splitSwitch
  | matrixStart
  | mla
  | mlb
  | mstep
  | mdrain
  | msync
  | mend
  | microopCountExpiry
  | drainLand
  | mcallComplete
  | copyStart
  | copyComplete
  | engineTimeout
  | streamComplete
  | collInstanceStart
  | collComplete
  | lakebedCommandHandover
  | lakebedTaskHandover
  | lakebedKernelStart
  | lakebedWatchdog
  | ompenNop
  | ompenFence
  | yield
  | done
  | compressedLineWrite
  | submissionWordWrite
  | commandWordWrite
  | operatorAdmit
  | coresidentLaunch
  | taskPop
  | segmentCopyLand
  | operatorComplete
  | operatorDeadline
  | completionWindowClose
  | ringRecordWrite
  | migrationEpochEnd
  | migrationSwitch
  | walkComplete
  | faultTimeout
  | weirActionSwitch
  | reserveDrain
  | recomputeComplete
  | recomputeFail
  | tensorImageLoad
  | tensorDelete
  | preemptRequest
  | contextSave
  | partitionResize
  | resizeTimeout
  | partitionReset
  | clearStream
  | cancel
  | preempt
  | invalidate
  | faultAnswer
  | checkpoint
  | restore
  | groupDomain
  | qpReset
  | graphLaunch
  | graphPatch
  | graphAbort
  | attest
  | health
  | rdmaRequest
  | rdmaRequestComplete
  | inboundRdmaWrite
  | linkDown
  | coreRailAlarmRaise
  | coreRailAlarmClear
  | thermalClockLower
  | thermalClockRestore
  | thermalTrip
  | healthBlockSave
  | moduleReset
  | recoveryImageDownload
  | sgwaitLimitExpiry
  | hangDetectorExpiry
  | wellheadRestart
  | illegalOpcode
  | ompenIllegalOpcode
  | partitionCreate
  | tensorCreate
  | domainMapChange
  | engineOffline
  | rdmaRetryExceeded
  | powerFail
  deriving DecidableEq, Repr

end Sys2Proof
end

