-- ==== Sys2Proof/Decode.lean ====
section
/-! DEFINITION. Decoding and encoding, from the encoding tables of the spec: the four slots of a bundle with the header's extension bytes (R34 to R50), the bundle checks (R51 to R53), Ompen words (R313 to R329), the Wellhead's custom words (R422) and matrix micro-ops (R256). A word is read as a number; its bit 0 is the least significant (R2). -/

namespace Sys2Proof

/-- Why a slot word or an Ompen word is refused (R49, R50, R315). -/
inductive DecodeError where
  | illegalOpcode
  | headerMisplaced
  | reservedField
  deriving DecidableEq, Repr

/-- Bits [lo + n − 1 : lo] of a word (R2). -/
def fld (w lo n : Nat) : BitVec n := BitVec.ofNat n (w / 2 ^ lo)

/-- The word whose fields, from the highest down, are given as (width, value). -/
def packFields (l : List (Nat × Nat)) : Nat := l.foldl (fun a f => a * 2 ^ f.1 + f.2) 0

/-- A field that a header widens (R43): with a header its extension byte supplies the 8 high bits; without one the base field is sign- or zero-extended to the combined width (R38). -/
def widen (signed : Bool) (n : Nat) (base : BitVec n) : Option (BitVec 8) → BitVec (n + 8)
  | some e => BitVec.ofNat (n + 8) (e.toNat * 2 ^ n + base.toNat)
  | none => if signed then base.signExtend (n + 8) else base.zeroExtend (n + 8)

/-- The reserved-field rule of R50: a decoded instruction stands only if the field rule holds. -/
def need (b : Bool) (i : Instr) : Except DecodeError Instr :=
  if b then .ok i else .error .reservedField

/-- The shared scalar block, opcodes 0x00 to 0x4F (R44), in slot A or B. `ext` is the slot's extension byte, if the bundle has a header; slot A never has one (R43). -/
def decodeShared (sl : AB) (ext : Option (BitVec 8)) (w : Nat) : Except DecodeError Instr :=
  let g := fld w 21 4
  let sd := fld w 16 5
  let sa := fld w 11 5
  let sb := fld w 6 5
  let fn := fld w 0 6
  let pair := fld w 18 3
  let cc := fld w 15 3
  let ca := fld w 10 5
  let cb := fld w 5 5
  let imm19 := widen true 11 (fld w 0 11) ext
  let h := fld w 12 4
  let la := fld w 7 5
  let imm15 := widen false 7 (fld w 0 7) ext
  let fmt := fld w 0 2
  let rm := fld w 2 3
  let ftz := fld w 5 1 == 1#1
  match (fld w 25 7).toNat with
  | 0x01 => need (fn == 0) (.add sl g sd sa sb)
  | 0x02 => need (fn == 0) (.sub sl g sd sa sb)
  | 0x03 => need (fn == 0) (.and sl g sd sa sb)
  | 0x04 => need (fn == 0) (.or sl g sd sa sb)
  | 0x05 => need (fn == 0) (.xor sl g sd sa sb)
  | 0x06 => need (fn == 0) (.shl sl g sd sa sb)
  | 0x07 => need (fn == 0) (.shr sl g sd sa sb)
  | 0x08 => need (fn == 0) (.sra sl g sd sa sb)
  | 0x09 => need (fn == 0) (.min sl g sd sa sb)
  | 0x0A => need (fn == 0) (.max sl g sd sa sb)
  | 0x0B => need (fn == 0) (.minn sl g sd sa sb)
  | 0x0C => need (fn == 0) (.maxn sl g sd sa sb)
  | 0x0D => need (fn == 0) (.mul sl g sd sa sb)
  | 0x0E => need (fn == 0) (.mulh sl g sd sa sb)
  | 0x0F => need (fn == 0) (.mulhn sl g sd sa sb)
  | 0x10 => .ok (.addi sl g sd sa imm19)
  | 0x11 => .ok (.andi sl g sd sa imm19)
  | 0x12 => .ok (.ori sl g sd sa imm19)
  | 0x13 => .ok (.xori sl g sd sa imm19)
  | 0x14 => need (fld w 6 5 == 0) (.shli sl g sd sa (fld w 0 6))
  | 0x15 => need (fld w 6 5 == 0) (.shri sl g sd sa (fld w 0 6))
  | 0x16 => need (fld w 6 5 == 0) (.srai sl g sd sa (fld w 0 6))
  | 0x17 => .ok (.lui sl g sd (widen true 16 (fld w 0 16) ext))
  | 0x18 => need (fn == 0) (.madd sl g sd sa sb)
  | 0x19 => need (sb == 0 && fn == 0) (.clz sl g sd sa)
  | 0x1A => need (sb == 0 && fn == 0) (.popc sl g sd sa)
  | 0x1B => need (fn.toNat + sb.toNat + 1 ≤ 64) (.bfx sl g sd sa sb fn)
  | 0x1C => need (fn.toNat + sb.toNat + 1 ≤ 64) (.bfi sl g sd sa sb fn)
  | 0x1D => need (fld w 4 2 == 0) (.sel sl g sd sa sb (fld w 0 4))
  | 0x1E => need (fn == 0) (.div sl g sd sa sb)
  | 0x1F => need (fn == 0) (.divn sl g sd sa sb)
  | 0x20 => need (fn == 0) (.rem sl g sd sa sb)
  | 0x21 => need (fn == 0) (.remn sl g sd sa sb)
  | 0x22 => need (fld w 0 5 == 0) (.cmp sl g pair cc ca cb)
  | 0x23 => .ok (.cmpi sl g pair cc ca (widen (!(cc == 4 || cc == 5)) 10 (fld w 0 10) ext))
  | 0x24 => need (fld w 0 7 == 0) (.glog sl g pair cc (fld w 11 4) (fld w 7 4))
  | 0x25 => .ok (.fadd sl g sd sa sb ftz rm fmt)
  | 0x26 => .ok (.fsub sl g sd sa sb ftz rm fmt)
  | 0x27 => .ok (.fmul sl g sd sa sb ftz rm fmt)
  | 0x28 => .ok (.ffma sl g sd sa sb ftz rm fmt)
  | 0x29 => need (rm == 0) (.fmin sl g sd sa sb ftz fmt)
  | 0x2A => need (rm == 0) (.fmax sl g sd sa sb ftz fmt)
  | 0x2B => need (fld w 3 2 == 0) (.fcmp sl g pair cc ca cb (fld w 2 1 == 1#1) fmt)
  | 0x2C => need (fmt == 0 && sb.toNat < 14) (.fcvt sl g sd sa sb ftz rm)
  | 0x2D =>
    if fld w 0 1 == 1#1 then need (sd == 0 && sb == 0 && fld w 1 5 == 0) (.movg sl g true sa)
    else need (sa == 0 && sb == 0 && fld w 1 5 == 0) (.movg sl g false sd)
  | 0x40 => .ok (.ldb sl g sd h la imm15)
  | 0x41 => .ok (.ldh sl g sd h la imm15)
  | 0x42 => .ok (.ldw sl g sd h la imm15)
  | 0x43 => .ok (.ldd sl g sd h la imm15)
  | 0x44 => .ok (.ldbx sl g sd h la imm15)
  | 0x45 => .ok (.ldhx sl g sd h la imm15)
  | 0x46 => .ok (.ldwx sl g sd h la imm15)
  | 0x47 => .ok (.stb sl g sd h la imm15)
  | 0x48 => .ok (.sth sl g sd h la imm15)
  | 0x49 => .ok (.stw sl g sd h la imm15)
  | 0x4A => .ok (.std sl g sd h la imm15)
  | _ => .error .illegalOpcode

/-- SYSWR (R45) with the four registers whose write has a behaviour of its own as rows of their own: MPDATA (R271), RINGCFG (R284), WPIN and WUNPIN (R377). -/
def decodeSyswr (g : GReg) (ss : SReg) (n : BitVec 16) : Instr :=
  match n.toNat with
  | 0x0131 => .mpdataWrite g ss
  | 0x0141 => .ringcfgWrite g ss
  | 0x0164 => .wpinWrite g ss
  | 0x0165 => .wunpinWrite g ss
  | _ => .syswr g ss n

/-- The system register numbers the spec lists (R99, R186, R215, R271, R283, R361, R377, R392, R420); any other is RESERVED_FIELD (R99). -/
def sysregListed (n : Nat) : Bool :=
  (n ≤ 0x0005) || (0x0008 ≤ n && n ≤ 0x000B) || (0x0010 ≤ n && n ≤ 0x0013) || (0x0020 ≤ n && n ≤ 0x0023) || n == 0x0030
  || (0x0100 ≤ n && n ≤ 0x011A) || (0x0120 ≤ n && n ≤ 0x0123) || (0x0130 ≤ n && n ≤ 0x0131) || (0x0140 ≤ n && n ≤ 0x0143)
  || (0x0150 ≤ n && n ≤ 0x0154) || (0x0160 ≤ n && n ≤ 0x0165) || (0x0170 ≤ n && n ≤ 0x0172) || (0x0180 ≤ n && n ≤ 0x0183)

/-- Slot A (R44, R45). A bundle with a header has no other slot-A instruction, so nothing here is widened (R43). -/
def decodeA (w : Nat) : Except DecodeError Instr :=
  let g := fld w 21 4
  let hint := fld w 19 2
  let disp := fld w 0 19
  let r := fld w 16 5
  let imm16 := fld w 0 16
  let ja := fld w 11 5
  match (fld w 25 7).toNat with
  | 0x00 => .ok .nop
  | 0x50 => .ok (.br g hint disp)
  | 0x51 => .ok (.call g hint disp)
  | 0x52 => need (fld w 0 19 == 0) (.ret g hint)
  | 0x53 => need (fld w 16 3 == 0 && fld w 0 11 == 0) (.jr g hint ja)
  | 0x54 => need (fld w 15 3 == 0 && fld w 8 2 == 0) (.loops g (fld w 18 3) (fld w 10 5) (fld w 0 8))
  | 0x55 => .ok (.loopr g hint disp)
  | 0x56 => .ok (.loopc g hint disp)
  | 0x57 => need (r == 0) (.spawn g (fld w 12 4) (fld w 7 5) (fld w 0 7))
  | 0x58 => need (fld w 0 21 == 0) (.endTask g)
  | 0x59 => need (r == 0 && fld w 0 12 == 0) (.waitk g (fld w 12 4))
  | 0x5A => need (fld w 6 15 == 0) (.segmark g (fld w 0 6))
  | 0x5B => need (r == 0) (.trap g imm16)
  | 0x5C => need (fld w 0 21 == 0) (.eret g)
  | 0x5D => need (sysregListed imm16.toNat) (.sysrd g r imm16)
  | 0x5E => need (sysregListed imm16.toNat) (decodeSyswr g r imm16)
  | 0x5F => need (r == 0) (.bkpt g imm16)
  | 0x60 => need (fld w 0 12 == 0) (.kstat g r (fld w 12 4))
  | 0x61 => need (r == 0 && fld w 0 12 == 0) (.kclr g (fld w 12 4))
  | 0x62 => need (fld w 0 21 == 0) (.idle g)
  | 0x7E => need (fld w 24 1 == 0) (.hdr (fld w 16 8) (fld w 8 8) (fld w 0 8))
  | _ => decodeShared .a none w

/-- Slot B (R44, R46), `ext` the extension byte for slot B if the bundle has a header. -/
def decodeB (ext : Option (BitVec 8)) (w : Nat) : Except DecodeError Instr :=
  let g := fld w 21 4
  let vd := fld w 15 6
  let vh := fld w 11 4
  let va := fld w 6 5
  let mode := fld w 3 3
  let imm11 := widen false 3 (fld w 0 3) ext
  let r := fld w 16 5
  let h := fld w 12 4
  let sa := fld w 7 5
  let imm15 := widen false 7 (fld w 0 7) ext
  let scope := fld w 0 3
  let ring := fld w 15 6
  let ra := fld w 10 5
  let imm18 := widen false 10 (fld w 0 10) ext
  let contiguous := mode.toNat ≤ 3
  match (fld w 25 7).toNat with
  | 0x00 => .ok .nop
  | 0x50 => need (mode.toNat ≤ 4) (.vld g vd vh va mode imm11)
  | 0x51 => need contiguous (.vst g vd vh va mode imm11)
  | 0x52 => need (mode.toNat ≤ 2) (.vlds g vd vh va mode imm11)
  | 0x53 => need (mode.toNat ≤ 2) (.vsts g vd vh va mode imm11)
  | 0x54 => .ok (.ldro g r h sa imm15)
  | 0x55 => need (mode.toNat ≤ 4) (.vldro g vd vh va mode imm11)
  | 0x56 => need (fld w 3 2 == 0) (.lda g r h sa (fld w 5 2) scope)
  | 0x57 => need (fld w 3 2 == 0) (.stl g r h sa (fld w 5 2) scope)
  | 0x58 => need ((fld w 3 4).toNat ≤ 8) (.amo g r h sa (fld w 3 4) scope)
  | 0x59 => need (fld w 3 4 == 0 && r.toNat ≤ 30) (.acas g r h sa scope)
  | 0x5A => need (fld w 4 3 == 0) (.fadda g r h sa (fld w 3 1 == 1#1) scope)
  | 0x5B => need (fld w 3 18 == 0) (.fence g scope)
  | 0x5C => need (fld w 3 18 == 0) (.drain g scope)
  | 0x5D => need (fld w 0 21 == 0) (.roinv g)
  | 0x5E => need (r == 0 && 2 ≤ h.toNat && imm15 == 0) (.hbind g h sa)
  | 0x5F => .ok (.hinfo g r h sa imm15)
  | 0x60 => need (fld w 0 13 == 0) (.mset g r (fld w 13 3))
  | 0x61 => need (fld w 0 13 == 0) (.mget g r (fld w 13 3))
  | 0x62 => need (ra == 0) (.awaitf g ring imm18)
  | 0x63 => .ok (.rels g ring ra imm18)
  | 0x64 => .ok (.rpush g ring ra imm18)
  | 0x65 => need (fld w 0 19 == 0) (.barr g (fld w 19 2))
  | 0x66 => need (fld w 15 4 == 0 && fld w 0 10 == 0) (.barw g (fld w 19 2) ra)
  | 0x67 => need (fld w 15 1 == 0 && fld w 0 10 == 0) (.bart g (fld w 19 2) (fld w 16 3) ra)
  | 0x68 => need (fld w 3 18 == 0 && scope.toNat ≤ 4) (.split g scope)
  | 0x69 => need (r == 0) (.tuse g h sa imm15)
  | 0x6A => need (r == 0) (.pref g h sa imm15)
  | 0x6B => need (r == 0 && imm15 == 0) (.hsetxv g h sa)
  | 0x7E => .error .headerMisplaced
  | _ => decodeShared .b ext w

/-- Slot C (R47), `ext` the extension byte for slot C if the bundle has a header. -/
def decodeC (ext : Option (BitVec 8)) (w : Nat) : Except DecodeError Instr :=
  let p := fld w 21 4
  let vd := fld w 15 6
  let va := fld w 9 6
  let vb := fld w 3 6
  let ty := fld w 0 3
  let sb := fld w 4 5
  let z3 := fld w 3 1 == 0
  match (fld w 25 7).toNat with
  | 0x00 => .ok .nop
  | 0x01 => .ok (.vadd p vd va vb ty)
  | 0x02 => .ok (.vsub p vd va vb ty)
  | 0x03 => .ok (.vmul p vd va vb ty)
  | 0x04 => .ok (.vfma p vd va vb ty)
  | 0x05 => .ok (.vmin p vd va vb ty)
  | 0x06 => .ok (.vmax p vd va vb ty)
  | 0x07 => need (vb == 0) (.vabs p vd va ty)
  | 0x08 => need (vb == 0) (.vneg p vd va ty)
  | 0x09 => .ok (.vand p vd va vb ty)
  | 0x0A => .ok (.vor p vd va vb ty)
  | 0x0B => .ok (.vxor p vd va vb ty)
  | 0x0C => .ok (.vshl p vd va vb ty)
  | 0x0D => .ok (.vshr p vd va vb ty)
  | 0x0E => .ok (.vsra p vd va vb ty)
  | 0x0F => .ok (.vmulh p vd va vb ty)
  | 0x11 => need z3 (.vadds p vd va sb ty)
  | 0x12 => need z3 (.vsubs p vd va sb ty)
  | 0x13 => need z3 (.vmuls p vd va sb ty)
  | 0x14 => need z3 (.vfmas p vd va sb ty)
  | 0x15 => need z3 (.vmins p vd va sb ty)
  | 0x16 => need z3 (.vmaxs p vd va sb ty)
  | 0x19 => need z3 (.vands p vd va sb ty)
  | 0x1A => need z3 (.vors p vd va sb ty)
  | 0x1B => need z3 (.vxors p vd va sb ty)
  | 0x1C => need z3 (.vshls p vd va sb ty)
  | 0x1D => need z3 (.vshrs p vd va sb ty)
  | 0x1E => need z3 (.vsras p vd va sb ty)
  | 0x1F => need z3 (.vmulhs p vd va sb ty)
  | 0x20 => .ok (.vcmp p (fld w 18 3) (fld w 15 3) va vb ty)
  | 0x21 => need z3 (.vcmps p (fld w 18 3) (fld w 15 3) va sb ty)
  | 0x22 => .ok (.vsel p vd va vb ty)
  | 0x23 => need (vb == 0) (.vmov p vd va ty)
  | 0x24 => need (va == 0 && z3) (.vbcast p vd sb ty)
  | 0x25 => need (va == 0) (.vidx p vd (widen true 6 vb ext) ty)
  | 0x26 => need ((fld w 5 4).toNat ≤ 14) (.vcvt p vd va (fld w 5 4) (fld w 4 1 == 1#1) (fld w 3 1 == 1#1) ty)
  | 0x27 => .ok (.vpack p vd va vb ty)
  | 0x28 => need (vb.toNat ≤ 1) (.vunpk p vd va (vb == 1) ty)
  | 0x29 => need (fld w 3 3 == 0 && (fld w 6 3).toNat ≤ 4) (.vred p (fld w 20 1 == 1#1) (fld w 15 5) va (fld w 6 3) ty)
  | 0x2A => need (fld w 3 3 == 0 && (fld w 6 3).toNat ≤ 4) (.vscan p vd va (fld w 6 3) ty)
  | 0x2B => .ok (.vperm p vd va vb ty)
  | 0x2C => need z3 (.vrot p vd va sb ty)
  | 0x2D => need (vb == 0) (.vexp2 p vd va ty)
  | 0x2E => need (vb == 0) (.vlog2 p vd va ty)
  | 0x2F => need (vb == 0) (.vrcp p vd va ty)
  | 0x30 => need (vb == 0) (.vrsq p vd va ty)
  | 0x31 => need (vb == 0) (.vtanh p vd va ty)
  | 0x32 => .ok (.vscac p vd va vb ty)
  | 0x33 => need z3 (.pcommit p vd va sb ty)
  | 0x34 => .ok (.vtopk p vd va vb ty)
  | 0x35 => .ok (.vmaxi p vd va vb ty)
  | 0x36 => need (fld w 19 2 == 0 && fld w 13 2 == 0 && fld w 7 2 == 0 && ty == 0) (.pand p (fld w 15 4) (fld w 9 4) (fld w 3 4))
  | 0x37 => need (fld w 19 2 == 0 && fld w 13 2 == 0 && fld w 7 2 == 0 && ty == 0) (.por p (fld w 15 4) (fld w 9 4) (fld w 3 4))
  | 0x38 => need (fld w 19 2 == 0 && fld w 13 2 == 0 && fld w 7 2 == 0 && ty == 0) (.pxor p (fld w 15 4) (fld w 9 4) (fld w 3 4))
  | 0x39 => need (fld w 19 2 == 0 && fld w 13 2 == 0 && fld w 0 9 == 0) (.pnot p (fld w 15 4) (fld w 9 4))
  | 0x3A => need (fld w 19 2 == 0 && fld w 13 2 == 0 && fld w 0 9 == 0) (.pmov p (fld w 15 4) (fld w 9 4))
  | 0x3B => need (fld w 20 1 == 1#1 && fld w 13 2 == 0 && fld w 0 9 == 0) (.pcnt p (fld w 15 5) (fld w 9 4))
  | 0x3C => need (fld w 20 1 == 1#1 && fld w 0 2 == 0) (.vget p (fld w 15 5) va (fld w 2 7))
  | 0x3D => need (ty == 0) (.vset p vd (fld w 8 7) (fld w 3 5))
  | 0x3E => need (fld w 3 3 == 0) (.vrnd p vd va (fld w 6 3) ty)
  | 0x3F => .ok (.vclamp p vd va vb ty)
  | 0x7E => .error .headerMisplaced
  | _ => .error .illegalOpcode

/-- Slot D (R48), `ext` the extension byte for slot D if the bundle has a header. A combined variant of 32 or more is refused here (R43, R48, R50); a variant of TXPOSE or TCONV below 32 that is not defined is refused when its bundle issues (R292). -/
def decodeD (ext : Option (BitVec 8)) (w : Nat) : Except DecodeError Instr :=
  let g := fld w 21 4
  let kd := fld w 17 4
  let ka := fld w 13 4
  let kb := fld w 9 4
  let kc := fld w 5 4
  let x := (widen false 5 (fld w 0 5) ext).toNat
  let k0s := fld w 5 16 == 0
  match (fld w 25 7).toNat with
  | 0x00 => .ok .nop
  | 0x01 => need (x < 128) (.mcall g kd ka kb kc (BitVec.ofNat 7 x))
  | 0x02 => need (x < 4) (.mzero g kd ka kb kc (BitVec.ofNat 2 x))
  | 0x03 => need (x == 0) (.kjoin g kd ka kb kc)
  | 0x04 => need (x < 16) (.xcopy g kd ka kb kc (BitVec.ofNat 4 x))
  | 0x05 => need (x < 16) (.xload g kd ka kb kc (BitVec.ofNat 4 x))
  | 0x06 => need (x < 16) (.xstore g kd ka kb kc (BitVec.ofNat 4 x))
  | 0x07 => need (x < 16) (.xgather g kd ka kb kc (BitVec.ofNat 4 x))
  | 0x08 => need (x < 16) (.xscatter g kd ka kb kc (BitVec.ofNat 4 x))
  | 0x09 => need (x < 16) (.xfill g kd ka kb kc (BitVec.ofNat 4 x))
  | 0x0A => need (k0s && x < 32) (.txpose g (BitVec.ofNat 5 x))
  | 0x0B => need (k0s && x < 32) (.tconv g (BitVec.ofNat 5 x))
  | 0x0C => need (k0s && x < 32) (.texpand g (BitVec.ofNat 2 (x / 8)) (BitVec.ofNat 3 x))
  | 0x0D => need (x < 16) (.tstream g kd ka kb kc (BitVec.ofNat 4 x))
  | 0x0E => need (x < 16) (.coll g kd ka kb kc (BitVec.ofNat 2 (x / 4)) (BitVec.ofNat 2 x))
  | 0x0F => need (x < 256) (.nmcall g kd ka kb kc (BitVec.ofNat 8 x))
  | 0x10 => need (x == 0) (.nmred g kd ka kb kc)
  | 0x11 => need (x == 0) (.nmired g kd ka kb kc)
  | 0x7E => .error .headerMisplaced
  | _ => .error .illegalOpcode

/-- The word of one slot, decoded by that slot's map. -/
def decodeSlot (sl : Slot) (ext : Option (BitVec 8)) (w : Nat) : Except DecodeError Instr :=
  match sl with
  | .a => decodeA w
  | .b => decodeB ext w
  | .c => decodeC ext w
  | .d => decodeD ext w

/-- Ompen words (R313, R314). The must-be-zero fields are refused here (R315); a reserved code in an operand field (a `ty`, a conversion, `LOOP` of q0) is refused by the instruction when it runs, with the same RESERVED_FIELD. -/
def decodeOmpen (w : Nat) : Except DecodeError Instr :=
  let d := fld w 22 4
  let a := fld w 18 4
  let b := fld w 14 4
  let e := fld w 15 3
  let size := fld w 13 2
  let imm13 := fld w 0 13
  let z := fld w 12 2
  let fn := fld w 8 4
  let ty := fld w 0 3
  let ov := fld w 3 5 == 0
  match (fld w 26 6).toNat with
  | 0x00 => need (fld w 0 26 == 0) .ompenNop
  | 0x01 =>
    if fld w 4 10 == 0 then
      match (fld w 0 4).toNat with
      | 0 => .ok (.ompenAdd d a b)
      | 1 => .ok (.ompenSub d a b)
      | 2 => .ok (.ompenAnd d a b)
      | 3 => .ok (.ompenOr d a b)
      | 4 => .ok (.ompenXor d a b)
      | 5 => .ok (.ompenShl d a b)
      | 6 => .ok (.ompenShr d a b)
      | 7 => .ok (.ompenSra d a b)
      | 8 => .ok (.ompenMul d a b)
      | 9 => .ok (.ompenMin d a b)
      | 10 => .ok (.ompenMax d a b)
      | 11 => .ok (.ompenMinn d a b)
      | 12 => .ok (.ompenMaxn d a b)
      | _ => .error .reservedField
    else .error .reservedField
  | 0x02 => .ok (.ompenAddi d a (fld w 0 18))
  | 0x03 => .ok (.ompenAndi d a (fld w 0 18))
  | 0x04 =>
    if fld w 6 10 == 0 then
      match (fld w 16 2).toNat with
      | 0 => .ok (.ompenShli d a (fld w 0 6))
      | 1 => .ok (.ompenShri d a (fld w 0 6))
      | 2 => .ok (.ompenSrai d a (fld w 0 6))
      | _ => .error .reservedField
    else .error .reservedField
  | 0x05 => .ok (.ompenLui d (fld w 0 22))
  | 0x06 =>
    match e.toNat with
    | 0 => .ok (.beq d a (fld w 0 15))
    | 1 => .ok (.bne d a (fld w 0 15))
    | 2 => .ok (.blt d a (fld w 0 15))
    | 3 => .ok (.bge d a (fld w 0 15))
    | 4 => .ok (.bltn d a (fld w 0 15))
    | 5 => .ok (.bgen d a (fld w 0 15))
    | _ => .error .reservedField
  | 0x07 => .ok (.jmp (fld w 0 26))
  | 0x08 => need (fld w 15 7 == 0) (.loop d (fld w 0 15))
  | 0x09 => need (a == 0 && fld w 4 14 == 0) (.rds d (fld w 0 4))
  | 0x10 => need (e == 0) (.ld d a size imm13)
  | 0x11 => need (e == 0) (.st d a size imm13)
  | 0x12 => .ok (.ldx d a e size imm13)
  | 0x13 => .ok (.stx d a e size imm13)
  | 0x14 => need (e == 0 && size == 0) (.wld d a imm13)
  | 0x15 => need (e == 0 && size == 0) (.wst d a imm13)
  | 0x16 => need (size == 0) (.wldx d a e imm13)
  | 0x17 => need (size == 0) (.wstx d a e imm13)
  | 0x20 => need (ov && fn == 0) (.wfma d a b z ty)
  | 0x21 => need (ov && fn == 0) (.wadd d a b z ty)
  | 0x22 => need (ov && fn == 0) (.wmin d a b z ty)
  | 0x23 => need (ov && fn == 0) (.wmax d a b z ty)
  | 0x24 => need (ov && b == 0 && ty == 0) (.wcvt d a z fn)
  | 0x25 => need (ov && b == 0 && fn == 0 && ty == 0) (.wbcast d a z)
  | 0x26 => need (ov && z == 0 && fn == 0 && ty == 0) (.wget d a b)
  | 0x27 => need (ov && fld w 11 1 == 0) (.wcmp d a b z (fld w 8 3) ty)
  | 0x28 => need ov (.wred d a b z fn ty)
  | 0x2A => need (fld w 3 11 == 0) (.topk d a b ty)
  | 0x2B => need (fld w 0 14 == 0) (.sectexp d a b)
  | 0x2C => need (fld w 0 14 == 0) (.sectcmp d a b)
  | 0x2D => need (fld w 0 11 == 0) (.ired d a b (fld w 11 3))
  | 0x30 => need (size == 0 && imm13 == 0) (.flagst d a e)
  | 0x31 => need (fld w 0 26 == 0) .ompenFence
  | 0x32 => need (fld w 0 26 == 0) .yield
  | 0x33 => need (fld w 0 26 == 0) .done
  | _ => .error .illegalOpcode

/-- The Wellhead's six custom words, custom-0 with funct7 = 0 and funct3 0 to 5 (R422); `none` is a word that is not one of them. -/
def decodeWell (w : Nat) : Option Instr :=
  let d := fld w 7 5
  let s := fld w 15 5
  let t := fld w 20 5
  if fld w 0 7 == 0x0B && fld w 25 7 == 0 then
    match (fld w 12 3).toNat with
    | 0 => some (.rngf d s t)
    | 1 => some (.bfxt d s t)
    | 2 => some (.sgwait d s t)
    | 3 => some (.dispx d s t)
    | 4 => some (.walog d s t)
    | 5 => some (.wacommit d s t)
    | _ => none
  else none

/-- A micro-op word of a matrix routine (R256); `none` is a reserved code or a nonzero reserved field. The TRANS and COND bits of MLB and MDRAIN are read from the word in the sequencer. -/
def decodeMicro (w : Nat) : Option Instr :=
  let ok (b : Bool) (i : Instr) : Option Instr := if b then some i else none
  match (fld w 59 5).toNat with
  | 0x01 => ok (fld w 0 59 == 0) .mla
  | 0x02 => ok (fld w 1 58 == 0) .mlb
  | 0x03 => ok (fld w 0 59 == 0) .mstep
  | 0x04 => ok (fld w 1 58 == 0) .mdrain
  | 0x05 => ok (fld w 10 45 == 0 && (fld w 57 2).toNat ≤ 1) (.mloop (fld w 57 1 == 1#1) (fld w 55 2) (fld w 0 10))
  | 0x06 => ok (fld w 32 21 == 0 && (fld w 54 2).toNat ≤ 2) (.madv (fld w 56 3) (fld w 54 2) (fld w 53 1 == 1#1) (fld w 0 32))
  | 0x07 => ok (fld w 0 59 == 0) .msync
  | 0x08 => ok (fld w 0 59 == 0) .mend
  | _ => none

/-! ### Bundles (R34, R42, R49 to R53) -/

/-- The instructions that consume a header's extension byte (R43). -/
def consumesExt : Instr → Bool
  | .addi .. | .andi .. | .ori .. | .xori .. | .lui .. | .cmpi .. => true
  | .ldb .. | .ldh .. | .ldw .. | .ldd .. | .ldbx .. | .ldhx .. | .ldwx .. | .stb .. | .sth .. | .stw .. | .std .. => true
  | .ldro .. | .hbind .. | .hinfo .. | .tuse .. | .pref .. | .hsetxv .. => true
  | .vld .. | .vst .. | .vlds .. | .vsts .. | .vldro .. | .awaitf .. | .rels .. | .rpush .. => true
  | .vidx .. => true
  | .mcall .. | .mzero .. | .kjoin .. | .xcopy .. | .xload .. | .xstore .. | .xgather .. | .xscatter .. | .xfill .. => true
  | .txpose .. | .tconv .. | .texpand .. | .tstream .. | .coll .. | .nmcall .. | .nmred .. | .nmired .. => true
  | _ => false

/-- A register as R53 names it in a detail: class 0 scalar, 1 guard, 2 vector, 3 predicate, 4 token, 5 parameter, 6 loop control, 7 scratchpad word (R362). -/
structure RegName where
  cls : Nat
  num : Nat
  deriving DecidableEq, Repr

def wScalar (r : SReg) : List RegName := if r == 0 then [] else [⟨0, r.toNat⟩]
def wPair (j : BitVec 3) (cls : Nat) : List RegName := if j == 0 then [] else [⟨cls, 2 * j.toNat⟩, ⟨cls, 2 * j.toNat + 1⟩]
def wPred (r : PReg) : List RegName := if r.toNat ≤ 1 then [] else [⟨3, r.toNat⟩]
def wToken (k : KReg) : List RegName := if k == 0 then [] else [⟨4, k.toNat⟩]
def wVec (r : VReg) : List RegName := [⟨2, r.toNat⟩]

/-- The registers an instruction writes, by the names in the bundle, as R51 counts them; discarded writes (R9) never count. -/
def regWrites : Instr → List RegName
  | .add _ _ d _ _ | .sub _ _ d _ _ | .and _ _ d _ _ | .or _ _ d _ _ | .xor _ _ d _ _ | .shl _ _ d _ _ | .shr _ _ d _ _
  | .sra _ _ d _ _ | .min _ _ d _ _ | .max _ _ d _ _ | .minn _ _ d _ _ | .maxn _ _ d _ _ | .mul _ _ d _ _ | .mulh _ _ d _ _
  | .mulhn _ _ d _ _ | .madd _ _ d _ _ | .div _ _ d _ _ | .divn _ _ d _ _ | .rem _ _ d _ _ | .remn _ _ d _ _ => wScalar d
  | .addi _ _ d _ _ | .andi _ _ d _ _ | .ori _ _ d _ _ | .xori _ _ d _ _ | .shli _ _ d _ _ | .shri _ _ d _ _ | .srai _ _ d _ _ => wScalar d
  | .lui _ _ d _ | .clz _ _ d _ | .popc _ _ d _ | .bfx _ _ d _ _ _ | .bfi _ _ d _ _ _ | .sel _ _ d _ _ _ => wScalar d
  | .cmp _ _ j _ _ _ | .cmpi _ _ j _ _ _ | .glog _ _ j _ _ _ | .fcmp _ _ j _ _ _ _ _ => wPair j 1
  | .movg _ _ toGuards r => if toGuards then (List.range 14).map (fun i => ⟨1, i + 2⟩) else wScalar r
  | .fadd _ _ d _ _ _ _ _ | .fsub _ _ d _ _ _ _ _ | .fmul _ _ d _ _ _ _ _ | .ffma _ _ d _ _ _ _ _ => wScalar d
  | .fmin _ _ d _ _ _ _ | .fmax _ _ d _ _ _ _ | .fcvt _ _ d _ _ _ _ => wScalar d
  | .ldb _ _ d _ _ _ | .ldh _ _ d _ _ _ | .ldw _ _ d _ _ _ | .ldd _ _ d _ _ _ | .ldbx _ _ d _ _ _ | .ldhx _ _ d _ _ _ | .ldwx _ _ d _ _ _ => wScalar d
  | .call _ _ _ => [⟨0, 31⟩]
  | .loops _ j _ _ => wPair j 1 ++ [⟨3, 8⟩, ⟨6, 0⟩, ⟨6, 1⟩]
  | .loopr _ _ _ => [⟨3, 8⟩, ⟨6, 0⟩, ⟨6, 2⟩, ⟨6, 3⟩]
  | .loopc _ _ _ => [⟨6, 0⟩]
  | .sysrd _ d _ | .kstat _ d _ => wScalar d
  | .kclr _ k => wToken k
  | .vld _ d _ _ _ _ | .vlds _ d _ _ _ _ | .vldro _ d _ _ _ _ => wVec d
  | .ldro _ d _ _ _ | .lda _ d _ _ _ _ | .amo _ d _ _ _ _ | .acas _ d _ _ _ | .hinfo _ d _ _ _ | .mget _ d _ => wScalar d
  | .fadda _ d _ _ old _ => if old then wScalar d else []
  | .mset _ _ m => [⟨5, m.toNat⟩]
  | .bart _ _ j _ => wPair j 1
  | .vadd _ d _ _ _ | .vsub _ d _ _ _ | .vmul _ d _ _ _ | .vfma _ d _ _ _ | .vmin _ d _ _ _ | .vmax _ d _ _ _ | .vand _ d _ _ _
  | .vor _ d _ _ _ | .vxor _ d _ _ _ | .vshl _ d _ _ _ | .vshr _ d _ _ _ | .vsra _ d _ _ _ | .vmulh _ d _ _ _ => wVec d
  | .vabs _ d _ _ | .vneg _ d _ _ | .vmov _ d _ _ | .vbcast _ d _ _ | .vidx _ d _ _ => wVec d
  | .vadds _ d _ _ _ | .vsubs _ d _ _ _ | .vmuls _ d _ _ _ | .vfmas _ d _ _ _ | .vmins _ d _ _ _ | .vmaxs _ d _ _ _ | .vands _ d _ _ _
  | .vors _ d _ _ _ | .vxors _ d _ _ _ | .vshls _ d _ _ _ | .vshrs _ d _ _ _ | .vsras _ d _ _ _ | .vmulhs _ d _ _ _ => wVec d
  | .vcmp _ j _ _ _ _ | .vcmps _ j _ _ _ _ => wPair j 3
  | .vsel _ d _ _ _ | .vpack _ d _ _ _ | .vunpk _ d _ _ _ | .vscan _ d _ _ _ | .vperm _ d _ _ _ | .vrot _ d _ _ _ => wVec d
  | .vcvt _ d _ _ _ _ _ => wVec d
  | .vred _ toScalar dst _ _ _ => if toScalar then wScalar dst else [⟨2, dst.toNat⟩]
  | .vexp2 _ d _ _ | .vlog2 _ d _ _ | .vrcp _ d _ _ | .vrsq _ d _ _ | .vtanh _ d _ _ => wVec d
  | .vscac _ d _ _ _ | .pcommit _ d _ _ _ | .vtopk _ d _ _ _ | .vmaxi _ d _ _ _ | .vrnd _ d _ _ _ | .vclamp _ d _ _ _ | .vset _ d _ _ => wVec d
  | .pand _ d _ _ | .por _ d _ _ | .pxor _ d _ _ | .pnot _ d _ | .pmov _ d _ => wPred d
  | .pcnt _ d _ | .vget _ d _ _ => wScalar d
  | .mcall _ k _ _ _ _ | .mzero _ k _ _ _ _ | .kjoin _ k _ _ _ | .xcopy _ k _ _ _ _ | .xload _ k _ _ _ _ | .xstore _ k _ _ _ _
  | .xgather _ k _ _ _ _ | .xscatter _ k _ _ _ _ | .xfill _ k _ _ _ _ | .tstream _ k _ _ _ _ | .coll _ k _ _ _ _ _
  | .nmcall _ k _ _ _ _ | .nmred _ k _ _ _ | .nmired _ k _ _ _ => wToken k
  | _ => []

/-- The uses of the broadcast port (R52). -/
def usesPort : Instr → Bool
  | .vadds .. | .vsubs .. | .vmuls .. | .vfmas .. | .vmins .. | .vmaxs .. | .vands .. | .vors .. | .vxors .. | .vshls .. | .vshrs ..
  | .vsras .. | .vmulhs .. | .vcmps .. | .vbcast .. | .vrot .. | .pcommit .. | .vset .. | .vget .. | .pcnt .. => true
  | .vred _ toScalar _ _ _ _ => toScalar
  | .vlds .. | .vsts .. => true
  | _ => false

/-- A decoded bundle: its four instructions, its four slot words and the header's bytes for B, C and D, if it has one. -/
structure Bundle where
  a : Instr
  b : Instr
  c : Instr
  d : Instr
  ext : Option (BitVec 8 × BitVec 8 × BitVec 8)
  words : List Nat
  deriving DecidableEq, Repr

/-- A failed decode check: its cause code (R362) and detail (R53). -/
structure DecodeFault where
  cause : Nat
  detail : Nat
  deriving DecidableEq, Repr

def DecodeError.cause : DecodeError → Nat
  | .illegalOpcode => 0x01
  | .headerMisplaced => 0x03
  | .reservedField => 0x04

/-- The word of slot `i` (0 to 3) of a bundle (R34). -/
def slotWord (w i : Nat) : Nat := (w / 2 ^ (32 * i)) % 2 ^ 32

/-- The opcode field of a slot word (R35). -/
def opcodeOf (w : Nat) : Nat := (fld w 25 7).toNat

def slotFault (slot w : Nat) (e : DecodeError) : DecodeFault := ⟨e.cause, opcodeOf w * 2 ^ 13 + slot⟩

def regLess (x y : RegName) : Bool := x.cls < y.cls || (x.cls == y.cls && x.num < y.num)

/-- The register of lowest class and number that both lists name (R53). -/
def commonReg (x y : List RegName) : Option RegName :=
  (x.filter (fun r => y.contains r)).foldl (fun best r => match best with | none => some r | some b => some (if regLess r b then r else b)) none

/-- The first pair of slots, in the order of R53, that writes one register (R51). -/
def wawFault (ws : List Nat) (is : List Instr) : Option DecodeFault :=
  let pairs : List (Nat × Nat) := [(0, 1), (0, 2), (0, 3), (1, 2), (1, 3), (2, 3)]
  pairs.findSome? (fun p =>
    match commonReg (regWrites (is.getD p.1 .nop)) (regWrites (is.getD p.2 .nop)) with
    | some r => some ⟨0x02, opcodeOf (ws.getD p.1 0) * 2 ^ 13 + r.num * 2 ^ 7 + r.cls * 2 ^ 4 + p.2 * 4 + p.1⟩
    | none => none)

/-- Two uses of the broadcast port (R52): only slots B and C can use it. -/
def portFault (ws : List Nat) (is : List Instr) : Option DecodeFault :=
  if usesPort (is.getD 1 .nop) && usesPort (is.getD 2 .nop) then some ⟨0x07, opcodeOf (ws.getD 1 0) * 2 ^ 13 + 2 * 4 + 1⟩ else none

/-- Decodes a 128-bit bundle and makes the decode checks in the order of R53. -/
def decodeBundle (w : Nat) : Except DecodeFault Bundle :=
  let wa := slotWord w 0
  let wb := slotWord w 1
  let wc := slotWord w 2
  let wd := slotWord w 3
  let ws := [wa, wb, wc, wd]
  match decodeA wa with
  | .error e => .error (slotFault 0 wa e)
  | .ok ia =>
    let ext : Option (BitVec 8 × BitVec 8 × BitVec 8) := match ia with
      | .hdr d c b => some (b, c, d)
      | _ => none
    match decodeB (ext.map (·.1)) wb with
    | .error e => .error (slotFault 1 wb e)
    | .ok ib =>
      match decodeC (ext.map (·.2.1)) wc with
      | .error e => .error (slotFault 2 wc e)
      | .ok ic =>
        match decodeD (ext.map (·.2.2)) wd with
        | .error e => .error (slotFault 3 wd e)
        | .ok id =>
          match wawFault ws [ia, ib, ic, id] with
          | some f => .error f
          | none =>
            match portFault ws [ia, ib, ic, id] with
            | some f => .error f
            | none => .ok ⟨ia, ib, ic, id, ext, ws⟩

/-! ### Encoding (R35 to R48, R313, R422, R256) -/

/-- What an instruction word is encoded for. -/
inductive Place where
  | slot (s : Slot)
  | ompen
  | well
  | micro
  deriving DecidableEq, Repr

/-- An encoded instruction: its place, its word, and the extension byte a header gives its slot (R43). -/
structure Encoded where
  place : Place
  word : Nat
  ext : Nat
  deriving DecidableEq, Repr

def AB.slot : AB → Slot
  | .a => .a
  | .b => .b

def bit (b : Bool) : Nat := if b then 1 else 0

/-- A slot word of opcode `op` under guard or predicate `g`, with the layout fields `fs` (R35); `x` is the extension byte. -/
def encSlot (s : Slot) (op g : Nat) (fs : List (Nat × Nat)) (x : Nat := 0) : Option Encoded :=
  some ⟨.slot s, packFields ([(7, op), (4, g)] ++ fs), x⟩

def encSR (sl : AB) (op : Nat) (g : GReg) (sd sa sb : SReg) (fn : Nat := 0) : Option Encoded :=
  encSlot sl.slot op g.toNat [(5, sd.toNat), (5, sa.toNat), (5, sb.toNat), (6, fn)]
def encSI (sl : AB) (op : Nat) (g : GReg) (sd sa : SReg) (imm : BitVec 19) : Option Encoded :=
  encSlot sl.slot op g.toNat [(5, sd.toNat), (5, sa.toNat), (11, imm.toNat % 2 ^ 11)] (imm.toNat / 2 ^ 11)
def encFP (sl : AB) (op : Nat) (g : GReg) (sd sa sb : SReg) (ftz : Bool) (rm : BitVec 3) (fmt : BitVec 2) : Option Encoded :=
  encSlot sl.slot op g.toNat [(5, sd.toNat), (5, sa.toNat), (5, sb.toNat), (1, bit ftz), (3, rm.toNat), (2, fmt.toNat)]
def encLS (s : Slot) (op : Nat) (g : GReg) (r : Nat) (h : HReg) (sa : SReg) (imm : BitVec 15) : Option Encoded :=
  encSlot s op g.toNat [(5, r), (4, h.toNat), (5, sa.toNat), (7, imm.toNat % 2 ^ 7)] (imm.toNat / 2 ^ 7)
def encBR (op : Nat) (g : GReg) (hint : BitVec 2) (disp : BitVec 19) : Option Encoded :=
  encSlot .a op g.toNat [(2, hint.toNat), (19, disp.toNat)]
def encVLS (op : Nat) (g : GReg) (v : VReg) (h : HReg) (sa : SReg) (mode : BitVec 3) (imm : BitVec 11) : Option Encoded :=
  encSlot .b op g.toNat [(6, v.toNat), (4, h.toNat), (5, sa.toNat), (3, mode.toNat), (3, imm.toNat % 2 ^ 3)] (imm.toNat / 2 ^ 3)
def encLQ (op : Nat) (g : GReg) (r : SReg) (h : HReg) (sa : SReg) (size : BitVec 2) (scope : BitVec 3) : Option Encoded :=
  encSlot .b op g.toNat [(5, r.toNat), (4, h.toNat), (5, sa.toNat), (2, size.toNat), (2, 0), (3, scope.toNat)]
def encAT (op : Nat) (g : GReg) (r : SReg) (h : HReg) (sa : SReg) (fn : Nat) (scope : BitVec 3) : Option Encoded :=
  encSlot .b op g.toNat [(5, r.toNat), (4, h.toNat), (5, sa.toNat), (4, fn), (3, scope.toNat)]
def encRG (op : Nat) (g : GReg) (ring : BitVec 6) (sa : Nat) (imm : BitVec 18) : Option Encoded :=
  encSlot .b op g.toNat [(6, ring.toNat), (5, sa), (10, imm.toNat % 2 ^ 10)] (imm.toNat / 2 ^ 10)
def encVR (op : Nat) (p : PReg) (vd va : VReg) (vb : Nat) (ty : BitVec 3) : Option Encoded :=
  encSlot .c op p.toNat [(6, vd.toNat), (6, va.toNat), (6, vb), (3, ty.toNat)]
def encVS (op : Nat) (p : PReg) (vd : VReg) (va : Nat) (sb : SReg) (ty : BitVec 3) : Option Encoded :=
  encSlot .c op p.toNat [(6, vd.toNat), (6, va), (5, sb.toNat), (1, 0), (3, ty.toNat)]
def encVP (op : Nat) (p pd pa pb : PReg) : Option Encoded :=
  encSlot .c op p.toNat [(2, 0), (4, pd.toNat), (2, 0), (4, pa.toNat), (2, 0), (4, pb.toNat), (3, 0)]
def encED (op : Nat) (g : GReg) (kd ka kb kc : KReg) (x : Nat) : Option Encoded :=
  encSlot .d op g.toNat [(4, kd.toNat), (4, ka.toNat), (4, kb.toNat), (4, kc.toNat), (5, x % 2 ^ 5)] (x / 2 ^ 5)
def encO (op : Nat) (fs : List (Nat × Nat)) : Option Encoded := some ⟨.ompen, packFields ((6, op) :: fs), 0⟩
def encOR (fn : Nat) (d a b : QReg) : Option Encoded := encO 0x01 [(4, d.toNat), (4, a.toNat), (4, b.toNat), (10, 0), (4, fn)]
def encOSh (kind : Nat) (d a : QReg) (n : BitVec 6) : Option Encoded := encO 0x04 [(4, d.toNat), (4, a.toNat), (2, kind), (10, 0), (6, n.toNat)]
def encOB (cc : Nat) (a b : QReg) (disp : BitVec 15) : Option Encoded := encO 0x06 [(4, a.toNat), (4, b.toNat), (3, cc), (15, disp.toNat)]
def encOM (op : Nat) (d a : QReg) (e size imm : Nat) : Option Encoded := encO op [(4, d.toNat), (4, a.toNat), (3, e), (2, size), (13, imm)]
def encOV (op : Nat) (d a b : QReg) (z fn ty : Nat) : Option Encoded :=
  encO op [(4, d.toNat), (4, a.toNat), (4, b.toNat), (2, z), (4, fn), (5, 0), (3, ty)]
def encOS (op : Nat) (d a b : QReg) (e ty : Nat) : Option Encoded := encO op [(4, d.toNat), (4, a.toNat), (4, b.toNat), (3, e), (8, 0), (3, ty)]
def encX (f3 : Nat) (d s t : XReg) : Option Encoded :=
  some ⟨.well, packFields [(7, 0), (5, t.toNat), (5, s.toNat), (3, f3), (5, d.toNat), (7, 0x0B)], 0⟩
def encM (op : Nat) (fs : List (Nat × Nat)) : Option Encoded := some ⟨.micro, packFields ((5, op) :: fs), 0⟩

/-- The word of an instruction; `none` for a row that is an event and has no word, and for MLB, MDRAIN and the undecodable words, whose bits the instruction does not carry. -/
def encode : Instr → Option Encoded
  | .nop => encSlot .a 0 0 [(21, 0)]
  | .hdr d c b => some ⟨.slot .a, packFields [(7, 0x7E), (1, 0), (8, d.toNat), (8, c.toNat), (8, b.toNat)], 0⟩
  | .add sl g d a b => encSR sl 0x01 g d a b
  | .sub sl g d a b => encSR sl 0x02 g d a b
  | .and sl g d a b => encSR sl 0x03 g d a b
  | .or sl g d a b => encSR sl 0x04 g d a b
  | .xor sl g d a b => encSR sl 0x05 g d a b
  | .shl sl g d a b => encSR sl 0x06 g d a b
  | .shr sl g d a b => encSR sl 0x07 g d a b
  | .sra sl g d a b => encSR sl 0x08 g d a b
  | .min sl g d a b => encSR sl 0x09 g d a b
  | .max sl g d a b => encSR sl 0x0a g d a b
  | .minn sl g d a b => encSR sl 0x0b g d a b
  | .maxn sl g d a b => encSR sl 0x0c g d a b
  | .mul sl g d a b => encSR sl 0x0d g d a b
  | .mulh sl g d a b => encSR sl 0x0e g d a b
  | .mulhn sl g d a b => encSR sl 0x0f g d a b
  | .addi sl g d a i => encSI sl 0x10 g d a i
  | .andi sl g d a i => encSI sl 0x11 g d a i
  | .ori sl g d a i => encSI sl 0x12 g d a i
  | .xori sl g d a i => encSI sl 0x13 g d a i
  | .shli sl g d a k => encSlot sl.slot 0x14 g.toNat [(5, d.toNat), (5, a.toNat), (5, 0), (6, k.toNat)]
  | .shri sl g d a k => encSlot sl.slot 0x15 g.toNat [(5, d.toNat), (5, a.toNat), (5, 0), (6, k.toNat)]
  | .srai sl g d a k => encSlot sl.slot 0x16 g.toNat [(5, d.toNat), (5, a.toNat), (5, 0), (6, k.toNat)]
  | .lui sl g d i => encSlot sl.slot 0x17 g.toNat [(5, d.toNat), (16, i.toNat % 2 ^ 16)] (i.toNat / 2 ^ 16)
  | .madd sl g d a b => encSR sl 0x18 g d a b
  | .clz sl g d a => encSR sl 0x19 g d a 0
  | .popc sl g d a => encSR sl 0x1a g d a 0
  | .bfx sl g d a w pos => encSR sl 0x1b g d a w pos.toNat
  | .bfi sl g d a w pos => encSR sl 0x1c g d a w pos.toNat
  | .sel sl g d a b gc => encSR sl 0x1d g d a b gc.toNat
  | .div sl g d a b => encSR sl 0x1e g d a b
  | .divn sl g d a b => encSR sl 0x1f g d a b
  | .rem sl g d a b => encSR sl 0x20 g d a b
  | .remn sl g d a b => encSR sl 0x21 g d a b
  | .cmp sl g j cc a b => encSlot sl.slot 0x22 g.toNat [(3, j.toNat), (3, cc.toNat), (5, a.toNat), (5, b.toNat), (5, 0)]
  | .cmpi sl g j cc a i => encSlot sl.slot 0x23 g.toNat [(3, j.toNat), (3, cc.toNat), (5, a.toNat), (10, i.toNat % 2 ^ 10)] (i.toNat / 2 ^ 10)
  | .glog sl g j fn ga gb => encSlot sl.slot 0x24 g.toNat [(3, j.toNat), (3, fn.toNat), (4, ga.toNat), (4, gb.toNat), (7, 0)]
  | .movg sl g dir r => if dir then encSR sl 0x2d g 0 r 0 1 else encSR sl 0x2d g r 0 0 0
  | .fadd sl g d a b ftz rm fmt => encFP sl 0x25 g d a b ftz rm fmt
  | .fsub sl g d a b ftz rm fmt => encFP sl 0x26 g d a b ftz rm fmt
  | .fmul sl g d a b ftz rm fmt => encFP sl 0x27 g d a b ftz rm fmt
  | .ffma sl g d a b ftz rm fmt => encFP sl 0x28 g d a b ftz rm fmt
  | .fmin sl g d a b ftz fmt => encFP sl 0x29 g d a b ftz 0 fmt
  | .fmax sl g d a b ftz fmt => encFP sl 0x2a g d a b ftz 0 fmt
  | .fcmp sl g j cc a b ftz fmt => encSlot sl.slot 0x2b g.toNat [(3, j.toNat), (3, cc.toNat), (5, a.toNat), (5, b.toNat), (2, 0), (1, bit ftz), (2, fmt.toNat)]
  | .fcvt sl g d a cv ftz rm => encFP sl 0x2c g d a cv ftz rm 0
  | .ldb sl g r h a i => encLS sl.slot 0x40 g r.toNat h a i
  | .ldh sl g r h a i => encLS sl.slot 0x41 g r.toNat h a i
  | .ldw sl g r h a i => encLS sl.slot 0x42 g r.toNat h a i
  | .ldd sl g r h a i => encLS sl.slot 0x43 g r.toNat h a i
  | .ldbx sl g r h a i => encLS sl.slot 0x44 g r.toNat h a i
  | .ldhx sl g r h a i => encLS sl.slot 0x45 g r.toNat h a i
  | .ldwx sl g r h a i => encLS sl.slot 0x46 g r.toNat h a i
  | .stb sl g r h a i => encLS sl.slot 0x47 g r.toNat h a i
  | .sth sl g r h a i => encLS sl.slot 0x48 g r.toNat h a i
  | .stw sl g r h a i => encLS sl.slot 0x49 g r.toNat h a i
  | .std sl g r h a i => encLS sl.slot 0x4a g r.toNat h a i
  | .br g hint d => encBR 0x50 g hint d
  | .call g hint d => encBR 0x51 g hint d
  | .ret g hint => encSlot .a 0x52 g.toNat [(2, hint.toNat), (19, 0)]
  | .jr g hint a => encSlot .a 0x53 g.toNat [(2, hint.toNat), (3, 0), (5, a.toNat), (11, 0)]
  | .loops g j a ec => encSlot .a 0x54 g.toNat [(3, j.toNat), (3, 0), (5, a.toNat), (2, 0), (8, ec.toNat)]
  | .loopr g hint d => encBR 0x55 g hint d
  | .loopc g hint d => encBR 0x56 g hint d
  | .spawn g h a i => encSlot .a 0x57 g.toNat [(5, 0), (4, h.toNat), (5, a.toNat), (7, i.toNat)]
  | .endTask g => encSlot .a 0x58 g.toNat [(21, 0)]
  | .waitk g k => encSlot .a 0x59 g.toNat [(5, 0), (4, k.toNat), (12, 0)]
  | .segmark g n => encSlot .a 0x5a g.toNat [(15, 0), (6, n.toNat)]
  | .trap g n => encSlot .a 0x5b g.toNat [(5, 0), (16, n.toNat)]
  | .eret g => encSlot .a 0x5c g.toNat [(21, 0)]
  | .sysrd g d n => encSlot .a 0x5d g.toNat [(5, d.toNat), (16, n.toNat)]
  | .syswr g d n => encSlot .a 0x5e g.toNat [(5, d.toNat), (16, n.toNat)]
  | .mpdataWrite g d => encSlot .a 0x5e g.toNat [(5, d.toNat), (16, 0x0131)]
  | .ringcfgWrite g d => encSlot .a 0x5e g.toNat [(5, d.toNat), (16, 0x0141)]
  | .wpinWrite g d => encSlot .a 0x5e g.toNat [(5, d.toNat), (16, 0x0164)]
  | .wunpinWrite g d => encSlot .a 0x5e g.toNat [(5, d.toNat), (16, 0x0165)]
  | .bkpt g n => encSlot .a 0x5f g.toNat [(5, 0), (16, n.toNat)]
  | .kstat g d k => encSlot .a 0x60 g.toNat [(5, d.toNat), (4, k.toNat), (12, 0)]
  | .kclr g k => encSlot .a 0x61 g.toNat [(5, 0), (4, k.toNat), (12, 0)]
  | .idle g => encSlot .a 0x62 g.toNat [(21, 0)]
  | .vld g v h a m i => encVLS 0x50 g v h a m i
  | .vst g v h a m i => encVLS 0x51 g v h a m i
  | .vlds g v h a m i => encVLS 0x52 g v h a m i
  | .vsts g v h a m i => encVLS 0x53 g v h a m i
  | .vldro g v h a m i => encVLS 0x55 g v h a m i
  | .ldro g r h a i => encLS .b 0x54 g r.toNat h a i
  | .roinv g => encSlot .b 0x5d g.toNat [(21, 0)]
  | .lda g r h a sz sc => encLQ 0x56 g r h a sz sc
  | .stl g r h a sz sc => encLQ 0x57 g r h a sz sc
  | .amo g r h a fn sc => encAT 0x58 g r h a fn.toNat sc
  | .acas g r h a sc => encAT 0x59 g r h a 0 sc
  | .fadda g r h a old sc => encAT 0x5a g r h a (bit old) sc
  | .fence g sc => encSlot .b 0x5b g.toNat [(18, 0), (3, sc.toNat)]
  | .drain g sc => encSlot .b 0x5c g.toNat [(18, 0), (3, sc.toNat)]
  | .hbind g h a => encLS .b 0x5e g 0 h a 0
  | .hinfo g d h a i => encLS .b 0x5f g d.toNat h a i
  | .hsetxv g h a => encLS .b 0x6b g 0 h a 0
  | .mset g r m => encSlot .b 0x60 g.toNat [(5, r.toNat), (3, m.toNat), (13, 0)]
  | .mget g r m => encSlot .b 0x61 g.toNat [(5, r.toNat), (3, m.toNat), (13, 0)]
  | .tuse g h a i => encLS .b 0x69 g 0 h a i
  | .pref g h a i => encLS .b 0x6a g 0 h a i
  | .awaitf g r th => encRG 0x62 g r 0 th
  | .rels g r a i => encRG 0x63 g r a.toNat i
  | .rpush g r a i => encRG 0x64 g r a.toNat i
  | .barr g gs => encSlot .b 0x65 g.toNat [(2, gs.toNat), (19, 0)]
  | .barw g gs a => encSlot .b 0x66 g.toNat [(2, gs.toNat), (4, 0), (5, a.toNat), (10, 0)]
  | .bart g gs j a => encSlot .b 0x67 g.toNat [(2, gs.toNat), (3, j.toNat), (1, 0), (5, a.toNat), (10, 0)]
  | .split g c => encSlot .b 0x68 g.toNat [(18, 0), (3, c.toNat)]
  | .vadd p d a b ty => encVR 0x01 p d a b.toNat ty
  | .vsub p d a b ty => encVR 0x02 p d a b.toNat ty
  | .vmul p d a b ty => encVR 0x03 p d a b.toNat ty
  | .vfma p d a b ty => encVR 0x04 p d a b.toNat ty
  | .vmin p d a b ty => encVR 0x05 p d a b.toNat ty
  | .vmax p d a b ty => encVR 0x06 p d a b.toNat ty
  | .vand p d a b ty => encVR 0x09 p d a b.toNat ty
  | .vor p d a b ty => encVR 0x0a p d a b.toNat ty
  | .vxor p d a b ty => encVR 0x0b p d a b.toNat ty
  | .vshl p d a b ty => encVR 0x0c p d a b.toNat ty
  | .vshr p d a b ty => encVR 0x0d p d a b.toNat ty
  | .vsra p d a b ty => encVR 0x0e p d a b.toNat ty
  | .vmulh p d a b ty => encVR 0x0f p d a b.toNat ty
  | .vsel p d a b ty => encVR 0x22 p d a b.toNat ty
  | .vpack p d a b ty => encVR 0x27 p d a b.toNat ty
  | .vperm p d a b ty => encVR 0x2b p d a b.toNat ty
  | .vscac p d a b ty => encVR 0x32 p d a b.toNat ty
  | .vtopk p d a b ty => encVR 0x34 p d a b.toNat ty
  | .vmaxi p d a b ty => encVR 0x35 p d a b.toNat ty
  | .vclamp p d a b ty => encVR 0x3f p d a b.toNat ty
  | .vabs p d a ty => encVR 0x07 p d a 0 ty
  | .vneg p d a ty => encVR 0x08 p d a 0 ty
  | .vmov p d a ty => encVR 0x23 p d a 0 ty
  | .vexp2 p d a ty => encVR 0x2d p d a 0 ty
  | .vlog2 p d a ty => encVR 0x2e p d a 0 ty
  | .vrcp p d a ty => encVR 0x2f p d a 0 ty
  | .vrsq p d a ty => encVR 0x30 p d a 0 ty
  | .vtanh p d a ty => encVR 0x31 p d a 0 ty
  | .vadds p d a b ty => encVS 0x11 p d a.toNat b ty
  | .vsubs p d a b ty => encVS 0x12 p d a.toNat b ty
  | .vmuls p d a b ty => encVS 0x13 p d a.toNat b ty
  | .vfmas p d a b ty => encVS 0x14 p d a.toNat b ty
  | .vmins p d a b ty => encVS 0x15 p d a.toNat b ty
  | .vmaxs p d a b ty => encVS 0x16 p d a.toNat b ty
  | .vands p d a b ty => encVS 0x19 p d a.toNat b ty
  | .vors p d a b ty => encVS 0x1a p d a.toNat b ty
  | .vxors p d a b ty => encVS 0x1b p d a.toNat b ty
  | .vshls p d a b ty => encVS 0x1c p d a.toNat b ty
  | .vshrs p d a b ty => encVS 0x1d p d a.toNat b ty
  | .vsras p d a b ty => encVS 0x1e p d a.toNat b ty
  | .vmulhs p d a b ty => encVS 0x1f p d a.toNat b ty
  | .vrot p d a b ty => encVS 0x2c p d a.toNat b ty
  | .vcmp p j cc a b ty => encSlot .c 0x20 p.toNat [(3, j.toNat), (3, cc.toNat), (6, a.toNat), (6, b.toNat), (3, ty.toNat)]
  | .vcmps p j cc a b ty => encSlot .c 0x21 p.toNat [(3, j.toNat), (3, cc.toNat), (6, a.toNat), (5, b.toNat), (1, 0), (3, ty.toNat)]
  | .vbcast p d b ty => encVS 0x24 p d 0 b ty
  | .vidx p d i ty => encSlot .c 0x25 p.toNat [(6, d.toNat), (6, 0), (6, i.toNat % 2 ^ 6), (3, ty.toNat)] (i.toNat / 2 ^ 6)
  | .vcvt p d a f u s ty => encSlot .c 0x26 p.toNat [(6, d.toNat), (6, a.toNat), (4, f.toNat), (1, bit u), (1, bit s), (3, ty.toNat)]
  | .vunpk p d a h ty => encVR 0x28 p d a (bit h) ty
  | .vred p sc dst a fn ty => encSlot .c 0x29 p.toNat [(1, bit sc), (5, dst.toNat), (6, a.toNat), (3, fn.toNat), (3, 0), (3, ty.toNat)]
  | .vscan p d a fn ty => encVR 0x2a p d a (fn.toNat * 8) ty
  | .pcommit p d part b ty => encVS 0x33 p d part.toNat b ty
  | .pand p d a b => encVP 0x36 p d a b
  | .por p d a b => encVP 0x37 p d a b
  | .pxor p d a b => encVP 0x38 p d a b
  | .pnot p d a => encVP 0x39 p d a 0
  | .pmov p d a => encVP 0x3a p d a 0
  | .pcnt p d a => encSlot .c 0x3b p.toNat [(1, 1), (5, d.toNat), (2, 0), (4, a.toNat), (9, 0)]
  | .vget p d a l => encSlot .c 0x3c p.toNat [(1, 1), (5, d.toNat), (6, a.toNat), (7, l.toNat), (2, 0)]
  | .vset p d l b => encSlot .c 0x3d p.toNat [(6, d.toNat), (7, l.toNat), (5, b.toNat), (3, 0)]
  | .vrnd p d a rm ty => encSlot .c 0x3e p.toNat [(6, d.toNat), (6, a.toNat), (3, rm.toNat), (3, 0), (3, ty.toNat)]
  | .mcall g d a b c n => encED 0x01 g d a b c n.toNat
  | .mzero g d a b c t => encED 0x02 g d a b c t.toNat
  | .kjoin g d a b c => encED 0x03 g d a b c 0
  | .xcopy g d a b c x => encED 0x04 g d a b c x.toNat
  | .xload g d a b c x => encED 0x05 g d a b c x.toNat
  | .xstore g d a b c x => encED 0x06 g d a b c x.toNat
  | .xgather g d a b c x => encED 0x07 g d a b c x.toNat
  | .xscatter g d a b c x => encED 0x08 g d a b c x.toNat
  | .xfill g d a b c x => encED 0x09 g d a b c x.toNat
  | .txpose g v => encED 0x0a g 0 0 0 0 v.toNat
  | .tconv g rm => encED 0x0b g 0 0 0 0 rm.toNat
  | .texpand g n rm => encED 0x0c g 0 0 0 0 (n.toNat * 8 + rm.toNat)
  | .tstream g d a b c x => encED 0x0d g d a b c x.toNat
  | .coll g d a b c op gs => encED 0x0e g d a b c (op.toNat * 4 + gs.toNat)
  | .nmcall g d a b c n => encED 0x0f g d a b c n.toNat
  | .nmred g d a b c => encED 0x10 g d a b c 0
  | .nmired g d a b c => encED 0x11 g d a b c 0
  | .ompenNop => encO 0 [(26, 0)]
  | .ompenAdd d a b => encOR 0 d a b
  | .ompenSub d a b => encOR 1 d a b
  | .ompenAnd d a b => encOR 2 d a b
  | .ompenOr d a b => encOR 3 d a b
  | .ompenXor d a b => encOR 4 d a b
  | .ompenShl d a b => encOR 5 d a b
  | .ompenShr d a b => encOR 6 d a b
  | .ompenSra d a b => encOR 7 d a b
  | .ompenMul d a b => encOR 8 d a b
  | .ompenMin d a b => encOR 9 d a b
  | .ompenMax d a b => encOR 10 d a b
  | .ompenMinn d a b => encOR 11 d a b
  | .ompenMaxn d a b => encOR 12 d a b
  | .ompenAddi d a i => encO 0x02 [(4, d.toNat), (4, a.toNat), (18, i.toNat)]
  | .ompenAndi d a i => encO 0x03 [(4, d.toNat), (4, a.toNat), (18, i.toNat)]
  | .ompenShli d a n => encOSh 0 d a n
  | .ompenShri d a n => encOSh 1 d a n
  | .ompenSrai d a n => encOSh 2 d a n
  | .ompenLui d i => encO 0x05 [(4, d.toNat), (22, i.toNat)]
  | .beq a b d => encOB 0 a b d
  | .bne a b d => encOB 1 a b d
  | .blt a b d => encOB 2 a b d
  | .bge a b d => encOB 3 a b d
  | .bltn a b d => encOB 4 a b d
  | .bgen a b d => encOB 5 a b d
  | .jmp d => encO 0x07 [(26, d.toNat)]
  | .loop a d => encO 0x08 [(4, a.toNat), (7, 0), (15, d.toNat)]
  | .rds d c => encO 0x09 [(4, d.toNat), (4, 0), (14, 0), (4, c.toNat)]
  | .ld d a s i => encOM 0x10 d a 0 s.toNat i.toNat
  | .st d a s i => encOM 0x11 d a 0 s.toNat i.toNat
  | .ldx d a e s i => encOM 0x12 d a e.toNat s.toNat i.toNat
  | .stx d a e s i => encOM 0x13 d a e.toNat s.toNat i.toNat
  | .wld d a i => encOM 0x14 d a 0 0 i.toNat
  | .wst d a i => encOM 0x15 d a 0 0 i.toNat
  | .wldx d a e i => encOM 0x16 d a e.toNat 0 i.toNat
  | .wstx d a e i => encOM 0x17 d a e.toNat 0 i.toNat
  | .wfma d a b z ty => encOV 0x20 d a b z.toNat 0 ty.toNat
  | .wadd d a b z ty => encOV 0x21 d a b z.toNat 0 ty.toNat
  | .wmin d a b z ty => encOV 0x22 d a b z.toNat 0 ty.toNat
  | .wmax d a b z ty => encOV 0x23 d a b z.toNat 0 ty.toNat
  | .wcvt d a z fn => encOV 0x24 d a 0 z.toNat fn.toNat 0
  | .wbcast d a z => encOV 0x25 d a 0 z.toNat 0 0
  | .wget d a l => encOV 0x26 d a l 0 0 0
  | .wcmp d a b z cc ty => encOV 0x27 d a b z.toNat cc.toNat ty.toNat
  | .wred d a b z fn ty => encOV 0x28 d a b z.toNat fn.toNat ty.toNat
  | .topk d a b ty => encOS 0x2a d a b 0 ty.toNat
  | .sectexp d a b => encOS 0x2b d a b 0 0
  | .sectcmp d a b => encOS 0x2c d a b 0 0
  | .ired d a b e => encOS 0x2d d a b e.toNat 0
  | .flagst s a e => encOM 0x30 s a e.toNat 0 0
  | .ompenFence => encO 0x31 [(26, 0)]
  | .yield => encO 0x32 [(26, 0)]
  | .done => encO 0x33 [(26, 0)]
  | .rngf d s t => encX 0 d s t
  | .bfxt d s t => encX 1 d s t
  | .sgwait d s t => encX 2 d s t
  | .dispx d s t => encX 3 d s t
  | .walog d s t => encX 4 d s t
  | .wacommit d s t => encX 5 d s t
  | .mla => encM 1 [(59, 0)]
  | .mstep => encM 3 [(59, 0)]
  | .msync => encM 7 [(59, 0)]
  | .mend => encM 8 [(59, 0)]
  | .mloop kl l t => encM 5 [(2, bit kl), (2, l.toNat), (45, 0), (10, t.toNat)]
  | .madv dest src set imm => encM 6 [(3, dest.toNat), (2, src.toNat), (1, bit set), (21, 0), (32, imm.toNat)]
  | .mlb | .mdrain | .nullifierSkip | .writebackLand | .interlockedResultArrive | .singleStep
  | .branchTrace | .wakeNotice | .stlHeldPerform | .atomicPerformAtHome | .storeApplyAtHome | .remoteStoreFailure
  | .remoteAccessTimeout | .ringCounterUpdate | .barrierArrivalRemote | .generationBroadcast | .splitSwitch | .matrixStart
  | .microopCountExpiry | .drainLand | .mcallComplete | .copyStart | .copyComplete | .engineTimeout
  | .streamComplete | .collInstanceStart | .collComplete | .lakebedCommandHandover | .lakebedTaskHandover | .lakebedKernelStart
  | .lakebedWatchdog | .compressedLineWrite | .submissionWordWrite | .commandWordWrite | .operatorAdmit | .coresidentLaunch
  | .taskPop | .segmentCopyLand | .operatorComplete | .operatorDeadline | .completionWindowClose | .ringRecordWrite
  | .migrationEpochEnd | .migrationSwitch | .walkComplete | .faultTimeout | .weirActionSwitch | .reserveDrain
  | .recomputeComplete | .recomputeFail | .tensorImageLoad | .tensorDelete | .preemptRequest | .contextSave
  | .partitionResize | .resizeTimeout | .partitionReset | .clearStream | .cancel | .preempt
  | .invalidate | .faultAnswer | .checkpoint | .restore | .groupDomain | .qpReset
  | .graphLaunch | .graphPatch | .graphAbort | .attest | .health | .rdmaRequest
  | .rdmaRequestComplete | .inboundRdmaWrite | .linkDown | .coreRailAlarmRaise | .coreRailAlarmClear | .thermalClockLower
  | .thermalClockRestore | .thermalTrip | .healthBlockSave | .moduleReset | .recoveryImageDownload | .sgwaitLimitExpiry
  | .hangDetectorExpiry | .wellheadRestart | .illegalOpcode | .ompenIllegalOpcode | .partitionCreate | .tensorCreate
  | .domainMapChange | .engineOffline | .rdmaRetryExceeded | .powerFail => none

/-- The instruction a word of the opcode table gives (the row's bits, numbered from the first word's least significant bit). A 32-bit word is one of the Wellhead's custom words or an Ompen word, a 64-bit word a micro-op; a 128-bit word is a bundle, and its instruction is the first one that is not a NOP or a header. (DESIGN CHOICE, log 3.) -/
def decodeTableWord (nbits w : Nat) : Option Instr :=
  if nbits ≤ 32 then
    match decodeWell w with
    | some i => some i
    | none =>
      match decodeOmpen w with
      | .ok i => some i
      | .error _ => none
  else if nbits ≤ 64 then decodeMicro w
  else
    match decodeBundle w with
    | .ok b =>
      match [b.a, b.b, b.c, b.d].filter (fun i => match i with | .nop => false | .hdr _ _ _ => false | _ => true) with
      | i :: _ => some i
      | [] => some b.a
    | .error _ => none

end Sys2Proof
end

