-- ==== Sys2Proof/Config.lean ====
section
/-! DEFINITION. What the MS9-940 fixes (R2, R22, R193, R371, R437, R438), and the values the spec leaves open: opaque constants, whose values no proof can see. -/

namespace Sys2Proof.Config

def dies : Nat := 4
def clusters : Nat := 32
def cores : Nat := 256
def lakes : Nat := 64

/-- A core's SRAM, 2 MiB (R193). -/
def sramBytes : Nat := 0x200000
/-- A Lakebed core's local SRAM, 512 KiB (R303). -/
def lakeSramBytes : Nat := 0x80000

/-- The scratchpad share of a split code (R193). -/
def share (code : Nat) : Nat := 0x100000 + code * 0x40000

/-- The exposed latencies of R22. -/
def latMul : Nat := 3
def latDiv : Nat := 18
def latFp : Nat := 3
def latCvt : Nat := 2
def latLoad : Nat := 4
def latTxpose : Nat := 16
def latTexpand : Nat := 12
def latTconv : Nat := 8
def latVmul : Nat := 3
def latMove : Nat := 2
def latRed : Nat := 4
def latFn : Nat := 6
def latTopk : Nat := 8

/-- The marker a stack draws at a module reset (R332): any value, a fresh one for each reset and stack. (DESIGN CHOICE, log 18.) -/
opaque freeMarker : Nat → W64

/-- A value the spec leaves open; the argument is the state's counter of such values. (DESIGN CHOICE, log 26.) -/
opaque freeWord : Nat → W64

/-- Whether a firmware image carries a signature the fused vendor key accepts (R428). The algorithm is named by the spec and not described. (DESIGN CHOICE, log 59.) -/
opaque imageVerifies : List Byte → Bool

/-- The security version an image states (R428). (DESIGN CHOICE, log 59.) -/
opaque imageVersion : List Byte → Nat

/-- The device's identity public key, made at manufacture (R429). (DESIGN CHOICE, log 59.) -/
opaque identityKey : List Byte

/-- The signature of the identity key over a message (R429). (DESIGN CHOICE, log 59.) -/
opaque identitySign : List Byte → List Byte

/-- The vertical buses of each die retired at manufacture (R210). (DESIGN CHOICE, log 59.) -/
opaque retiredBuses : Nat → W64

/-- TARNRET of a die: at most one bus of each pair is retired (R210). -/
def tarnret (die : Nat) : W64 :=
  let even : W64 := 0x5555555555555555
  let r := retiredBuses die
  r &&& ~~~((r &&& even) <<< 1)

/-- The vertical bus a core of a die uses (R210). -/
def tarnbus (core : Nat) : Nat :=
  let j := core % 64
  if (tarnret (core / 64)).getLsbD j then j ^^^ 1 else j


end Sys2Proof.Config
end

