-- ==== Sys2Proof/Machine/Table.lean ====
section
/-! DEFINITION. Tables keyed by numbers, and memory as cells: plain data in one canonical form. A key a table does not list reads as the table's default; a byte no cell lists reads as zero (what scrubbed storage holds, R400, R401). -/

namespace Sys2Proof.Machine

/-- A sparse table: keys rising, each once. -/
abbrev Tab (α : Type) := List (Nat × α)

/-- The entry of key `k`, or the default `d`. -/
def tget {α : Type} (d : α) (t : Tab α) (k : Nat) : α :=
  match t with
  | [] => d
  | (j, v) :: r => if j = k then v else tget d r k

/-- The table with entry `k` set to `v`. -/
def tset {α : Type} (t : Tab α) (k : Nat) (v : α) : Tab α :=
  match t with
  | [] => [(k, v)]
  | (j, w) :: r => if j = k then (k, v) :: r else if k < j then (k, v) :: (j, w) :: r else (j, w) :: tset r k v

/-- The table without an entry for `k`. -/
def tdel {α : Type} (t : Tab α) (k : Nat) : Tab α := t.filter (fun e => e.1 != k)

/-- The entry of key `k`, if the table lists one. -/
def tfind {α : Type} (t : Tab α) (k : Nat) : Option α :=
  match t with
  | [] => none
  | (j, v) :: r => if j = k then some v else tfind r k

/-- The table with `f` applied to entry `k`. -/
def tmod {α : Type} (d : α) (t : Tab α) (k : Nat) (f : α → α) : Tab α := tset t k (f (tget d t k))

/-- A byte of memory; a byte no cell lists is zero. (DESIGN CHOICE, log 2.) -/
def cellGet (m : List Host.Cell) (a : Nat) : Byte := tget 0 m a

/-- Memory with byte `a` set to `b`; a zero byte is not listed. -/
def cellSet (m : List Host.Cell) (a : Nat) (b : Byte) : List Host.Cell := if b = 0 then tdel m a else tset m a b

/-- `n` bytes from address `a` up. -/
def cellsGet (m : List Host.Cell) (a : Nat) : Nat → List Byte
  | 0 => []
  | n + 1 => cellGet m a :: cellsGet m (a + 1) n

/-- Memory with the bytes of a list stored from address `a` up. -/
def cellsSet (m : List Host.Cell) (a : Nat) : List Byte → List Host.Cell
  | [] => m
  | b :: r => cellsSet (cellSet m a b) (a + 1) r

/-- The canonical form of memory: addresses strictly rising, no cell holding zero. (DESIGN CHOICE, log 2.) -/
def Memory.wf : List Host.Cell → Bool
  | [] => true
  | [(_, b)] => b != 0
  | (a, b) :: (c, d) :: r => b != 0 && decide (a < c) && Memory.wf ((c, d) :: r)

/-- The number little-endian bytes give (R2). -/
def leNat : List Byte → Nat
  | [] => 0
  | b :: r => b.toNat + 256 * leNat r

/-- The `n` little-endian bytes of a number (R2). -/
def leBytes (v : Nat) : Nat → List Byte
  | 0 => []
  | n + 1 => BitVec.ofNat 8 v :: leBytes (v / 256) n

end Sys2Proof.Machine
end

