-- ==== Sys2Proof/Machine/State.lean ====
section
/-! DEFINITION. The state of the MS9-940, every piece the spec gives it, as plain data; the outcomes of a step; and the state after module reset. -/

namespace Sys2Proof.Machine

/-- Why the machine stops without a next state. (PRESUMED, log 20.) -/
inductive Fault where
  /-- A Wellhead processor addresses a byte beyond its die's HBM4E, log and firmware's region, where R421 places memory-mapped units and no rule says which or what they do: raised by RNGF, SGWAIT, DISPX, WALOG, by base loads, stores and atomics, by a fetch, and by a restart whose log names such a byte. Safe: the hardware goes on somehow, the model claims nothing. -/
  | noSuchAddress
  deriving DecidableEq, Repr

/-- Why the model declines an instruction. -/
inductive Refusal where
  /-- The instruction has no meaning in this model yet: raised by its arm in Dispatch. Safe. -/
  | notModelled (mnemonic : String)
  deriving DecidableEq, Repr

/-! ### Contexts (R9) -/

/-- What a handle refers to (R187); the numbers of R354 follow this order. -/
inductive HKind where
  | scratch
  | cluster
  | tensor
  | unbound
  deriving DecidableEq, Repr

/-- A handle register: its kind, and for a tensor its id, the device field of HBIND (R229, R407; 0 is this device), and for a tensor of another device the EXTENT and VBASE its record gave. -/
structure Handle where
  kind : HKind
  tid : Nat
  dev : Nat
  ext : Nat
  base : Nat
  deriving DecidableEq, Repr

def Handle.unbound : Handle := ⟨.unbound, 0, 0, 0, 0⟩

/-- The four token states (R272); their codes follow this order. -/
inductive TokState where
  | free
  | pend
  | done
  | fault
  deriving DecidableEq, Repr

/-- A fault record (R275), with the kind and tensor of the handle as bound when the operation issued (R354). -/
structure FaultRec where
  cause : Nat
  detail : Nat
  handle : Nat
  kind : HKind
  tid : Nat
  offset : Nat
  aux : Nat
  deriving DecidableEq, Repr

def FaultRec.none : FaultRec := ⟨0, 0, 0, .scratch, 0, 0, 0⟩

/-- A token (R272): its state, its record (AUX alone for DONE), and the operation producing it. -/
structure Token where
  st : TokState
  fr : FaultRec
  prod : Nat
  deriving DecidableEq, Repr

def Token.free : Token := ⟨.free, .none, 0⟩

/-- A result on its way to its physical destination (R18, R72). A vector or predicate result names the bits it writes (R127). -/
inductive Result where
  | scalar (n : Nat) (v : W64)
  | guard (n : Nat) (v : Bool)
  | vec (n : Nat) (mask v : VWord)
  | pred (n : Nat) (mask v : PWord)
  | lc (v : W32)
  | ec (v : BitVec 8)
  | vrb (v : BitVec 5)
  | prb (v : BitVec 3)
  | param (n : Nat) (v : W64)
  | bytes (off : Nat) (data : List Byte)
  deriving DecidableEq, Repr

/-- An entry of a writeback queue: the result, its latency and its due count (R18). -/
structure WbEntry where
  res : Result
  lat : Nat
  due : Nat
  deriving DecidableEq, Repr

/-- What a context is blocked on (R158, R356, R380); `record` is the task record a SPAWN reads through a handle (R175), and `turn` is no wait: the context is ready, and its turn comes in the cyclic order (R158). -/
inductive Block where
  | engineQueue
  | token (k : Nat)
  | ring (ring th : Nat)
  | arrival (group gen : Nat)
  | reach (group target : Nat)
  | interlock (items : List (Nat × Nat))
  | suspended (part tid : Nat)
  | held (part tid : Nat)
  | segment (ktab seg : Nat)
  | wake
  | walk (tlb page : Nat)
  | report (part seq : Nat)
  | split (code : Nat)
  | tokens
  | release
  | record
  | turn
  deriving DecidableEq, Repr

/-- A trap of a context: cause, detail, and the handle and offset it records, if it records them (R353, R354). -/
structure Trap where
  cause : Nat
  detail : Nat
  acc : Option (HKind × Nat × Nat × Nat)
  fromToken : Bool
  deriving DecidableEq, Repr

/-- A mark of R358: the register a failed load or atomic was to write, by class and physical number, and the first lane of a vector that failed. -/
structure RegMark where
  cls : Nat
  num : Nat
  trap : Trap
  lane : Nat := 0
  deriving DecidableEq, Repr

/-- A task record (R170), and what the queues keep with it: its operator, effective class, push time and whether it was promoted (R173). -/
structure TaskRec where
  entry : Pc
  prio : Nat
  affk : Bool
  aff : Nat
  fv : Bool
  jv : Bool
  ftid : Nat
  foff : Nat
  jtid : Nat
  joff : Nat
  arg0 : Nat
  arg1 : Nat
  op : Nat
  cls : Nat
  pushed : Nat
  promoted : Bool
  deriving DecidableEq, Repr

def TaskRec.none : TaskRec := ⟨0, 0, false, 0, false, false, 0, 0, 0, 0, 0, 0, 0, 0, 0, false⟩

/-- One hardware context (`reserved` names the co-resident operator that an idle context is kept for, or whose initial task it runs; `pendFail` holds a failure met while it was blocked: its cause, whether it is of a page or a tensor, which one, and the inner cause or failing tensor): the architectural state of R9, the trap state of R24 and R353, the system registers of R99, R361 and the task it runs. `ending` says that END has committed and what it waits for is outstanding (R176); `returning` the same of ERET (R24). `storeFail` is the oldest recorded failure of a store and `laterFails` those behind it (R359); `told` is the one whose trap was taken last, with the PC of the bundle that took it (R352); `five` says that the bundle has passed steps 1 to 4 of R356 and repeats from step 5; `spawned` holds the record an interlocked SPAWN has read: a cause or 0, its offset, and the bytes (R175). -/
structure Ctx where
  running : Bool
  uid : Nat
  pc : Pc
  s : Tab W64
  g : BitVec 16
  v : Tab VWord
  p : Tab PWord
  h : Tab Handle
  k : Tab Token
  m : Tab W64
  lc : W32
  ec : BitVec 8
  vrb : BitVec 5
  prb : BitVec 3
  warnSat : Bool
  warnFallback : Bool
  trapq : Bool
  halted : Bool
  pendchk : Bool
  mode : Bool
  cause : W32
  epc : Pc
  tvec : Pc
  fhandle : W32
  foffset : W64
  hsave : Tab W64
  dbgctl : W32
  watchlo : W64
  watchhi : W64
  count : Nat
  hcount : Nat
  wq : List WbEntry
  hq : List WbEntry
  block : Option Block
  marks : List RegMark
  storeFail : Option (Trap × Nat)
  pendFail : Option (Nat × Nat × Nat × Nat)
  boundary : Option Trap
  wake : Bool
  task : TaskRec
  op : Nat
  launch : Nat
  tclass : Nat
  since : Nat
  reserved : Option Nat
  preq : Option Nat
  splitDone : Bool
  ending : Bool
  faultAt : Option Nat
  laterFails : List (Trap × Nat) := []
  told : Option ((Trap × Nat) × Pc) := none
  returning : Bool := false
  five : Bool := false
  spawned : Option (Nat × Nat × List Byte) := none
  deriving DecidableEq, Repr

/-- An idle context with every element at its task-start value (R9). TVEC is the task-start value of R355. (DESIGN CHOICE, log 1.) -/
def Ctx.idle : Ctx :=
  { running := false, uid := 0, pc := 0, s := [], g := 1, v := [], p := [], h := [], k := [], m := [], lc := 0, ec := 0, vrb := 0, prb := 0,
    warnSat := false, warnFallback := false, trapq := false, halted := false, pendchk := false, mode := false, cause := 0, epc := 0,
    tvec := 0x3F000, fhandle := 0, foffset := 0, hsave := [], dbgctl := 0, watchlo := 0, watchhi := 0, count := 0, hcount := 0, wq := [], hq := [],
    block := none, marks := [], storeFail := none, pendFail := none, boundary := none, wake := false, task := .none, op := 0, launch := 0,
    tclass := 0, since := 0, reserved := none, preq := none, splitDone := false, ending := false, faultAt := none }

/-! ### Cores: instruction memory, engines, matrix array (R168, R256 to R276) -/

/-- One frame of instruction memory: the kernel table and segment it holds, its bundles, and when it received its copy (R168). -/
structure Frame where
  ktab : Nat
  seg : Nat
  code : List (BitVec 128)
  order : Nat
  deriving DecidableEq, Repr

/-- A segment copy under way to a frame (R95, R169), and what it waits for. -/
structure SegCopy where
  ktab : Nat
  seg : Nat
  frame : Nat
  part : Nat
  uid : Nat
  wait : Option Block
  deriving DecidableEq, Repr

/-- How an input token was bound at issue (R274). -/
inductive Bind where
  | ok
  | fault (r : FaultRec)
  | linked (id : Nat)
  deriving DecidableEq, Repr

/-- An engine operation as issued: its opcode and x (R48), its token and bound inputs, the parameter registers and handle bindings it captured (R232, R287), and the context, core, partition, operator and launch that issued it. For a collective, `groups` holds its group, its instance's number, the number of members and its own rank. `kin` holds the numbers ka, kb and kc of its input tokens. -/
structure EngineOp where
  id : Nat
  opc : Nat
  x : Nat
  kd : Nat
  ins : List Bind
  m : Tab W64
  h : Tab Handle
  uid : Nat
  core : Nat
  part : Nat
  op : Nat
  launch : Nat
  dbgctl : W32
  cls : Nat
  groups : List Nat
  held : Bool
  issued : Nat
  kin : List Nat := []
  deriving DecidableEq, Repr

/-- What an accumulator tile holds (R263). -/
inductive TileKind where
  | empty
  | float
  | int
  deriving DecidableEq, Repr

/-- An accumulator tile: its owner's uid, its values by i × 64 + n, the elements whose clamp flag is set, and the poisoned groups of eight elements (R262, R263, R118, R368). -/
structure Tile where
  owner : Option Nat
  kind : TileKind
  vals : Tab (BitVec 48)
  clamps : Tab Bool
  bad : List Nat := []
  deriving DecidableEq, Repr

/-- A tile after module reset. (DESIGN CHOICE where no rule gives the value, log 1.) -/
def Tile.free : Tile := ⟨none, .empty, [], [], []⟩

/-- A landing-pool entry, or a drain on its way to one; `bad` names its poisoned sectors, eight values each (R265, R266, R368). -/
structure PoolEntry where
  uid : Nat
  xfer : Nat
  vals : Tab W32
  sat : Tab Bool
  committed : BitVec 64
  landed : Bool
  bad : List Nat := []
  deriving DecidableEq, Repr

/-- The sequencer of the running MCALL (R256); `draining` says that its last step ended an interval whose drain waits for a free pool entry (R266). -/
structure McallRun where
  op : EngineOp
  routine : Nat
  pc : Nat
  ea : Nat
  ic : Nat
  ilen : Option Nat
  dn : Nat
  aoff : W32
  boff : W32
  moff : W32
  ctr : Tab W32
  xva : W16
  xvb : W16
  endk : Nat
  steps : Nat
  stagedA : Option Nat
  stagedB : Option Nat
  codesA : List Nat
  codesB : List Nat
  metas : List Nat
  word : W64
  clamped : Bool
  narrow : Bool
  atStep : Bool
  ended : Bool
  draining : Bool := false
  deriving DecidableEq, Repr

/-- A copy in progress: the index list it read, the pieces of rows not yet moved (row, first byte, length), its source bytes as they were before it wrote, where the two overlap (R289, R290), the source sectors it has read that pieces of a row share (row, first byte in the row, bytes) (R241), and when it last moved: `since` in cycles of the arithmetic clock, `moved` in cycles of the reference clock (R362, R411). (DEDUCED, log 31.) -/
structure CopyRun where
  op : EngineOp
  idx : List Nat
  left : List (Nat × Nat × Nat)
  snap : Option (List (Nat × List Byte))
  since : Nat
  cache : List (Nat × Nat × List Byte) := []
  moved : Nat := 0
  deriving DecidableEq, Repr

/-- One compute core; `resumed` holds calls on the array that pre-emption suspended and that wait in the queue to go on (R397), `badStore` the poisoned sectors of its microprogram store, four words each, and `l1bad` those of the lines its L1 holds (R368, R370) (R2, R168, R257, R262, R266, R276). (DEDUCED, log 39.) -/
structure Core where
  cur : Nat
  frames : Tab Frame
  copying : List SegCopy
  order : Nat
  tiles : Tab Tile
  pool : List PoolEntry
  queue : List EngineOp
  mcall : Option McallRun
  resumed : List McallRun
  copies : List CopyRun
  store : Tab W64
  rtable : Tab W64
  mpaddr : BitVec 11
  ringsel : BitVec 6
  errcnt : W32
  l1 : Tab (List Byte)
  offline : Tab Bool
  badStore : List Nat := []
  l1bad : List Nat := []
  deriving DecidableEq, Repr

/-- A core after module reset. (DESIGN CHOICE where no rule gives the value, log 1.) -/
def Core.fresh : Core :=
  { cur := 0, frames := [], copying := [], order := 0, tiles := [], pool := [], queue := [], mcall := none, resumed := [], copies := [], store := [], rtable := [],
    mpaddr := 0, ringsel := 0, errcnt := 0, l1 := [], offline := [] }

/-- A pre-empted context with what was saved beside it (R394, R397). -/
structure Saved where
  core : Nat
  part : Nat
  cls : Nat
  ctx : Ctx
  tiles : Tab Tile
  pool : List PoolEntry
  mcall : Option McallRun
  queued : List EngineOp
  area : Nat
  blk : Bool
  deriving DecidableEq, Repr

/-! ### Memory accesses in flight (R236 to R240) -/

/-- Where a byte lies: a core's scratchpad, a die's memory (by key), a tier-3 page seen through the codec (by key), or a tensor of another device. -/
inductive Loc where
  | scr (core byte : Nat)
  | mem (key : Nat)
  | comp (key : Nat)
  | far (dev tid off : Nat)
  deriving DecidableEq, Repr

/-- Bytes that lie one after another. -/
structure Seg where
  loc : Loc
  len : Nat
  deriving DecidableEq, Repr

/-- The home operation of an access that has issued and is not performed (R23, R223 to R227, R285). A vector access is held sector by sector (R241): `lane` is the first lane of its piece. A Lakebed kernel's extent stores are held beside them; `flag` marks a FLAGST (R320). `record` reads the task record of a SPAWN, and `spawn` is its push, held for its release (R175). -/
inductive RKind where
  | load (cls num size lane : Nat) (signed splat : Bool) (acq : Nat)
  | roLoad (cls num size lane : Nat) (splat : Bool)
  | store (data : List Byte)
  | stl (data : List Byte) (scope : Nat)
  | atomic (fn : Nat) (v w : W64) (dest : Option Nat) (scope : Nat)
  | ring (ring : Nat) (push : Bool) (amount : W32)
  | value (res : List Result)
  | hbind (h : Nat)
  | hsetxv (h : Nat) (xv : W16)
  | tuse (d : W32)
  | lake (data : List Byte) (flag : Bool)
  | record
  | spawn (ctx : Nat) (t : TaskRec)
  deriving DecidableEq, Repr

/-- An access in flight: who issued it from which slot, through which handle and offset, where its bytes lie. `fixed` holds the bytes of a load that read as its bundle executed, with why they are unusable (R14); `trapped` says that a handler issued it (R24). Of a vector store that goes out sector by sector, `piece` is the number of the sector and `failed` the lowest piece that has failed so far, with its trap (R359). -/
structure Remote where
  id : Nat
  uid : Nat
  core : Nat
  part : Nat
  launch : Nat
  kind : RKind
  slot : Nat
  h : Nat
  hk : Handle
  off : Nat
  ranges : List (Nat × Nat)
  segs : List Seg
  since : Nat
  fixed : Option (List Byte × Option (Nat × Nat)) := none
  trapped : Bool := false
  piece : Nat := 0
  failed : Option (Nat × Trap) := none
  deriving DecidableEq, Repr

/-- A split request of a cluster (R194): the code before it, its target code, and the operations whose tokens it waits for. -/
structure SplitReq where
  cluster : Nat
  core : Nat
  uid : Nat
  old : Nat
  code : Nat
  waits : List Nat
  deriving DecidableEq, Repr

/-! ### Scheduling (R161 to R186) -/

/-- Whether an operator waits for admission, runs, or has ended and waits for its completion record (R162, R183). -/
inductive OpPhase where
  | waiting
  | running
  | ending
  | retired
  deriving DecidableEq, Repr

/-- An operator: its record (R161) and its run. -/
structure Operator where
  part : Nat
  stream : Nat
  phase : OpPhase
  bytes : List Byte
  kind : Bool
  pchk : Bool
  gvalid : Nat
  cores : Bool
  prio : Nat
  tasks : Nat
  entry : Pc
  ktab : Nat
  affmask : Nat
  param : Nat
  fv : Bool
  frame : Nat
  fstride : Nat
  group : List Nat
  useten : Nat
  useidx : Nat
  usecnt : Nat
  args : List (Nat × Nat)
  seq : W64
  launch : Nat
  base : List Nat
  live : Nat
  handed : Nat
  admitted : Option Nat
  fail : Option (Nat × Nat)
  weir : Option Nat
  replay : Option (Nat × Nat)
  bounds : Option (Nat × Nat)
  deriving DecidableEq, Repr

/-- A group-table entry (R177, R181), `far` being the arrivals of other devices where this device keeps them, with the collective instances its members have issued (R300). -/
structure Group where
  members : BitVec 256
  gen : W16
  mc : Bool
  arrived : BitVec 256
  dmask : BitVec 192
  far : Tab (BitVec 256)
  loaded : Bool
  issued : Tab Nat
  deriving DecidableEq, Repr

/-- A group entry after module reset. (DESIGN CHOICE where no rule gives the value, log 1.) -/
def Group.none : Group := ⟨0, 0, false, 0, 0, [], false, []⟩

/-- A collective instance (R300): its group and number, the COLL each member of this device has issued, the failure late members meet when it has been abandoned, and once its sources are read the bytes still to be written, by operation. -/
structure CollInst where
  group : Nat
  number : Nat
  ops : List EngineOp
  started : Bool
  lost : Option FaultRec
  shares : Option (List (Nat × List Byte))
  clamped : Bool
  deriving DecidableEq, Repr

/-- A ring of a cluster (R283, R284): its counters and its configuration words. -/
structure Ring where
  write : W32
  read : W32
  cfg : W64
  win : W64
  deriving DecidableEq, Repr

/-- A ring after module reset. (DESIGN CHOICE where no rule gives the value, log 1.) -/
def Ring.off : Ring := ⟨0, 0, 0, 0⟩

/-- A stream being decoded or parked in a slot of its die (R296 to R298): the sector masks it read, the chunks not yet written, those that failed, and when it is parked the report it waits for with the handle and offset that faulted. -/
structure StreamRun where
  op : EngineOp
  die : Nat
  masks : List Nat
  left : List Nat
  failed : List Nat
  parked : Option (Nat × Nat × Nat)
  deriving DecidableEq, Repr

/-! ### Tensors and the Weir (R196, R371 to R389) -/

/-- A tensor record (R196), its STATE by code, and the Weir's marks: busy under an action (R380), incompressible (R378). -/
structure Tensor where
  id : Nat
  home : Nat
  state : Nat
  xv : W16
  fmt : Nat
  rank : Nat
  vbase : Nat
  extent : Nat
  shape : List W32
  stride : List W32
  nextuse : W32
  recipe : Nat
  pin : Nat
  depth : Nat
  busy : Bool
  incomp : Bool
  deriving DecidableEq, Repr

/-- A Weir action under way on a tensor (R380): 1 spill, 2 compress, 3 drop, 4 fill to a resident place, 5 reserve conversion; the frames it moves the pages to, and the STATE it leaves. -/
structure WeirAct where
  part : Nat
  tid : Nat
  act : Nat
  dest : Nat
  frames : List Nat
  deriving DecidableEq, Repr

/-- A recompute in progress (R385): its depth, the tensors above it in the chain, the next input to examine, the operator running its task, if pushed, the failure to deliver (cause, tensor, inner cause), the operations, admissions and recomputes that wait with the contexts and kernels, how many inputs it has pinned, and its own number as a waiter. -/
structure Recompute where
  part : Nat
  tid : Nat
  depth : Nat
  chain : List Nat
  input : Nat
  op : Option Nat
  place : Nat
  failed : Option (Nat × Nat × Nat)
  waiters : List Nat
  pins : Nat := 0
  id : Nat := 0
  deriving DecidableEq, Repr

/-- A page under migration (R213): its leaf, the old frame's first key and the new frame, and the number that every access issued before the seal lies below. -/
structure Migration where
  part : Nat
  page : Nat
  leaf : Nat
  oldKey : Nat
  newFrame : Nat
  newTier : Nat
  die : Nat
  mark : Nat
  deriving DecidableEq, Repr

/-- A cached translation (R363): virtual base, page size and the leaf entry. -/
structure TlbEntry where
  part : Nat
  base : Nat
  size : Nat
  leaf : W64
  deriving DecidableEq, Repr

/-- A miss that a walk answers (R364): the 64 KiB unit it lies in, what it needs (1 read, 2 write, 3 both, 4 execute), and the number of the operation, kernel or segment copy that waits for it, 0 for contexts. -/
structure WalkJoin where
  unit : Nat
  need : Nat
  who : Nat
  deriving DecidableEq, Repr

/-- The failure of a walk that an operation, kernel or segment copy has yet to meet (R364). -/
structure WalkAnswer where
  tlb : Nat
  part : Nat
  unit : Nat
  who : Nat
  cause : Nat
  level : Nat
  deriving DecidableEq, Repr

/-- A walk under way (R364): the TLB that missed, the address that missed first, and the misses it answers. -/
structure Walk where
  tlb : Nat
  part : Nat
  va : Nat
  joined : List WalkJoin
  deriving DecidableEq, Repr

/-- A page-fault report outstanding in a partition (R366). -/
structure Report where
  part : Nat
  seq : Nat
  va : Nat
  tid : Nat
  kind : Nat
  waiters : Nat
  since : Nat
  deriving DecidableEq, Repr

/-! ### Lakebed cores (R303 to R337) -/

/-- An extent register (R312). -/
structure Extent where
  valid : Bool
  tid : Nat
  vbase : Nat
  extent : Nat
  handle : Nat
  deriving DecidableEq, Repr

def Extent.unbound : Extent := ⟨false, 0, 0, 0, 0⟩

/-- What a kernel runs for: a command of a context, or task i of an operator (R306); `fw` is 0 for a program kernel, 1 for NMRED, 2 for NMIRED. `ran` counts the Lakebed cycles it ran since its dispatch, up to the last time it went on, which was at `since`. A parked kernel names what it waits for, with the extent, handle and offset it met it at. `arrival` counts Lakebed cycles. `fin` is the AUX of a firmware kernel whose stores have issued, and `reads` what a firmware kernel (R345) or an IRED (R329) that has to wait has done already, in order: the bytes of its reads, and nothing for a store; `slot` is the slot of the save space that holds the kernel (R337). -/
structure Kernel where
  id : Nat
  entry : Nat
  start : Nat
  fw : Nat
  cls : Nat
  arrival : Nat
  cmd : Option EngineOp
  op : Nat
  part : Nat
  index : Nat
  param : Nat
  ran : Nat
  since : Nat
  dispatched : Bool
  parked : Option (Block × Nat × Nat × Nat)
  fin : Option Nat
  q : Tab W64
  w : Tab OWord
  z : Tab W16
  e : Tab Extent
  pc : BitVec 14
  sram : Tab (List Byte)
  bad : List Nat := []
  reads : List (List Byte) := []
  slot : Option Nat := none
  deriving DecidableEq, Repr

/-- A Lakebed core (R303, R309): its kernel table and instruction store, its running kernel, its command buffer of queued, parked and pre-empted kernels, and the poisoned sectors of its instruction store, eight words each (R368). -/
structure Lake where
  ktable : Tab W64
  istore : Tab W32
  run : Option Kernel
  buf : List Kernel
  preq : Bool
  badStore : List Nat := []
  deriving DecidableEq, Repr

/-- A Lakebed core after module reset. (DESIGN CHOICE where no rule gives the value, log 1.) -/
def Lake.fresh : Lake := ⟨[], [], none, [], false, []⟩

/-- The base die of a stack: its free chunk runs, its inversion table, and the freed runs that the full list did not take (R303, R335). -/
structure Stack where
  free : List (Nat × Nat)
  inverted : List Nat
  unlisted : List (Nat × Nat) := []
  deriving DecidableEq, Repr

/-- A base die after module reset. (DESIGN CHOICE where no rule gives the value, log 1.) -/
def Stack.fresh : Stack := ⟨[], [], []⟩

/-- A reserve entry of a slice in use: the line (key / 128) it holds (R335). -/
structure ReserveUse where
  slice : Nat
  entry : Nat
  line : Nat
  deriving DecidableEq, Repr

/-! ### The host attachment (R413 to R419) -/

/-- A submission stream (R415): its head and tail, and whether it admits. -/
structure Stream where
  head : W32
  tail : W32
  stopped : Bool
  deriving DecidableEq, Repr

def Stream.fresh : Stream := ⟨0, 0, false⟩

/-- A ring in host memory (R414): its queue pair, address, key, entry count, consumer word (a tensor and an offset), and the number written. -/
structure HostRing where
  qp : Nat
  addr : Nat
  key : Nat
  count : Nat
  ctid : Nat
  coff : Nat
  written : Nat
  waiting : List (List Byte)
  deriving DecidableEq, Repr

/-- A queue pair (R413, R417): its kind and state, its send queue and doorbell, the requests taken, the doorbell values written with the launch number each write carried and the context that made it, and the requests posted and not completed (operator, kind, context, data). -/
structure QPair where
  port : Nat
  reliable : Bool
  error : Bool
  tid : Nat
  sqOff : Nat
  sqCount : Nat
  dbOff : Nat
  taken : Nat
  doors : List (W32 × Nat × Nat)
  posted : List (Nat × Nat × Nat × List Byte)
  deriving DecidableEq, Repr

/-- A command of the host read from a partition's ring (R416); `bad` when a reserved field is nonzero, `phase` counts the stages done, and `due` is how many records of the completion ring a CHECKPOINT waits for (R419). -/
structure Command where
  code : Nat
  bad : Bool
  a16 : Nat
  a32 : Nat
  a64 : Nat
  b64 : Nat
  seq : W64
  phase : Nat
  due : Nat := 0
  deriving DecidableEq, Repr

/-- A partition (R398): its slices and the values the Wellhead gives it; `weights` is by shared fabric. -/
structure Partition where
  live : Bool
  slices : W32
  root : Option (Nat × Nat)
  groupLo : Nat
  groupHi : Nat
  groupTensor : Nat
  recipeTensor : Nat
  submission : Nat
  image : Nat
  imageLoaded : Bool
  saveAreas : List Nat
  recordCap : Nat
  rings : List HostRing
  map : Tab Nat
  weights : Tab Nat
  queueCap : Tab Nat
  ageq : W32
  wincoal : W32
  wdepth : Nat
  flttmo : W32
  migctl : W32
  wcspill : W32
  wcfill : W32
  wccomp : W32
  wcrecomp : W32
  prectl : W32
  domtmo : W32
  resizetmo : W32
  dbg : W32
  deadline : Nat
  streams : Tab Stream
  cmdHead : W32
  cmdTail : W32
  launchNext : Nat
  reportSeq : Nat
  window : Option (Nat × Nat × List Byte)
  checkpoint : Bool
  resize : Option (W32 × Nat)
  epochAt : Tab Nat
  keys : Tab Nat
  mapped : List Nat
  qps : Tab QPair
  deriving DecidableEq, Repr

/-- A partition that is not live after module reset. (DESIGN CHOICE where no rule gives the value, log 1.) -/
def Partition.none : Partition :=
  { live := false, slices := 0, root := Option.none, groupLo := 0, groupHi := 0, groupTensor := 0, recipeTensor := 0, submission := 0, image := 0,
    imageLoaded := false, saveAreas := [], recordCap := 0, rings := [], map := [], weights := [], queueCap := [], ageq := 0, wincoal := 0, wdepth := 4,
    flttmo := 0, migctl := 0, wcspill := 0x10000, wcfill := 0x10000, wccomp := 0x10000, wcrecomp := 0x10000, prectl := 0, domtmo := 0,
    resizetmo := 0, dbg := 0, deadline := 0, streams := [], cmdHead := 0, cmdTail := 0, launchNext := 0, reportSeq := 0, window := Option.none,
    checkpoint := false, resize := Option.none, epochAt := [], keys := [], mapped := [], qps := [] }

/-- What the module hands to the outside: record n of a host ring, on its queue pair, with its address in host memory and the ring's key, with immediate or not; an RDMA message; a barrier's flit or a memory request to another device (R181, R185, R410, R414, R417): of kind 0 a store, 1 an atomic, 2 an extra value, 3 a next-use distance, 4 a read, whose data is its length, 5 the binding of a handle (R407); a member's collective data (R412); the answer to a request of another device: its cause or 0, and its data (R410, R411); and what an RDMA read of the host returns (R413). -/
inductive Sent where
  | record (part ring qp n addr key : Nat) (imm : Option Nat) (data : List Byte)
  | rdma (qp op raddr rkey imm len : Nat) (data : List Byte)
  | image (part base key : Nat) (data : List Byte)
  | imageRead (part base key : Nat)
  | generation (group gen : Nat)
  | arrival (group core : Nat)
  | remote (kind dev tid off : Nat) (data : List Byte)
  | collect (group number rank off : Nat) (data : List Byte)
  | answer (dev part tid off cause : Nat) (data : List Byte)
  | hostData (part qp tid off : Nat) (data : List Byte)
  deriving DecidableEq, Repr

/-- A request of another device of the domain that reaches this one (R407 to R411): its kind as in `Sent.remote`, the device, the partition here that is its peer, the tensor, the bytes, and the data of a store or an atomic. -/
structure PeerReq where
  kind : Nat
  dev : Nat
  part : Nat
  tid : Nat
  off : Nat
  len : Nat
  data : List Byte
  deriving DecidableEq, Repr

/-- A request of another device that waits here for a page or a tensor, and the failure it has met (R409, R411). -/
structure PeerWait where
  req : PeerReq
  wait : Block
  fail : Option Nat
  deriving DecidableEq, Repr

/-! ### The Wellhead (R421 to R429) -/

/-- An SGWAIT that stalls its processor (R423): the word it waits for, the target, the cycle its limit passes at (0: it has none), and, once that cycle has passed, whether the word had reached the target before. -/
structure SgWait where
  addr : Nat
  target : Nat
  deadline : Nat
  met : Option Bool
  deriving DecidableEq, Repr

/-- The log's place in a Wellhead processor's physical space: behind the shares of the slices, for no partition reaches it (R424). (DESIGN CHOICE, log 22.) -/
def logBase : Nat := 2 ^ 37
/-- The size of the log (R424). -/
def logSize : Nat := 2 ^ 24
/-- The firmware's region, behind the log (R421). (DESIGN CHOICE, log 57.) -/
def firmwareBase : Nat := logBase + logSize
/-- The size of the firmware's region. (DESIGN CHOICE, log 57.) -/
def firmwareSize : Nat := 2 ^ 30

/-- A command processor (R421): its registers, its machine-mode trap registers, its other control and status registers by number, the SGWAIT it stalls on, and the bytes of its load reservation with their address. (PRESUMED, log 19.) -/
structure Well where
  x : Tab W64
  pc : W64
  mode : Nat
  mstatus : W64
  mtvec : W64
  mepc : W64
  mcause : W64
  mtval : W64
  waitSince : Option SgWait
  lastSignal : Nat
  csr : Tab W64 := []
  res : Option (Nat × List Byte) := none
  deriving DecidableEq, Repr

/-- A Wellhead processor after module reset: in machine mode, at the firmware's first byte. (DESIGN CHOICE where no rule gives the value, log 1; DESIGN CHOICE, log 57.) -/
def Well.fresh : Well := ⟨[], BitVec.ofNat 64 firmwareBase, 3, 0, 0, 0, 0, 0, none, 0, [], none⟩

/-- A record of the write-ahead log as a scan reads it (R424); an update's entries are (address, old, new). -/
structure LogRec where
  lsn : Nat
  txn : Nat
  commit : Bool
  cp : Nat
  entries : List (Nat × W64 × W64)
  deriving DecidableEq, Repr

/-- What a die's Wellheads share (R423 to R425): the log's next byte, counted from the first and never wrapped, and its next LSN; the open transactions, by number the processor and the first byte; the byte of the last restart point, and the LSN there. The log's records stand in memory. -/
structure WellDie where
  tail : Nat
  lsn : Nat
  openTxns : Tab (Nat × Nat)
  restart : Nat
  restartLsn : Nat
  firmwareEntry : W64
  deriving DecidableEq, Repr

/-- What the Wellheads of a die share after module reset. (DESIGN CHOICE where no rule gives the value, log 1.) -/
def WellDie.fresh : WellDie := ⟨0, 1, [], 0, 1, BitVec.ofNat 64 firmwareBase⟩

/-- A die: its core-rail alarm, its arithmetic clock in MHz, when the clock was last changed, and the arithmetic-clock cycles up to then, in 940ths (R437, R438); the current samples of the last millisecond in amperes, newest first, when the last was taken, and how many in a row left the 1 ms average below 650 A; the hottest reading in tenths of a degree, and since when it has been below 100 °C and above 105 °C; the minute whose peaks are gathered, with the peak temperature and the peak 1 ms average (R440); and the current that stands now. -/
structure Die where
  alarm : Bool
  clock : Nat
  changed : Nat
  arith : Nat := 0
  amps : List Nat := []
  sampled : Nat := 0
  low : Nat := 0
  temp : Nat := 0
  cool : Option Nat := none
  minute : Nat := 0
  peakTemp : Nat := 0
  peakAmps : Nat := 0
  now : Nat := 0
  hot : Option Nat := none
  deriving DecidableEq, Repr

/-- A die after module reset. (DESIGN CHOICE where no rule gives the value, log 1.) -/
def Die.fresh : Die := { alarm := false, clock := 940, changed := 0 }

/-! ### The step's inputs and its staging area -/

/-- What an event is about and what the outside supplies with it: a core, a context, a position in a list, a partition, a die, a number, a word, two flags, bytes, the records a creation carries, and, at a restart, the operators that the log does not establish and the records it shows as due (R425). The model's own field: the schedule of the events and the values of the outside are inputs. (DESIGN CHOICE, log 4.) -/
structure Select where
  core : Nat
  ctx : Nat
  idx : Nat
  part : Nat
  die : Nat
  num : Nat
  word : W64
  flag : Bool
  keep : Bool
  data : List Byte
  cfg : Partition
  ten : Tensor
  lostOps : List Nat := []
  dueRecords : List Nat := []
  deriving DecidableEq, Repr

def Tensor.none : Tensor :=
  { id := 0, home := 0, state := 0, xv := 0, fmt := 19, rank := 0, vbase := 0, extent := 0, shape := [], stride := [], nextuse := 0xFFFFFFFF,
    recipe := 0xFFFFFF, pin := 0, depth := 0, busy := false, incomp := false }

def Select.none : Select := ⟨0, 0, 0, 0, 0, 0, 0, false, false, [], .none, .none, [], []⟩

/-- What a hardware error does, of what R368 to R370, R362 and R439 describe: it is corrected in the storage or link of a unit (with the core whose storage it is, the slice that owns it, and the place where one is known), it leaves a sector of memory or scratchpad uncorrectable, in its storage, in an L2 slice or in a line that a core's L1 holds, or eight values of a pool entry or of a tile, a sector of a microprogram store, of a Lakebed core's local SRAM or instruction store, or an item of a context; it takes a place out of service, by the cause its accesses then meet; or it is an error of a link, in a transfer of a partition, that the link's replay does not repair, so that the link is retrained. The model's own type: hardware errors are inputs. (DEDUCED, log 66.) -/
inductive Upset where
  | corrected (unit core slice : Nat) (place : Option Loc)
  | sector (l : Loc)
  | l2 (l : Loc)
  | l1 (core : Nat) (l : Loc)
  | pool (core entry sector : Nat)
  | tile (core tile group : Nat)
  | microstore (core sector : Nat)
  | lakeSram (lake sector : Nat)
  | lakeStore (lake sector : Nat)
  | register (ctx cls : Nat)
  | retire (cause place : Nat)
  | link (unit part : Nat)
  deriving DecidableEq, Repr

/-- What the module's monitors read: a die's core-rail current in amperes (R437), its hottest junction temperature in tenths of a degree (R438), and whether every rail is within tolerance (R436). The model's own type: readings are inputs. (DESIGN CHOICE, log 79.) -/
inductive Reading where
  | current (die amps : Nat)
  | temperature (die tenths : Nat)
  | rails (ok : Bool)
  deriving DecidableEq, Repr

/-- What the running image has the hardware do: raise the fused security counter to its own version (R428), or extend a measurement register by an image before that image runs (R429). The model's own type. (DESIGN CHOICE, log 80.) -/
inductive Firmware where
  | fuse
  | extend (reg : Nat) (image : List Byte)
  deriving DecidableEq, Repr

/-- Whose turn the next step is: a core, its matrix array, a Lakebed core, a Wellhead processor, an event of another agent, a hardware error, a monitor, the running firmware image, a request of another device or one of those that wait, or an RDMA read of the host (its partition, queue pair, key, offset and length). -/
inductive Agent where
  | core (c : Nat)
  | array (c : Nat)
  | lake (id : Nat)
  | well (die cp : Nat)
  | event (i : Instr)
  | upset (u : Upset)
  | reading (r : Reading)
  | firmware (f : Firmware)
  | peer (q : PeerReq)
  | peerAgain (i : Nat)
  | hostRead (part qp key off len : Nat)
  deriving DecidableEq, Repr

/-- One turn of the schedule: the agent, what it is about, and the reference-clock cycles that pass before it. The model's own field. (DESIGN CHOICE, log 4.) -/
structure Turn where
  agent : Agent
  sel : Select
  dt : Nat
  deriving DecidableEq, Repr

/-- An effect a slot has when its bundle commits (R14). -/
inductive Effect where
  | result (lat : Nat) (r : Result)
  | resultLate (r : Result)
  | warnSat
  | warnFallback
  | sysreg (n : Nat) (v : W64)
  | jump (target : Pc)
  | localStore (off : Nat) (data : List Byte)
  | localAtomic (off : Nat) (data : List Byte)
  | issue (r : Remote)
  | scoreboard (r : Remote)
  | token (k : Nat) (t : Token)
  | enqueue (o : EngineOp)
  | join (o : EngineOp)
  | spawn (r : Remote)
  | badTask (detail : Nat)
  | finish
  | segCopy (n : Nat)
  | arrive (group : Nat)
  | acquire (scope : Nat)
  | release (scope : Nat)
  | clearRo
  | prefetch (l : Loc)
  | fillL1 (l : Loc)
  | fillRo (l : Loc)
  | splitTaken
  | commitPart (entry part : Nat)
  | consumeMarks (rs : List (Nat × Nat))
  | eret
  | sleep
  | micro (addr : Nat) (v : W64)
  | ringCfg (ring : Nat) (v : W64)
  | pin (tid : Nat) (up : Bool)
  deriving DecidableEq, Repr

/-- A remote access of a slot, for the residency and translation step of R356: the handle, the bytes by offset, and what it needs (1 read, 2 write, 3 both). -/
structure Access where
  h : Nat
  hk : Handle
  ranges : List (Nat × Nat)
  need : Nat
  deriving DecidableEq, Repr

/-- What one slot does, worked out from the state before the bundle (R14, R356): its guard's outcome, the items it reads (class, name, physical number; classes of R53, 8 for a handle) and writes, its checks in the order of R356, its effects, and the read it has to wait for before it commits (R175). -/
structure SlotOut where
  slot : Slot
  opc : Nat
  active : Bool
  priv : Option Trap
  reads : List (Nat × Nat × Nat)
  words : List Nat
  writes : List (Nat × Nat)
  trap : Option Trap
  block : Option Block
  accs : List Access
  poison : Option Trap
  debug : List (Nat × Nat)
  watch : Option Trap
  stall : Bool
  effects : List Effect
  fetch : Option Remote := none
  deriving DecidableEq, Repr

/-- The bundle being carried out: its context, the slots gathered so far (R14). Between steps there is none. -/
structure Stage where
  core : Nat
  ctx : Nat
  outs : List SlotOut
  deriving DecidableEq, Repr

/-! ### The machine -/

/-- The state of the module. Tables are keyed as follows: `ctxs` by core × 4 + context; `queues` by die × 16 + queue; `rr` by (partition × 4 + die) × 4 + class; `served` by die, the idle context served last, as its number within the die (R174); `answered` by no key, the failed walks whose operation, kernel or segment copy has yet to meet them; `roBad` by cluster, the poisoned sectors of the lines its read-only cache holds (R370); `rings` by cluster × 64 + ring; `tensors` and `copyMask`, the mask of the dies that hold a copy of a record, by partition × 2^20 + id; `copies` by die, the numbers of the records it holds copies of, in the order it got them (R405); `tlbs` by cluster, 32 + die for stream engines, 64 + id for Lakebed cores; `wells` by die × 4 + processor; `granules` by core × 16384 + byte / 128; `tags` and `poison` by 32-byte sector; `noticed` by unit, with the millisecond after that of its last SOFT_ERROR_CORRECTED notice (R369); `dispatched` by die × 16 + queue, the number last applied to it (R423). `booted` is the security version of the running Wellhead image (R428), `hours` the powered hours already counted and `savedAt` when the health block was last written (R440). (DESIGN CHOICE, log 4.) -/
structure State where
  cycle : Nat
  resets : Nat
  fresh : Nat
  turn : Turn
  sched : List Turn
  sel : Select
  stage : Option Stage
  ctxs : Tab Ctx
  cores : Tab Core
  splitCode : Tab Nat
  splits : List SplitReq
  ro : Tab (Tab (List Byte))
  roBad : Tab (List Nat) := []
  mem : List Host.Cell
  sram : List Host.Cell
  granules : Tab (Option Nat)
  poison : Tab Bool
  tags : Tab (Option Nat)
  dirty3 : Tab (List Byte)
  remotes : List Remote
  tlbs : Tab (List TlbEntry)
  walks : List Walk
  answered : List WalkAnswer := []
  reports : List Report
  tensors : Tab Tensor
  copies : Tab (List Nat) := []
  copyMask : Tab Nat := []
  used : Tab Bool
  pageCount : Tab Nat
  acts : List WeirAct
  recomputes : List Recompute
  retry : List (Nat × Nat × Nat)
  migrations : List Migration
  parts : Tab Partition
  ops : Tab Operator
  queues : Tab (List TaskRec)
  rr : Tab Nat
  served : Tab Nat := []
  groups : Tab Group
  rings : Tab Ring
  streams : List StreamRun
  joins : List EngineOp
  retired : List (Nat × Nat)
  colls : List CollInst
  saved : List Saved
  lakes : Tab Lake
  bases : Tab Stack
  reserve : List ReserveUse
  commands : Tab (List Command)
  sent : List Sent
  peers : List PeerWait := []
  dispatched : Tab W32 := []
  wells : Tab Well
  wellDies : Tab WellDie
  dies : Tab Die
  stopped : Bool
  rails : Bool := true
  booted : Option Nat := none
  hours : Nat := 0
  savedAt : Nat := 0
  devnum : Nat
  flash : Tab (List Byte)
  secVersion : Nat
  measures : Tab (BitVec 256)
  serial : Nat
  recovery : Bool
  health : Tab W64
  unsaved : Tab W64
  links : Tab Bool
  noticed : Tab Nat
  deriving DecidableEq, Repr

/-- The state right after module reset: every context idle, storage scrubbed, no partition made. Core 0 has the first turn (the model's choice; a turn that finds nothing to run changes only the clock). (DESIGN CHOICE, log 1; DESIGN CHOICE, log 2; DESIGN CHOICE, log 3.) -/
def State.reset : State :=
  { cycle := 0, resets := 0, fresh := 1, turn := ⟨.core 0, .none, 1⟩, sched := [], sel := .none, stage := none, ctxs := [], cores := [],
    splitCode := [], splits := [], ro := [], mem := [], sram := [], granules := [], poison := [], tags := [], dirty3 := [], remotes := [], tlbs := [],
    walks := [], reports := [], tensors := [], used := [], pageCount := [], acts := [], recomputes := [], retry := [], migrations := [], parts := [], ops := [],
    queues := [], rr := [], groups := [], rings := [], streams := [], joins := [], retired := [], colls := [], saved := [], lakes := [], bases := [], reserve := [],
    commands := [], sent := [], wells := [], wellDies := [], dies := [], stopped := false, devnum := 0xFF,
    flash := [], secVersion := 0, measures := [], serial := 0, recovery := false, health := [], unsaved := [], links := [], noticed := [] }

end Sys2Proof.Machine
end

