-- ==== Sys2Proof/Machine/Parts.lean ====
section
/-! DEFINITION. The parts of the state by number, registers with rotation (R9, R10), the writeback queue (R17 to R19), and scratchpad bytes (R188 to R191, R242). -/

namespace Sys2Proof.Machine

/-! ### Parts of the state -/

def coreOf (s : State) (c : Nat) : Core := tget .fresh s.cores c
def setCore (s : State) (c : Nat) (x : Core) : State := { s with cores := tset s.cores c x }
def modCore (s : State) (c : Nat) (f : Core → Core) : State := setCore s c (f (coreOf s c))
/-- Context `x` of core `c` has number `c × 4 + x`. -/
def ctxId (c x : Nat) : Nat := c * 4 + x
def ctxOf (s : State) (id : Nat) : Ctx := tget .idle s.ctxs id
def setCtx (s : State) (id : Nat) (x : Ctx) : State := { s with ctxs := tset s.ctxs id x }
def modCtx (s : State) (id : Nat) (f : Ctx → Ctx) : State := setCtx s id (f (ctxOf s id))
def partOf (s : State) (p : Nat) : Partition := tget .none s.parts p
def setPart (s : State) (p : Nat) (x : Partition) : State := { s with parts := tset s.parts p x }
def modPart (s : State) (p : Nat) (f : Partition → Partition) : State := setPart s p (f (partOf s p))
def lakeOf (s : State) (i : Nat) : Lake := tget .fresh s.lakes i
def setLake (s : State) (i : Nat) (x : Lake) : State := { s with lakes := tset s.lakes i x }
def ringOf (s : State) (i : Nat) : Ring := tget .off s.rings i
def setRing (s : State) (i : Nat) (x : Ring) : State := { s with rings := tset s.rings i x }
def groupOf (s : State) (i : Nat) : Group := tget .none s.groups i
def setGroup (s : State) (i : Nat) (x : Group) : State := { s with groups := tset s.groups i x }
def opOf (s : State) (i : Nat) : Option Operator := tfind s.ops i
def setOp (s : State) (i : Nat) (x : Operator) : State := { s with ops := tset s.ops i x }
def modOp (s : State) (i : Nat) (f : Operator → Operator) : State :=
  match opOf s i with
  | some o => setOp s i (f o)
  | none => s
def tensorKey (part tid : Nat) : Nat := part * 0x100000 + tid
def tensorOf (s : State) (part tid : Nat) : Option Tensor := tfind s.tensors (tensorKey part tid)
/-- The entry of a tensor id in the partition's id directory (R404): PRESENT in bit 3, the home die in [1:0]. It is written and cleared on all four dies with the record, and HOME never changes, so it is read off the record. (DEDUCED, log 78.) -/
def directoryEntry (s : State) (part tid : Nat) : Nat := match tensorOf s part tid with | some t => 8 + t.home % 4 | none => 0
/-- The copies of a record are invalid: its home's mask names the dies that hold one (R405). -/
def dropCopies (s : State) (key : Nat) : State :=
  { s with copyMask := tdel s.copyMask key, copies := s.copies.map (fun e => (e.1, if (tget 0 s.copyMask key).testBit e.1 then e.2.filter (fun k => k != key) else e.2)) }
/-- A record at its home takes an update, once no other die holds a copy of it (R405). -/
def setTensor (s : State) (part : Nat) (t : Tensor) : State := { dropCopies s (tensorKey part t.id) with tensors := tset s.tensors (tensorKey part t.id) t }
/-- A die that reads a record homed on another keeps a copy of it among its 8,192, in place of the one it has had longest when they are all used (R405). (DESIGN CHOICE, log 77.) -/
def keepCopy (s : State) (die part tid : Nat) : State :=
  let key := tensorKey part tid
  let l := tget [] s.copies die
  match tensorOf s part tid with
  | none => s
  | some t =>
    if t.home = die || l.contains key then s
    else
      let out := if l.length < 8192 then [] else l.take 1
      let mask := out.foldl (fun m k => tset m k (tget 0 m k ^^^ (tget 0 m k &&& 2 ^ die))) s.copyMask
      { s with copies := tset s.copies die (l.drop out.length ++ [key]), copyMask := tset mask key (tget 0 mask key ||| 2 ^ die) }
def splitOf (s : State) (cluster : Nat) : Nat := tget 2 s.splitCode cluster
/-- The current scratchpad share of a core (R193). -/
def shareOf (s : State) (core : Nat) : Nat := Config.share (splitOf s (core / 8))
/-- A number no operation, task, instance or launch has had before. -/
def takeFresh (s : State) : Nat × State := (s.fresh, { s with fresh := s.fresh + 1 })

/-- Element `i` of a list. -/
def nth {α : Type} (l : List α) (i : Nat) : Option α :=
  match l, i with
  | [], _ => none
  | a :: _, 0 => some a
  | _ :: r, i + 1 => nth r i

/-- The list without its element `i`. -/
def dropNth {α : Type} (l : List α) (i : Nat) : List α :=
  match l, i with
  | [], _ => []
  | _ :: r, 0 => r
  | a :: r, i + 1 => a :: dropNth r i

/-- The list with element `i` replaced. -/
def setNth {α : Type} (l : List α) (i : Nat) (v : α) : List α :=
  match l, i with
  | [], _ => []
  | _ :: r, 0 => v :: r
  | a :: r, i + 1 => a :: setNth r i v

/-- The die of a core, of a cluster. -/
def dieOfCore (c : Nat) : Nat := c / 64
def dieOfCluster (u : Nat) : Nat := u / 8

/-- A µs in cycles of the 940 MHz reference clock (R99). (DESIGN CHOICE, log 6.) -/
def microseconds (n : Nat) : Nat := 940 * n

/-- The arithmetic-clock cycles a die has counted (R173, R438): by each clock it has had, the cycles of the 940 MHz reference clock scaled to it. -/
def arithAt (s : State) (die : Nat) : Nat := let d := tget Die.fresh s.dies die; (d.arith + (s.cycle - d.changed) * d.clock) / 940

/-- Bits [lo + n − 1 : lo] of a number. -/
def bitsOf (v lo n : Nat) : Nat := v / 2 ^ lo % 2 ^ n

/-- A number read as a two's-complement integer of `n` bits. -/
def sextNat (n v : Nat) : Int := if v % 2 ^ n < 2 ^ (n - 1) then (v % 2 ^ n : Int) else (v % 2 ^ n : Int) - 2 ^ n

/-! ### Registers (R9, R10) -/

/-- The physical vector register a name reaches (R10). -/
def physV (c : Ctx) (n : Nat) : Nat := if n < 32 then n else 32 + (n - 32 + c.vrb.toNat) % 32
/-- The physical predicate register a name reaches (R10). -/
def physP (c : Ctx) (n : Nat) : Nat := if n < 8 then n else 8 + (n - 8 + c.prb.toNat) % 8

/-- A scalar register; s0 reads zero (R9). -/
def readS (c : Ctx) (r : SReg) : W64 := if r = 0 then 0 else tget 0 c.s r.toNat
/-- A guard; g0 reads 1 and g1 reads 0 (R9). -/
def readG (c : Ctx) (g : GReg) : Bool := if g = 0 then true else if g = 1 then false else c.g.getLsbD g.toNat
def readV (c : Ctx) (v : VReg) : VWord := tget 0 c.v (physV c v.toNat)
/-- A predicate by name; p0 reads all ones and p1 all zeros (R9). -/
def readP (c : Ctx) (p : PReg) : PWord := if p = 0 then BitVec.allOnes 128 else if p = 1 then 0 else tget 0 c.p (physP c p.toNat)
def readM (c : Ctx) (n : Nat) : W64 := tget 0 c.m n
def readK (c : Ctx) (k : Nat) : Token := if k = 0 then .free else tget .free c.k k
/-- A handle; h0 and h1 are the windows (R187). -/
def readH (c : Ctx) (h : Nat) : Handle :=
  if h = 0 then ⟨.scratch, 0, 0, 0, 0⟩ else if h = 1 then ⟨.cluster, 0, 0, 0, 0⟩ else tget .unbound c.h h
/-- The sixteen guards as MOVG reads them (R81). -/
def guardMask (c : Ctx) : BitVec 16 := (c.g &&& 0xFFFC) ||| 1

def setGuard (g : BitVec 16) (n : Nat) (v : Bool) : BitVec 16 :=
  if v then g ||| BitVec.ofNat 16 (2 ^ n) else g &&& ~~~(BitVec.ofNat 16 (2 ^ n))

/-- Writes a register result into the context; writes to s0, g0, g1, p0 and p1 are discarded (R9). -/
def Ctx.put (c : Ctx) (r : Result) : Ctx :=
  match r with
  | .scalar n v => if n = 0 then c else { c with s := tset c.s n v }
  | .guard n v => if n ≤ 1 then c else { c with g := setGuard c.g n v }
  | .vec n mask v => { c with v := tset c.v n ((tget 0 c.v n &&& ~~~mask) ||| (v &&& mask)) }
  | .pred n mask v => if n ≤ 1 then c else { c with p := tset c.p n ((tget 0 c.p n &&& ~~~mask) ||| (v &&& mask)) }
  | .lc v => { c with lc := v }
  | .ec v => { c with ec := v }
  | .vrb v => { c with vrb := v }
  | .prb v => { c with prb := v }
  | .param n v => { c with m := tset c.m n v }
  | .bytes _ _ => c

/-- The register a result names, by the classes of R53 and physical number (R23, R27). -/
def Result.item (r : Result) : Option (Nat × Nat) :=
  match r with
  | .scalar n _ => some (0, n)
  | .guard n _ => some (1, n)
  | .vec n _ _ => some (2, n)
  | .pred n _ _ => some (3, n)
  | .lc _ => some (6, 0)
  | .ec _ => some (6, 1)
  | .vrb _ => some (6, 2)
  | .prb _ => some (6, 3)
  | .param n _ => some (5, n)
  | .bytes _ _ => none

/-! ### The writeback queue (R17 to R19, R24) -/

/-- The queue the context's bundles use: the handler's in supervisor mode, else the task's (R24). -/
def Ctx.queue (c : Ctx) : List WbEntry := if c.mode then c.hq else c.wq
/-- The bundle count of that queue (R17). -/
def Ctx.now (c : Ctx) : Nat := if c.mode then c.hcount else c.count
def Ctx.setQueue (c : Ctx) (q : List WbEntry) : Ctx := if c.mode then { c with hq := q } else { c with wq := q }
/-- One more bundle issued or skipped (R17). -/
def Ctx.tick (c : Ctx) : Ctx := if c.mode then { c with hcount := c.hcount + 1 } else { c with count := c.count + 1 }
/-- A result of latency `lat` of the bundle being issued enters the queue (R18). -/
def Ctx.push (c : Ctx) (lat : Nat) (r : Result) : Ctx := c.setQueue (c.queue ++ [⟨r, lat, c.now + lat⟩])

/-! ### Scratchpad (R188 to R191) -/

/-- The key of byte `b` of a core's SRAM. -/
def sramKey (core b : Nat) : Nat := core * 0x200000 + b
def granuleKey (core b : Nat) : Nat := core * 16384 + b / 128

/-- A scratchpad byte as a reader of a launch sees it (R191). -/
def readScr (s : State) (core b launch : Nat) : Byte :=
  if tget none s.granules (granuleKey core b) = some launch then cellGet s.sram (sramKey core b) else 0

/-- Writes a scratchpad byte for a launch: a granule of another launch is emptied first (R191). -/
def writeScr (s : State) (core b launch : Nat) (v : Byte) : State :=
  let g := granuleKey core b
  if tget none s.granules g = some launch then { s with sram := cellSet s.sram (sramKey core b) v }
  else
    let base := sramKey core (b / 128 * 128)
    { s with sram := cellSet (s.sram.filter (fun e => e.1 < base || base + 128 ≤ e.1)) (sramKey core b) v,
             granules := tset s.granules g (some launch) }

/-- The number of a location, by which its 32-byte sector and 128-byte line are known. -/
def Loc.num (l : Loc) : Nat :=
  match l with
  | .scr core b => 2 ^ 60 + sramKey core b
  | .mem k => k
  | .comp k => 2 ^ 58 + k
  | .far d t o => 2 ^ 62 + (d * 0x100000 + t) * 2 ^ 52 + o

def sectorOf (l : Loc) : Nat := l.num / 32
def Loc.next (l : Loc) (n : Nat) : Loc :=
  match l with
  | .scr core b => .scr core (b + n)
  | .mem k => .mem (k + n)
  | .comp k => .comp (k + n)
  | .far d t o => .far d t (o + n)

/-- A plain store may write the sector: no live tag names a higher core (R242). -/
def tagAllows (s : State) (core : Nat) (l : Loc) : Bool :=
  match tget none s.tags (sectorOf l) with
  | some t => decide (t ≤ core)
  | none => true

/-- A plain store of one byte to scratchpad by core `c`, under the writer tags (R191, R242). -/
def storeScr (s : State) (c core b launch : Nat) (v : Byte) : State :=
  if tagAllows s c (.scr core b) then
    { writeScr s core b launch v with tags := tset s.tags (sectorOf (.scr core b)) (some c) }
  else s

/-- The sectors covered whole, counted from the first sector boundary (R370). -/
def coveredSectors (n len : Nat) : List Nat :=
  let first := (n + 31) / 32
  let last := (n + len) / 32
  (List.range (last - first)).map (fun i => first + i)

/-- A store of every byte of a sector clears its poison; a partial one leaves it (R370). -/
def clearPoison (s : State) (l : Loc) (len : Nat) : State :=
  { s with poison := (coveredSectors l.num len).foldl (fun p k => if tfind p k = some true then tdel p k else p) s.poison }

/-- Poison of a byte's sector (R370). -/
def poisoned (s : State) (l : Loc) : Bool := tget false s.poison (sectorOf l)

/-- The sectors that a plain store of core `c` covers whole and that no live tag keeps from it (R242, R370). -/
def storedWhole (s : State) (c : Nat) (l : Loc) (len : Nat) : List Nat :=
  (coveredSectors l.num len).filter (fun k => match tget none s.tags k with | some t => decide (t ≤ c) | none => true)

/-- A local store of a bundle or of a transform unit (R21, R292); bytes that are no longer scratchpad are discarded (R194). -/
def storeLocal (s : State) (core off launch : Nat) (data : List Byte) : State :=
  let n := shareOf s core
  let go := (List.range data.length).foldl (fun s i => if off + i < n then storeScr s core core (off + i) launch (data.getD i 0) else s) s
  { go with poison := (storedWhole s core (.scr core off) (min data.length (n - off))).foldl (fun p k => if tfind p k = some true then tdel p k else p) go.poison }

/-- Applies a result to its destination: a register, or the scratchpad for a transform result (R18, R292). -/
def applyResult (s : State) (id : Nat) (r : Result) : State :=
  match r with
  | .bytes off data => storeLocal s (id / 4) off (ctxOf s id).launch data
  | r => modCtx s id (fun c => c.put r)

/-- Writes every queue entry due at or before the count, in the order the producing bundles issued (R19). (DEDUCED, log 8.) -/
def landDue (s : State) (id : Nat) : State :=
  let c := ctxOf s id
  let due := c.queue.filter (fun e => e.due ≤ c.now)
  let rest := c.queue.filter (fun e => !(decide (e.due ≤ c.now)))
  due.foldl (fun s e => applyResult s id e.res) (setCtx s id (c.setQueue rest))

end Sys2Proof.Machine
end

