-- ==== Sys2Proof/Machine/Memory.lean ====
section
/-! DEFINITION. Memory below the handles: the places of the tiers (R200, R202, R305), compressed blocks as the codec reads them (R332 to R334), reading and writing bytes under writer tags and poison (R242, R370), page walks and translations (R198 to R201, R363). -/

namespace Sys2Proof.Machine

/-! ### Places (R200, R305) -/

/-- The key of a byte of a die's memory: space 0 Tarn, 1 HBM4E, 2 LPDDR6, 3 the HBM4E of compressed pages, kept apart from the frames the other pages use. (DESIGN CHOICE, log 37.) -/
def memKey (die space addr : Nat) : Nat := (die * 4 + space) * 2 ^ 38 + addr
/-- The key of a byte of a stack (R200). -/
def stackKey (stack addr : Nat) : Nat := memKey (stack / 2) 1 (stack % 2 * 2 ^ 36 + addr)
/-- The key of a byte of a stack's compressed pages. -/
def runKey (stack addr : Nat) : Nat := memKey (stack / 2) 3 (stack % 2 * 2 ^ 36 + addr)
def keyDie (k : Nat) : Nat := k / 2 ^ 40
def keySpace (k : Nat) : Nat := k / 2 ^ 38 % 4
def keyAddr (k : Nat) : Nat := k % 2 ^ 38
/-- The stack of an HBM4E key, and the address within it. -/
def keyStack (k : Nat) : Nat := keyDie k * 2 + bitsOf (keyAddr k) 36 1
def keyStackAddr (k : Nat) : Nat := keyAddr k % 2 ^ 36

/-- The size of a die's tier space (R200). -/
def tierSize (tier : Nat) : Nat := if tier = 0 then 2 ^ 32 else if tier = 2 then 2 ^ 38 else 2 ^ 37
/-- The slice that owns an address of a tier space (R200). -/
def ownerSlice (die tier addr : Nat) : Nat :=
  if tier = 0 then 8 * die + bitsOf addr 29 3
  else if tier = 2 then 8 * die + bitsOf addr 35 3
  else 4 * (2 * die + bitsOf addr 36 1) + bitsOf addr 34 2
/-- The slice that owns the memory of a key. -/
def keySlice (k : Nat) : Nat := ownerSlice (keyDie k) (keySpace k) (keyAddr k)
/-- The part of a stack share that no leaf may map (R305). -/
def reservedHbm (addr : Nat) : Bool := decide (0x3FA000000 ≤ addr % 2 ^ 34)
/-- The key of reserve entry `n` of a slice (R305). -/
def reserveKey (slice n : Nat) : Nat := stackKey (slice / 4) (slice % 4 * 2 ^ 34 + 0x3FA000000 + 128 * n)

def hasSlice (p : Partition) (slice : Nat) : Bool := p.slices.getLsbD slice
/-- The partition a slice belongs to; 8 when it is free. -/
def partOfSlice (s : State) (slice : Nat) : Nat := ((s.parts.find? (fun e => e.2.live && hasSlice e.2 slice)).map (fun e => e.1)).getD 8
def partOfCore (s : State) (core : Nat) : Nat := partOfSlice s (core / 8)

/-! ### Compressed blocks as the codec reads them (R332 to R334) -/

/-- The marker of a stack, drawn afresh at each module reset (R332). (DESIGN CHOICE, log 18.) -/
def marker (s : State) (stack : Nat) : W64 := Config.freeMarker (s.resets * 8 + stack)

/-- The payload length of a sector code (R333). -/
def codeLength (code : Nat) : Nat := if code = 0 then 0 else if code = 1 then 4 else if code = 2 then 12 else 32

/-- The word `i` of a run of bytes. -/
def wordAt (l : List Byte) (i : Nat) : W32 := BitVec.ofNat 32 (leNat ((l.drop (4 * i)).take 4))
/-- A sector's eight words (R333). -/
def sectorWords (l : List Byte) : List W32 := (List.range 8).map (wordAt l)

/-- The code of a 32-byte sector and its payload: the first that applies (R333). -/
def encodeSector (l : List Byte) : Nat × List Byte :=
  let ws := sectorWords l
  let w0 := ws.headD 0
  if l.all (· == 0) then (0, [])
  else if ws.all (· == w0) then (1, l.take 4)
  else if ws.all (fun w => let d := (w - w0).toInt; decide (-128 ≤ d ∧ d ≤ 127)) then (2, l.take 4 ++ ws.map (fun w => (w - w0).truncate 8))
  else (3, l)

/-- The 32 bytes a payload gives under a code (R333). -/
def decodeSector (code : Nat) (p : List Byte) : List Byte :=
  if code = 0 then List.replicate 32 0
  else if code = 1 then (List.range 32).map (fun i => p.getD (i % 4) 0)
  else if code = 2 then
    let w0 := wordAt p 0
    (List.range 8).flatMap (fun i => leBytes (w0 + (p.getD (4 + i) 0).signExtend 32).toNat 4)
  else p.take 32

/-- Sector `i` of a block. -/
def sectorOfBlock (l : List Byte) (i : Nat) : List Byte := (l.drop (32 * i)).take 32

/-- A 512-byte block encoded: CODES, the payload; or none when the payload exceeds 480 bytes (R333). -/
def encodeBlock (l : List Byte) : Option (Nat × List Byte) :=
  let es := (List.range 16).map (fun i => encodeSector (sectorOfBlock l i))
  let payload := es.flatMap (fun e => e.2)
  if payload.length ≤ 480 then some (es.foldr (fun e a => e.1 + 4 * a) 0, payload) else none

/-- Chunks of a payload (R333). -/
def chunkCount (payload : List Byte) : Nat := (payload.length + 31) / 32

/-- A tail chunk (R332). -/
def tailBytes (codes c lres run : Nat) (ridx : List Nat) (mk : W64) : List Byte :=
  leBytes codes 4 ++ leBytes c 1 ++ leBytes lres 1 ++ [0, 0] ++ leBytes run 4 ++ (List.range 4).flatMap (fun l => leBytes (ridx.getD l 0) 3) ++ leBytes mk.toNat 8

/-- The fields of a tail chunk (R332). -/
structure Tail where
  codes : Nat
  chunks : Nat
  lres : Nat
  run : Nat
  ridx : List Nat
  mark : W64
  clean : Bool
  deriving DecidableEq, Repr

def parseTail (l : List Byte) : Tail :=
  let at' (o n : Nat) : Nat := leNat ((l.drop o).take n)
  { codes := at' 0 4, chunks := at' 4 1 % 32, lres := at' 5 1 % 16, run := at' 8 4 % 2 ^ 31, ridx := (List.range 4).map (fun i => at' (12 + 3 * i) 3),
    mark := BitVec.ofNat 64 (at' 24 8), clean := at' 4 1 < 16 && at' 5 1 < 16 && at' 6 2 = 0 && at' 8 4 < 2 ^ 31 }

/-- Code of sector `i` (R332). -/
def codeOf (codes i : Nat) : Nat := codes / 4 ^ i % 4
/-- Where the payload of sector `i` begins (R334). -/
def payloadStart (codes i : Nat) : Nat := ((List.range i).map (fun t => codeLength (codeOf codes t))).sum

/-- The tail of the block at key `k` (a multiple of 512). -/
def tailAt (s : State) (k : Nat) : Tail := parseTail (cellsGet s.mem (k + 480) 32)
/-- The block at key `k` is compressed: its marker is its stack's (R334). -/
def isCompressed (s : State) (k : Nat) : Bool := (tailAt s k).mark == marker s (keyStack k)
/-- The block decodes: it is raw, or its tail is consistent (R297, R362). -/
def blockDecodes (s : State) (k : Nat) : Bool :=
  if isCompressed s k then
    let t := tailAt s k
    t.clean && decide (t.chunks ≤ 15) && decide (payloadStart t.codes 16 ≤ 32 * t.chunks) && decide (t.run * 32 + 32 * t.chunks ≤ 2 ^ 36)
  else true

/-- The 32 bytes of sector `i` of the block at `k`, as the codec reads them from the stack (R334). -/
def readSector (s : State) (k i : Nat) : List Byte :=
  if isCompressed s k then
    let t := tailAt s k
    if t.lres.testBit (i / 4) then cellsGet s.mem (reserveKey (keySlice k) (t.ridx.getD (i / 4) 0) + 32 * (i % 4)) 32
    else
      let n := codeLength (codeOf t.codes i)
      decodeSector (codeOf t.codes i) (cellsGet s.mem (runKey (keyStack k) (32 * t.run + payloadStart t.codes i)) n)
  else
    let raw := cellsGet s.mem (k + 32 * i) 32
    if i = 15 && (tget .fresh s.bases (keyStack k)).inverted.contains k then raw.take 24 ++ (raw.drop 24).map (~~~ ·) else raw

/-- A byte of a tier-3 page: from its dirty line, else through the codec (R205, R334). -/
def readComp (s : State) (k : Nat) : Byte :=
  match tfind s.dirty3 (k / 128) with
  | some l => l.getD (k % 128) 0
  | none => (readSector s (k / 512 * 512) (k % 512 / 32)).getD (k % 32) 0

/-- The 128 bytes of a tier-3 line. -/
def readLine3 (s : State) (line : Nat) : List Byte :=
  match tfind s.dirty3 line with
  | some l => l
  | none => (List.range 4).flatMap (fun j => readSector s (line * 128 / 512 * 512) (line % 4 * 4 + j))

/-! ### Bytes of a location -/

/-- A byte as a reader of launch `launch` finds it at its home. Bytes of other devices come from outside. (DEDUCED, log 12.) -/
def readLoc (s : State) (launch : Nat) (l : Loc) : Byte :=
  match l with
  | .scr core b => readScr s core b launch
  | .mem k => cellGet s.mem k
  | .comp k => readComp s k
  | .far _ _ _ => 0

/-- Writes a byte at its home, whatever the tags (R224, R242). A tier-3 line becomes dirty in L2 (R336). (DEDUCED, log 12.) -/
def writeLoc (s : State) (launch : Nat) (l : Loc) (b : Byte) : State :=
  match l with
  | .scr core k => writeScr s core k launch b
  | .mem k => { s with mem := cellSet s.mem k b }
  | .comp k => { s with dirty3 := tset s.dirty3 (k / 128) (setNth (readLine3 s (k / 128)) (k % 128) b) }
  | .far _ _ _ => s

/-- `n` bytes from a location on. -/
def readLocs (s : State) (launch : Nat) (l : Loc) (n : Nat) : List Byte := (List.range n).map (fun i => readLoc s launch (l.next i))

/-- Writes bytes from a location on, whatever the tags; whole sectors lose their poison. -/
def writeLocs (s : State) (launch : Nat) (l : Loc) (data : List Byte) : State :=
  let go := (List.range data.length).foldl (fun s i => writeLoc s launch (l.next i) (data.getD i 0)) s
  clearPoison go l data.length

/-- One byte of a plain store by core `c` (R242). -/
def storeByte (s : State) (c launch : Nat) (l : Loc) (b : Byte) : State :=
  if tagAllows s c l then { writeLoc s launch l b with tags := tset s.tags (sectorOf l) (some c) } else s

/-- A plain store by core `c` (R242), sector by sector; a sector stored whole loses its poison (R370). -/
def plainStore (s : State) (c launch : Nat) (l : Loc) (data : List Byte) : State :=
  let clear := storedWhole s c l data.length
  let go := (List.range data.length).foldl (fun s i => storeByte s c launch (l.next i) (data.getD i 0)) s
  { go with poison := clear.foldl (fun p k => if tfind p k = some true then tdel p k else p) go.poison }

/-- The bytes of segments, in order. -/
def readSegs (s : State) (launch : Nat) (segs : List Seg) : List Byte := segs.flatMap (fun g => readLocs s launch g.loc g.len)

/-- Lays bytes out over segments, in order, with a store for each. -/
def overSegs (store : State → Loc → List Byte → State) (s : State) (segs : List Seg) (data : List Byte) : State :=
  match segs with
  | [] => s
  | g :: r => overSegs store (store s g.loc (data.take g.len)) r (data.drop g.len)

def storeSegs (s : State) (c launch : Nat) (segs : List Seg) (data : List Byte) : State := overSegs (fun s l d => plainStore s c launch l d) s segs data
def writeSegs (s : State) (launch : Nat) (segs : List Seg) (data : List Byte) : State := overSegs (fun s l d => writeLocs s launch l d) s segs data

/-- The first offset within the segments whose byte has a property. -/
def findByte (p : Loc → Bool) (segs : List Seg) : Option Nat :=
  match segs with
  | [] => none
  | g :: r =>
    match (List.range g.len).find? (fun i => p (g.loc.next i)) with
    | some i => some i
    | none => (findByte p r).map (g.len + ·)

/-- The first offset within the segments whose byte is poisoned. -/
def firstPoison (s : State) (segs : List Seg) : Option Nat := findByte (poisoned s) segs

def Loc.isFar (l : Loc) : Bool :=
  match l with
  | .far _ _ _ => true
  | _ => false

/-! ### Page walks (R198, R199, R201) -/

/-- A leaf found by a walk, where it stands, and the page it maps. -/
structure Leaf where
  word : Nat
  key : Nat
  base : Nat
  size : Nat
  deriving DecidableEq, Repr

def Leaf.tier (l : Leaf) : Nat := bitsOf l.word 2 2
def Leaf.home (l : Leaf) : Nat := bitsOf l.word 4 2
def Leaf.frame (l : Leaf) : Nat := bitsOf l.word 16 36 * 65536
def Leaf.bit (l : Leaf) (i : Nat) : Bool := l.word.testBit i

/-- A failed walk: its cause and the level (R201, R362). -/
structure WalkFail where
  cause : Nat
  level : Nat
  deriving DecidableEq, Repr

/-- An 8-byte entry of memory. -/
def mem64 (s : State) (k : Nat) : Nat := leNat (cellsGet s.mem k 8)

/-- The checks of a leaf's own fields and its frame (R199, R201, R305). -/
def leafOk (p : Partition) (l : Leaf) : Bool :=
  bitsOf l.word 52 12 = 0 && bitsOf l.word 13 3 = 0 && l.frame % l.size = 0 && decide (l.frame + l.size ≤ tierSize l.tier)
  && hasSlice p (ownerSlice l.home l.tier l.frame) && hasSlice p (ownerSlice l.home l.tier (l.frame + l.size - 1))
  && !((l.tier = 1 || l.tier = 3) && (reservedHbm (l.frame + l.size - 1) || reservedHbm l.frame))

/-- A table of a size lies whole in the stack's memory, in slices of the partition (R199 to R201). -/
def tableIn (p : Partition) (stack addr size : Nat) : Bool :=
  decide (addr + size ≤ 2 ^ 36) && hasSlice p (4 * stack + bitsOf addr 34 2) && hasSlice p (4 * stack + bitsOf (addr + size - 1) 34 2)

/-- The checks of a table entry, whose table has a size (R199, R201). -/
def tableOk (p : Partition) (w size : Nat) : Bool :=
  bitsOf w 52 12 = 0 && bitsOf w 36 16 = 0 && bitsOf w 7 1 = 0 && bitsOf w 2 2 = 0
  && tableIn p (2 * bitsOf w 4 2 + bitsOf w 6 1) (bitsOf w 8 28 * 256) size

/-- The levels of a walk: shift and index bits (R198). -/
def walkLevels : List (Nat × Nat × Nat) := [(0, 39, 13), (1, 30, 9), (2, 21, 9), (3, 16, 5)]

/-- The size of the table that the first of the levels left indexes (R198). -/
def tableSize (levels : List (Nat × Nat × Nat)) : Nat := match levels with | (_, _, n) :: _ => 8 * 2 ^ n | [] => 0

/-- A walk of a partition's page table from table key `k` over the levels left (R198, R199, R201). -/
def walkFrom (s : State) (p : Partition) (va : Nat) (levels : List (Nat × Nat × Nat)) (k : Nat) : Except WalkFail Leaf :=
  match levels with
  | [] => .error ⟨0x21, 3⟩
  | (lv, sh, n) :: rest =>
    let ek := k + 8 * bitsOf va sh n
    let w := mem64 s ek
    if poisoned s (.mem ek) then .error ⟨0x2C, lv⟩
    else if !w.testBit 0 then .error ⟨0x20, lv⟩
    else if w.testBit 1 then
      let l : Leaf := ⟨w, ek, va / 2 ^ sh * 2 ^ sh, 2 ^ sh⟩
      if lv = 0 || !leafOk p l then .error ⟨0x21, lv⟩ else .ok l
    else if lv = 3 || !tableOk p w (tableSize rest) then .error ⟨0x21, lv⟩
    else walkFrom s p va rest (stackKey (2 * bitsOf w 4 2 + bitsOf w 6 1) (bitsOf w 8 28 * 256))

/-- The walk of a virtual address of a partition (R198); with the table pointer withdrawn it fails with ROOT_INVALID. -/
def walk (s : State) (part va : Nat) : Except WalkFail Leaf :=
  let p := partOf s part
  match p.root with
  | none => .error ⟨0x2E, 0⟩
  | some (stack, addr) =>
    if va ≥ 2 ^ 52 then .error ⟨0x20, 0⟩
    else if !tableIn p stack addr (tableSize walkLevels) then .error ⟨0x21, 0⟩
    else walkFrom s p va walkLevels (stackKey stack addr)

/-- The leaf allows the access: 1 read, 2 write, 3 both, 4 execute (R201). -/
def leafAllows (l : Leaf) (need : Nat) : Bool :=
  (!need.testBit 0 || l.bit 6) && (!need.testBit 1 || l.bit 7) && (!need.testBit 2 || l.bit 8)

/-- The page's place: FRAME plus the offset in the page (R199). -/
def leafLoc (l : Leaf) (va : Nat) : Loc :=
  let k := memKey l.home l.tier (l.frame + va % l.size)
  if l.tier = 3 then .comp k else .mem k

/-- A unit retired in service that the access reaches (R362): a tier of a slice, a Tarn bank, a pseudo-channel, an LPDDR6 channel. (DEDUCED, log 66.) -/
def retiredCause (s : State) (l : Leaf) (va : Nat) : Option Nat :=
  let a := l.frame + va % l.size
  let slice := ownerSlice l.home l.tier a
  if s.retired.contains (0x22, slice * 4 + l.tier) then some 0x22
  else if l.tier = 0 then (if s.retired.contains (0x37, (l.home * 64 + bitsOf a 26 6) * 16 + bitsOf a 7 4) then some 0x37 else none)
  else if l.tier = 2 then (if s.retired.contains (0x39, slice) then some 0x39 else none)
  else if s.retired.contains (0x38, (2 * l.home + bitsOf a 36 1) * 64 + 16 * bitsOf a 34 2 + bitsOf a 8 4) then some 0x38 else none

/-- A page under migration holds a write of number `issued` that came after the seal (R213). -/
def heldPage (s : State) (issued : Nat) (segs : List Seg) : Bool := segs.any (fun g => match g.loc with | .mem k => s.migrations.any (fun m => m.oldKey / 65536 = k / 65536 && decide (m.mark ≤ issued)) | _ => false)

/-- A and D set in the entry, before the access performs (R201). -/
def setAD (s : State) (l : Leaf) (write : Bool) : State × Leaf :=
  let w := l.word ||| (if write then 0x600 else 0x200)
  if w = l.word then (s, l) else ({ s with mem := cellsSet s.mem l.key (leBytes w 8) }, { l with word := w })

/-- How many entries each TLB holds (R363). (DESIGN CHOICE, log 13.) -/
def tlbCap (tlb : Nat) : Nat := if tlb < 32 then 4096 else if tlb < 64 then 512 else 256

/-- The TLB's entry for an address, if it can serve the access: a store needs D set (R363). -/
def tlbFind (s : State) (tlb part va : Nat) (write : Bool) : Option Leaf :=
  ((tget [] s.tlbs tlb).find? (fun e => e.part = part && decide (e.base ≤ va) && decide (va < e.base + e.size) && (!write || e.leaf.getLsbD 10))).map
    (fun e => ⟨e.leaf.toNat, 0, e.base, e.size⟩)

/-- Two addresses of a partition lie in one page: the one the table maps there, else a 64 KiB unit (R364). -/
def samePage (s : State) (part va vb : Nat) : Bool :=
  match walk s part va with
  | .ok l => decide (l.base ≤ vb) && decide (vb < l.base + l.size)
  | .error _ => va / 65536 = vb / 65536

/-- The walk that a miss needs is under way, or it starts behind those that do; a miss to the page of an outstanding walk of its TLB joins that walk (R364). `who` is the operation, kernel or segment copy that missed, 0 for a context. (DEDUCED, log 14.) -/
def startWalk (s : State) (tlb part va need who : Nat) : State :=
  let j : WalkJoin := ⟨va / 65536, need, who⟩
  match s.walks.find? (fun w => w.tlb = tlb && w.part = part && samePage s part w.va va) with
  | some w => if w.joined.contains j then s else { s with walks := s.walks.map (fun x => if x = w then { w with joined := w.joined ++ [j] } else x) }
  | none => { s with walks := s.walks ++ [⟨tlb, part, va, [j]⟩] }

/-- Keeps a translation in a TLB, the oldest leaving when it is full (R363). (DESIGN CHOICE, log 13.) -/
def tlbAdd (s : State) (tlb part : Nat) (l : Leaf) : State :=
  let old := (tget [] s.tlbs tlb).filter (fun e => !(e.part = part && e.base = l.base && e.size = l.size))
  { s with tlbs := tset s.tlbs tlb ((⟨part, l.base, l.size, BitVec.ofNat 64 l.word⟩ :: old).take (tlbCap tlb)) }

/-- Drops a partition's cached translations of a range of addresses from every TLB (R365). -/
def tlbDrop (s : State) (part lo hi : Nat) : State :=
  { s with tlbs := s.tlbs.map (fun e => (e.1, e.2.filter (fun t => !(t.part = part && decide (t.base < hi) && decide (lo < t.base + t.size))))) }

/-- What stands in the way of bytes of a page that a leaf maps: a unit retired in service, or a compressed block that cannot be read (R362); the cause and the first address it concerns. A line dirty in L2 needs no fill. -/
def pieceFault (s : State) (l : Leaf) (va len : Nat) : Option (Nat × Nat) :=
  if s.retired.isEmpty && l.tier != 3 then none
  else
    (va :: (List.range ((va % 128 + len - 1) / 128)).map (fun i => (va / 128 + i + 1) * 128)).findSome? (fun a =>
      match retiredCause s l a with
      | some c => some (c, a)
      | none =>
        match leafLoc l a with
        | .comp k => if (tfind s.dirty3 (k / 128)).isNone && !blockDecodes s (k / 512 * 512) then some (0x33, a) else none
        | _ => none)

/-- No answer yet: the walk of a page is under way (R364). -/
def WalkFail.pending : WalkFail := ⟨0, 0⟩

/-- A leaf that is sound does not allow the access: PAGE_PERMISSION, but of no level of the walk (R201). -/
def WalkFail.denied : WalkFail := ⟨0x21, 4⟩

/-- The translation of bytes of one page for operation, kernel or segment copy `who`: by its TLB's entry, else by a walk, for which the agent waits, and whose failure it then meets (R201, R363, R364). The address of the first failing byte comes with a failure. (DEDUCED, log 14.) -/
def translatePage (s : State) (who tlb part va len need : Nat) : State × Except (WalkFail × Nat) Loc :=
  let write := need.testBit 1
  let use (s : State) (l : Leaf) : State × Except (WalkFail × Nat) Loc :=
    if !leafAllows l need then (s, .error (.denied, va))
    else
      match pieceFault s l va len with
      | some (c, a) => (s, .error (⟨c, 3⟩, a))
      | none => (s, .ok (leafLoc l va))
  match tlbFind s tlb part va write with
  | some l => use s l
  | none =>
    match s.answered.find? (fun a => a.tlb = tlb && a.part = part && a.unit = va / 65536 && a.who = who) with
    | some a => ({ s with answered := s.answered.erase a }, .error (⟨a.cause, a.level⟩, va))
    | none => (startWalk s tlb part va need who, .error (.pending, va))

/-- The pieces of a range of addresses that lie in one 64 KiB page each: address and length. -/
def pagePieces (va len : Nat) : Nat → List (Nat × Nat)
  | 0 => []
  | n + 1 =>
    if len = 0 then []
    else
      let k := min len (65536 - va % 65536)
      (va, k) :: pagePieces (va + k) (len - k) n

/-- The pieces of a range, all of them. -/
def pieces (va len : Nat) : List (Nat × Nat) := pagePieces va len (len / 65536 + 2)

/-- Translates a range of addresses; the first failing byte's address with a failure. -/
def translateRange (s : State) (who tlb part va len need : Nat) : State × Except (WalkFail × Nat) (List Seg) :=
  (pieces va len).foldl (fun acc p =>
    match acc with
    | (s, .error e) => (s, .error e)
    | (s, .ok segs) =>
      match translatePage s who tlb part p.1 p.2 need with
      | (s, .ok l) => (s, .ok (segs ++ [⟨l, p.2⟩]))
      | (s, .error e) => (s, .error e)) (s, .ok [])

/-- Stores bytes at a virtual address of a partition, by walks, whatever the tags, A and D set first (R201); bytes not reached, for want of a leaf or of W, are lost. -/
def storeVa (s : State) (part va : Nat) (data : List Byte) : State :=
  ((pieces va data.length).foldl (fun (acc : State × List Byte) p =>
    match walk acc.1 part p.1 with
    | .ok lf => (if leafAllows lf 2 then writeLocs (setAD acc.1 lf true).1 0 (leafLoc lf p.1) (acc.2.take p.2) else acc.1, acc.2.drop p.2)
    | .error _ => (acc.1, acc.2.drop p.2)) (s, data)).1

/-- A is set for the pages of a range, before it is read by walks (R201). -/
def touchVa (s : State) (part va len : Nat) : State :=
  (pieces va len).foldl (fun s p => match walk s part p.1 with | .ok lf => (setAD s lf false).1 | .error _ => s) s

/-! ### Windows (R187, R189, R195) -/

/-- The extent of a handle's object in bytes (R187); `none` for a tensor whose record is gone. -/
def extentOf (s : State) (core part : Nat) (h : Handle) : Option Nat :=
  match h.kind with
  | .scratch => some (shareOf s core)
  | .cluster => some (8 * shareOf s core)
  | .tensor => if h.dev = 0 then (tensorOf s part h.tid).map (·.extent) else some h.ext
  | .unbound => some 0

/-- The core and byte a cluster-window offset reaches (R189). -/
def clusterLoc (core off : Nat) : Loc := .scr (core / 8 * 8 + off / 128 % 8) (off / 1024 * 128 + off % 128)

/-- The pieces of a cluster-window range that lie in one granule each (R189). -/
def clusterSegs (core off len : Nat) : Nat → List Seg
  | 0 => []
  | n + 1 =>
    if len = 0 then []
    else
      let k := min len (128 - off % 128)
      ⟨clusterLoc core off, k⟩ :: clusterSegs core (off + k) (len - k) n

/-- The segments of a window range (R187, R189). -/
def windowSegs (core : Nat) (k : HKind) (off len : Nat) : List Seg :=
  match k with
  | .cluster => clusterSegs core off len (len / 128 + 2)
  | _ => [⟨.scr core off, len⟩]

end Sys2Proof.Machine
end

