-- ==== Sys2Proof/Machine/Ops.lean ====
section
/-! DEFINITION. The named operations on contexts: taking a trap and returning from one (R24, R25), ending operations and tokens (R272 to R276), ending tasks and operators (R176, R184). -/

namespace Sys2Proof.Machine

/-! ### Traps (R24, R25, R353 to R355) -/

def HKind.code (k : HKind) : Nat :=
  match k with
  | .scratch => 0
  | .cluster => 1
  | .tensor => 2
  | .unbound => 3

/-- A trap with a plain detail. -/
def trapOf (cause detail : Nat) : Trap := ⟨cause, detail, none, false⟩

/-- A trap of an access through handle `h` of slot `slot`: detail h of R362, with FHANDLE and FOFFSET. -/
def accTrap (cause slot h : Nat) (hk : Handle) (off : Nat) : Trap :=
  ⟨cause, slot * 16 + h, some (hk.kind, h, if hk.kind = .tensor then hk.tid else 0, off), false⟩

/-- CAUSE as a trap writes it (R353). -/
def causeWord (t : Trap) : W32 := BitVec.ofNat 32 ((if t.fromToken then 2 ^ 31 else 0) + (t.detail % 2 ^ 24) * 2 ^ 7 + t.cause % 128)

/-- FHANDLE as a trap writes it (R354). -/
def fhandleWord (k : HKind) (h tid : Nat) : W32 := BitVec.ofNat 32 (k.code * 2 ^ 30 + (h % 16) * 2 ^ 20 + tid % 2 ^ 20)

/-- Writes CAUSE and EPC, and FHANDLE and FOFFSET where the trap records an access (R24, R354). -/
def Ctx.record (c : Ctx) (t : Trap) : Ctx :=
  let c := { c with cause := causeWord t, epc := c.pc }
  match t.acc with
  | some (k, h, tid, off) => { c with fhandle := fhandleWord k h tid, foffset := BitVec.ofNat 64 off }
  | none => c

/-- Trap entry in task mode (R24): the queue is frozen, MODE and TRAPQ set, EPC and CAUSE written, and the context continues at TVEC with an empty handler queue. -/
def Ctx.enter (c : Ctx) (t : Trap) : Ctx :=
  { c.record t with trapq := true, mode := true, hq := [], hcount := 0, pc := c.tvec, block := none, splitDone := false, five := false, spawned := none }

/-- A trap that enters no handler halts the context (R25, R355). -/
def Ctx.halt (c : Ctx) (t : Trap) : Ctx := { c.record t with halted := true, block := none }

/-- The first act of ERET (R24): every entry of the handler's queue is written, whatever its due count, in the order of the queue. -/
def flushHandler (s : State) (id : Nat) : State :=
  modCtx ((ctxOf s id).hq.foldl (fun s e => applyResult s id e.res) s) id (fun c => { c with hq := [] })

/-- ERET to the bundle whose trap reported a failed store finds the failure recorded again, so that the bundle traps again; to any other PC the failure is done with (R352, R359). (DESIGN CHOICE, log 88.) -/
def Ctx.retold (c : Ctx) : Ctx :=
  match c.told with
  | none => c
  | some (f, pc) => if c.epc = pc then { c with storeFail := some f, laterFails := c.storeFail.toList ++ c.laterFails, told := none } else { c with told := none }

/-- The end of ERET (R24, R97): what the handler waits for has arrived; its count goes, the frozen queue is the context's again, and the task resumes at EPC. -/
def eretCtx (s : State) (id : Nat) : State :=
  modCtx s id (fun c => { c.retold with hcount := 0, trapq := false, mode := false, pc := c.epc, returning := false })

/-! ### Tokens and engine operations (R272 to R276, R282) -/

/-- The fault record of an engine for handle `h` as it was bound at issue (R275). -/
def EngineOp.faultAt (o : EngineOp) (cause h off : Nat) : FaultRec :=
  let hk := if h = 0 then (⟨.scratch, 0, 0, 0, 0⟩ : Handle) else if h = 1 then ⟨.cluster, 0, 0, 0, 0⟩ else tget .unbound o.h h
  ⟨cause, 0x30 + h, h, hk.kind, if hk.kind = .tensor then hk.tid else 0, off, 0⟩

/-- A fault record with a plain detail. -/
def plainFault (cause detail : Nat) : FaultRec := ⟨cause, detail, 0, .scratch, 0, 0, 0⟩

/-- The fault of an operation whose i32 sum clamped while DBGCTL, as it issued, checked for that: its data effect is complete (R360). -/
def clampFault (o : EngineOp) (clamped : Bool) : Option FaultRec := if clamped && o.dbgctl.getLsbD 15 then some (plainFault 0x1F 0) else none

/-- The record of an operation that ends with a fault: its AUX is the operation's where the fault gives none (R274, R275). -/
def FaultRec.withAux (r : FaultRec) (aux : Nat) : FaultRec := { r with aux := if r.aux = 0 then aux else r.aux }

/-- What a finished operation leaves in its token (R272, R275). -/
def endToken (t : Token) (id : Nat) (fault : Option FaultRec) (aux : Nat) : Token :=
  if t.prod = id && t.st == .pend then
    match fault with
    | some r => ⟨.fault, r.withAux aux, id⟩
    | none => ⟨.done, { FaultRec.none with aux := aux }, id⟩
  else t

def endBind (b : Bind) (id : Nat) (fault : Option FaultRec) (aux : Nat) : Bind :=
  match b with
  | .linked j =>
    if j = id then
      match fault with
      | some r => .fault (r.withAux aux)
      | none => .ok
    else b
  | b => b

def EngineOp.endBinds (o : EngineOp) (id : Nat) (fault : Option FaultRec) (aux : Nat) : EngineOp := { o with ins := o.ins.map (fun b => endBind b id fault aux) }
def Ctx.endTokens (c : Ctx) (id : Nat) (fault : Option FaultRec) (aux : Nat) : Ctx := { c with k := c.k.map (fun e => (e.1, endToken e.2 id fault aux)) }

/-- A token as the save area holds it (R394): state, cause; handle and detail; offset; AUX; the handle's kind and tensor; the link to its producer. -/
def tokenBytes (t : Token) : List Byte :=
  leBytes ((match t.st with | .free => 0 | .pend => 1 | .done => 2 | .fault => 3) + t.fr.cause % 128 * 4) 4 ++ leBytes (t.fr.handle % 16 + t.fr.detail % 2 ^ 24 * 256) 4
  ++ leBytes t.fr.offset 8 ++ leBytes t.fr.aux 4 ++ leBytes (t.fr.kind.code * 2 ^ 30 + t.fr.tid % 2 ^ 20) 4 ++ leBytes t.prod 8

/-- A store into a save area that may not be performed yet, its page being under migration or compressed, is on its way like any other store (R213, R336); slot 4 marks it. -/
def sendSaved (s : State) (x : Saved) (va : Nat) (data : List Byte) : State :=
  match walk s x.part va with
  | .ok lf =>
    let l := leafLoc lf va
    let waits := match l with | .comp _ => true | l => heldPage s s.fresh [⟨l, data.length⟩]
    if !waits then storeVa s x.part va data
    else if !leafAllows lf 2 then s
    else
      let (n, s) := takeFresh (setAD s lf true).1
      { s with remotes := s.remotes ++ [{ id := n, uid := x.ctx.uid, core := x.core, part := x.part, launch := 0, kind := .store data, slot := 4, h := 0, hk := .unbound, off := 0, ranges := [], segs := [⟨l, data.length⟩], since := s.cycle }] }
  | .error _ => s

/-- A saved token that an operation ends: its entry in the save area takes its state and record (R393). -/
def saveToken (s : State) (x : Saved) (e : Nat × Token) (id : Nat) (fault : Option FaultRec) (aux : Nat) : State :=
  if e.2.prod = id && e.2.st == .pend then sendSaved s x (x.area + 0x83E0 + 32 * (e.1 - 1)) (tokenBytes (endToken e.2 id fault aux)) else s

/-- Operation `id` has finished: its token, wherever it is held, and every input bound to it take the outcome (R274, R393). -/
def endOp1 (s : State) (id : Nat) (fault : Option FaultRec) (aux : Nat) : State :=
  let s := s.saved.foldl (fun s x => x.ctx.k.foldl (fun s e => saveToken s x e id fault aux) s) s
  { s with
    ctxs := s.ctxs.map (fun e => (e.1, e.2.endTokens id fault aux)),
    saved := s.saved.map (fun x => { x with ctx := x.ctx.endTokens id fault aux, queued := x.queued.map (fun o => o.endBinds id fault aux) }),
    cores := s.cores.map (fun e => (e.1, { e.2 with queue := e.2.queue.map (fun o => o.endBinds id fault aux) })),
    colls := s.colls.map (fun i => { i with ops := i.ops.map (fun o => o.endBinds id fault aux) }),
    joins := s.joins.map (fun o => o.endBinds id fault aux) }

/-- Every input is bound to an operation that has finished (R274). -/
def EngineOp.ready (o : EngineOp) : Bool := o.ins.all (fun b => match b with | .linked _ => false | _ => true)

/-- The fault a ready operation inherits: that of its first faulted input (R274). -/
def EngineOp.inherited (o : EngineOp) : Option FaultRec :=
  if o.ready then o.ins.findSome? (fun b => match b with | .fault r => some r | _ => none) else none

/-- An operation that has to end without starting: its outcome (R274, R282). -/
def EngineOp.settled (o : EngineOp) : Option (Option FaultRec) :=
  if o.opc = 3 then (if o.ready then some o.inherited else none) else o.inherited.map some

/-- One pass of endings that follow from earlier ones: KJOINs whose inputs have finished, and queued operations that inherit a fault. -/
def settle1 (s : State) : Option State :=
  match s.joins.find? (fun o => o.settled.isSome) with
  | some o => some (endOp1 { s with joins := s.joins.filter (fun x => x.id != o.id) } o.id (o.settled.getD none) 0)
  | none =>
    match s.cores.findSome? (fun e => (e.2.queue.find? (fun o => o.settled.isSome)).map (fun o => (e.1, o))) with
    | some (c, o) => some (endOp1 (modCore s c (fun k => { k with queue := k.queue.filter (fun x => x.id != o.id) })) o.id (o.settled.getD none) 0)
    | none => none

def settle (s : State) : Nat → State
  | 0 => s
  | n + 1 =>
    match settle1 s with
    | some s' => settle s' n
    | none => s

/-- How many operations could still end in a cascade. -/
def waitingOps (s : State) : Nat := s.joins.length + (s.cores.map (fun e => e.2.queue.length)).sum

/-- Operation `id` ends, with everything that follows from it (R274). -/
def endOp (s : State) (id : Nat) (fault : Option FaultRec) (aux : Nat) : State :=
  let s := endOp1 s id fault aux
  settle s (waitingOps s)

/-- The token a context's token register would bind an input to (R274). -/
def bindOf (c : Ctx) (k : Nat) : Bind :=
  let t := readK c k
  if k = 0 then .ok
  else match t.st with
    | .pend => .linked t.prod
    | .fault => .fault t.fr
    | _ => .ok

/-! ### Ending tasks and operators (R176, R184) -/

/-- The blocks of a save area a tile takes: three for an integer tile, two for a float tile (R394). -/
def tileBlocks (t : Tile) : Nat := match t.kind with | .empty => 0 | .float => 2 | .int => 3
/-- The blocks that saving a context would take now (R396). -/
def saveDemand (s : State) (id : Nat) : Nat :=
  let c := ctxOf s id
  let k := coreOf s (id / 4)
  ((k.tiles.filter (fun e => e.2.owner = some c.uid)).map (fun e => tileBlocks e.2)).sum + 2 * (k.pool.filter (fun e => e.uid = c.uid)).length

/-- The context becomes idle and keeps nothing (R9); its tiles and pool entries free, and what is left of its calls on the array, calls without a token that END does not wait for, goes (R176 step 5, R262, R266). (DESIGN CHOICE, log 85.) -/
def dropCtx (s : State) (id : Nat) : State :=
  let c := ctxOf s id
  let s := setCtx s id Ctx.idle
  modCore s (id / 4) (fun k => { k with
    tiles := k.tiles.map (fun e => if e.2.owner = some c.uid then (e.1, Tile.free) else e),
    pool := k.pool.filter (fun e => e.uid != c.uid),
    queue := k.queue.filter (fun o => !((o.opc = 1 || o.opc = 2) && o.uid = c.uid)),
    resumed := k.resumed.filter (fun r => r.op.uid != c.uid),
    mcall := match k.mcall with | some r => if r.op.uid = c.uid then none else some r | none => none })

/-- Members of a group on every device it spans, and the rank of a core of this device (R300, R412). -/
def memberCores (g : Group) : List Nat := (List.range 256).filter (fun c => g.members.getLsbD c)
def groupRanks (g : Group) : Nat := (memberCores g).length * (if g.dmask = 0 then 1 else ((List.range 192).filter (fun d => g.dmask.getLsbD d)).length)
def groupRank (s : State) (g : Group) (core : Nat) : Nat :=
  ((List.range core).filter (fun c => g.members.getLsbD c)).length
    + (if g.dmask = 0 then 0 else ((List.range s.devnum).filter (fun d => g.dmask.getLsbD d)).length * (memberCores g).length)

/-- The operations are taken from their cores' queues. -/
def unqueueAll (s : State) (ops : List EngineOp) : State :=
  { s with cores := s.cores.map (fun e => (e.1, { e.2 with queue := e.2.queue.filter (fun q => !(ops.any (fun o => o.id = q.id))) })) }

/-- Every member's token of an instance takes its outcome. -/
def endAll (s : State) (ops : List EngineOp) (fault : Option FaultRec) (aux : Nat) : State := ops.foldl (fun s o => endOp s o.id fault aux) (unqueueAll s ops)

/-- An instance fails before it completes: the tokens of its members fault, and so will those of the members that have not issued (R302, R362). -/
def loseColl (s : State) (i : CollInst) (f : FaultRec) : State :=
  let all := decide ((memberCores (tget .none s.groups i.group)).length ≤ i.ops.length)
  let s := { s with colls := if all then s.colls.filter (fun x => !(x.group = i.group && x.number = i.number))
                             else s.colls.map (fun x => if x.group = i.group && x.number = i.number then { x with lost := some f } else x) }
  endAll s i.ops (some f) 0

/-- A member's task ends or fails while an instance is incomplete: the instance fails with COLL_ABANDONED and the member's rank (R362). -/
def abandonColls (s : State) (uid : Nat) : State :=
  (s.colls.filter (fun i => i.lost.isNone && i.ops.any (fun o => o.uid = uid))).foldl (fun s i =>
    let core := ((i.ops.find? (fun o => o.uid = uid)).map (·.core)).getD 0
    loseColl s i (plainFault 0x42 (groupRank s (tget .none s.groups i.group) core * 256))) s

/-- An operator fails (R184; a context halted under R25 keeps its state until the operator's completion): its queued records go, its running, saved and Lakebed tasks stop and are discarded, and its stream admits nothing further. -/
def failOp (s : State) (op cause detail : Nat) : State :=
  match opOf s op with
  | none => s
  | some o =>
    if o.phase = .retired || o.fail.isSome then s
    else
      let ids := (s.ctxs.filter (fun e => e.2.running && !e.2.halted && e.2.op = op)).map (fun e => e.1)
      let s := ids.foldl (fun s id => dropCtx (abandonColls s (ctxOf s id).uid) id) s
      let s := (s.saved.filter (fun x => x.ctx.op = op)).foldl (fun s x => abandonColls s x.ctx.uid) s
      let areas := (s.saved.filter (fun x => x.ctx.op = op)).map (·.area)
      let s := if areas.isEmpty then s else modPart s o.part (fun p => { p with saveAreas := p.saveAreas ++ areas })
      let s := { s with
        queues := s.queues.map (fun e => (e.1, e.2.filter (fun t => t.op != op))),
        cores := s.cores.map (fun e => (e.1, { e.2 with queue := e.2.queue.filter (fun o => o.op != op) })),
        saved := s.saved.filter (fun x => x.ctx.op != op),
        ctxs := s.ctxs.map (fun e => if e.2.reserved = some op then (e.1, { e.2 with reserved := none }) else e),
        lakes := s.lakes.map (fun e => (e.1, { e.2 with
          run := match e.2.run with
            | some k => if k.op = op && k.cmd.isNone then none else some k
            | none => none,
          buf := e.2.buf.filter (fun k => !(k.op = op && k.cmd.isNone)) })) }
      let s := setOp s op { o with phase := .ending, fail := some (cause, detail), live := 0 }
      if o.weir.isSome then s
      else modPart s o.part (fun p => { p with streams := tmod .fresh p.streams o.stream (fun x => { x with stopped := true }) })

/-- A trap of a context (R24), or in supervisor mode or without a handler its halt and the failure of its operator (R25, R355). `handler` says whether the segment table gives the handler's segment. -/
def takeTrap (s : State) (id : Nat) (t : Trap) (handler : Bool) : State :=
  let c := ctxOf s id
  if c.mode || !handler then failOp (setCtx s id (c.halt t)) c.op t.cause t.detail
  else setCtx s id (c.enter t)

end Sys2Proof.Machine
end

