-- ==== Sys2Proof/Machine/Weir.lean ====
section
/-! DEFINITION. The Weir's operations: frame pools (R371), mapping pages, references to tensors by state (R197, R373, R384), victims and actions (R378 to R380), recomputes (R383 to R388); page-fault reports and notices (R366, R367). -/

namespace Sys2Proof.Machine

/-! ### Records for the host's rings (R367, R414) -/

/-- A record joins ring `ring` of a partition's host table: 0 completion, 1 fault, 2 error (R414). -/
def enqueueRecord (s : State) (part ring : Nat) (data : List Byte) : State :=
  modPart s part (fun p =>
    match nth p.rings ring with
    | some r => { p with rings := setNth p.rings ring { r with waiting := r.waiting ++ [data] } }
    | none => p)

/-- A fault report or error notice (R367). -/
def noticeBytes (va kind tid seq code unit time : Nat) : List Byte :=
  leBytes (va % 2 ^ 52) 8 ++ leBytes (kind % 16 * 2 ^ 20 + tid % 2 ^ 20) 4 ++ leBytes seq 2 ++ leBytes (code % 128) 1 ++ leBytes unit 1 ++ leBytes time 8 ++ List.replicate 8 0

/-- Posts an error notice to a partition (R367). (DEDUCED, log 53.) -/
def postNotice (s : State) (part code tid unit va : Nat) : State :=
  let p := partOf s part
  let seq := match nth p.rings 2 with | some r => r.written + r.waiting.length | none => 0
  enqueueRecord s part 2 (noticeBytes va 5 tid (seq % 65536) code unit s.cycle)

/-- Adds one to a lifetime counter, by its byte offset in the health block (R440); counters saturate. -/
def countHealth (s : State) (off : Nat) : State :=
  { s with unsaved := tset s.unsaved off (if tget 0 s.unsaved off = BitVec.allOnes 64 then BitVec.allOnes 64 else tget 0 s.unsaved off + 1) }

/-! ### Frame pools (R371) -/

/-- The first frame, as a 64 KiB page number, of a slice's share of a tier, and how many it has (R371). -/
def frameBase (slice tier : Nat) : Nat :=
  (if tier = 0 then memKey (slice / 8) 0 (slice % 8 * 2 ^ 29) else if tier = 2 then memKey (slice / 8) 2 (slice % 8 * 2 ^ 35) else if tier = 3 then runKey (slice / 4) (slice % 4 * 2 ^ 34) else stackKey (slice / 4) (slice % 4 * 2 ^ 34)) / 65536
def frameCap (tier : Nat) : Nat := if tier = 0 then 8192 else if tier = 2 then 524288 else 260608

def usedIn (s : State) (slice tier : Nat) : Nat :=
  let b := frameBase slice tier
  (s.used.filter (fun e => e.2 && decide (b ≤ e.1) && decide (e.1 < b + frameCap tier))).length
/-- Free frames of a slice's pool. -/
def freeFrames (s : State) (slice tier : Nat) : Nat := frameCap tier - usedIn s slice tier

/-- The slices of a partition on a die, rising. -/
def slicesOn (s : State) (part die : Nat) : List Nat := (List.range 8).filterMap (fun i => if hasSlice (partOf s part) (8 * die + i) then some (8 * die + i) else none)
/-- Free frames of a tier over a partition's slices on a die. (DESIGN CHOICE, log 37.) -/
def freeOn (s : State) (part die tier : Nat) : Nat := ((slicesOn s part die).map (fun i => freeFrames s i tier)).sum

/-- The lowest free frame from `b` on; as many tries as there are frames in use find one. -/
def lowestFree (s : State) (b : Nat) : Nat → Nat
  | 0 => b
  | n + 1 => if tget false s.used b then lowestFree s (b + 1) n else b

/-- Takes the lowest free frame of a slice's pool. (DESIGN CHOICE, log 37.) -/
def takeFrame (s : State) (slice tier : Nat) : Option (Nat × State) :=
  if freeFrames s slice tier = 0 then none
  else
    let f := lowestFree s (frameBase slice tier) (s.used.length + 1)
    some (f, { s with used := tset s.used f true })

/-- Takes a frame of a tier from the first of the slices that has one. -/
def takeFrameOf (s : State) (slices : List Nat) (tier : Nat) : Option (Nat × State) := slices.findSome? (fun i => takeFrame s i tier)

/-- Takes `n` frames of a tier from a partition's slices on a die. -/
def takeFrames (s : State) (slices : List Nat) (tier : Nat) : Nat → Option (List Nat × State)
  | 0 => some ([], s)
  | n + 1 =>
    match takeFrameOf s slices tier with
    | some (f, s) => (takeFrames s slices tier n).map (fun r => (f :: r.1, r.2))
    | none => none

def freeFrame (s : State) (f : Nat) : State := { s with used := tdel s.used f }

/-- Zeroes a frame and clears its poison (R373). -/
def zeroFrame (s : State) (f : Nat) : State :=
  { s with mem := s.mem.filter (fun e => e.1 / 65536 != f), poison := s.poison.filter (fun e => e.1 / 2048 != f) }

/-- The first sector of a frame, as poison and tags number it; compressed pages have their own numbers. -/
def frameSector (f : Nat) : Nat := (if keySpace (f * 65536) = 3 then 2 ^ 58 / 32 else 0) + f * 2048

/-- The entries of a sector table that a page takes along to another frame. -/
def moveMarks {α : Type} (t : Tab α) (src dst : Nat) : Tab α :=
  let a := frameSector src
  let b := frameSector dst
  let gone := t.filter (fun e => !(decide (a ≤ e.1) && decide (e.1 < a + 2048)) && !(decide (b ≤ e.1) && decide (e.1 < b + 2048)))
  (t.filter (fun e => decide (a ≤ e.1) && decide (e.1 < a + 2048))).foldl (fun r e => tset r (b + (e.1 - a)) e.2) gone

/-- Copies a frame's bytes to another; its poison and its writer tags go along (R370, R380). -/
def copyFrame (s : State) (src dst : Nat) : State :=
  let s' := zeroFrame s dst
  let cells := (s.mem.filter (fun e => e.1 / 65536 = src)).map (fun e => (e.1 % 65536, e.2))
  { s' with mem := cells.foldl (fun m e => cellSet m (dst * 65536 + e.1) e.2) s'.mem, poison := moveMarks s.poison src dst, tags := moveMarks s.tags src dst }

/-! ### Mapping pages (R198, R199, R380) -/

/-- The table key that the entry of `va` at the next level stands in, a table being made in a tier-1 frame of the slices when the entry is empty. (DESIGN CHOICE, log 38.) -/
def ensureTable (s : State) (slices : List Nat) (va : Nat) (levels : List (Nat × Nat × Nat)) (k : Nat) : Option (Nat × State) :=
  match levels with
  | [] => some (k, s)
  | (_, sh, n) :: rest =>
    let ek := k + 8 * bitsOf va sh n
    let w := mem64 s ek
    if w.testBit 0 then
      if w.testBit 1 then none else ensureTable s slices va rest (stackKey (2 * bitsOf w 4 2 + bitsOf w 6 1) (bitsOf w 8 28 * 256))
    else
      match takeFrameOf s slices 1 with
      | none => none
      | some (f, s) =>
        let k' := f * 65536
        let s := zeroFrame s f
        let e := keyStackAddr k' + keyStack k' % 2 * 2 ^ 6 + keyStack k' / 2 * 2 ^ 4 + 1
        ensureTable { s with mem := cellsSet s.mem ek (leBytes e 8) } slices va rest k'

/-- The key of the L3 entry of a page, its tables made where they are missing. -/
def leafSlot (s : State) (part die va : Nat) : Option (Nat × State) :=
  match (partOf s part).root with
  | none => none
  | some (stack, addr) =>
    (ensureTable s (slicesOn s part die) va [(0, 39, 13), (1, 30, 9), (2, 21, 9)] (stackKey stack addr)).map (fun r => (r.1 + 8 * bitsOf va 16 5, r.2))

/-- A leaf word: the frame, its tier and die, and the bits kept of the entry before, or R, W and X for a new one (R199). (DESIGN CHOICE, log 38.) -/
def leafWord (f tier die old : Nat) : Nat :=
  let keep := if old.testBit 0 then bitsOf old 6 7 % 32 * 64 + bitsOf old 12 1 * 4096 else 0x1C0
  keyAddr (f * 65536) + keep + die * 16 + tier * 4 + 3

/-- Maps the page at `va` to frame `f` of a tier, in one 8-byte store; none where no frame is left for a table it needs. (DESIGN CHOICE, log 38.) -/
def mapPage (s : State) (part die va f tier : Nat) : Option State :=
  (leafSlot s part die va).map (fun r => { r.2 with mem := cellsSet r.2.mem r.1 (leBytes (leafWord f tier die (mem64 r.2 r.1)) 8) })

/-- Makes the page's leaf invalid (R380, drop). -/
def unmapPage (s : State) (part va : Nat) : State :=
  match walk s part va with
  | .ok l => { s with mem := cellsSet s.mem l.key (List.replicate 8 0) }
  | .error _ => s

/-- The pages of a tensor, by address. -/
def Tensor.pages (t : Tensor) : Nat := (t.extent + 65535) / 65536
def pageVas (t : Tensor) : List Nat := (List.range t.pages).map (fun i => t.vbase + i * 65536)

/-- The leaf of each page of a tensor that is mapped. -/
def leavesOf (s : State) (part : Nat) (t : Tensor) : List Leaf := (pageVas t).filterMap (fun va => match walk s part va with | .ok l => some l | .error _ => none)

/-- A tensor is managed when its base is page-aligned and no other tensor's range meets its pages (R372). -/
def managed (s : State) (part : Nat) (t : Tensor) : Bool :=
  t.vbase % 65536 = 0 && (s.tensors.all (fun e =>
    e.1 / 0x100000 != part || e.2.id = t.id || decide (e.2.vbase + e.2.extent ≤ t.vbase) || decide (t.vbase + t.pages * 65536 ≤ e.2.vbase)))

/-- Drops every cached line of a page from the L1s, read-only caches and dirty lines of its home (R213, R380). -/
def dropLines (s : State) (pageKey : Nat) : State :=
  { s with
    cores := s.cores.map (fun e => (e.1, { e.2 with l1 := e.2.l1.filter (fun l => l.1 / 512 % 2 ^ 42 != pageKey / 65536) })),
    ro := s.ro.map (fun e => (e.1, e.2.filter (fun l => l.1 / 512 % 2 ^ 42 != pageKey / 65536))) }

/-- The lines of a page that moves: out of the L1s, and along in the read-only caches, which no move clears (R206, R213, R380). -/
def moveLines (s : State) (src dst : Nat) : State :=
  let base (f : Nat) : Nat := frameSector f / 4
  { s with
    cores := s.cores.map (fun e => (e.1, { e.2 with l1 := e.2.l1.filter (fun l => l.1 / 512 != base src / 512) })),
    ro := s.ro.map (fun e => (e.1, (e.2.filter (fun l => l.1 / 512 = base src / 512)).foldl (fun t l => tset t (base dst + l.1 % 512) l.2)
      (e.2.filter (fun l => l.1 / 512 != base src / 512 && l.1 / 512 != base dst / 512)))),
    roBad := s.roBad.map (fun e => (e.1, e.2.map (fun k => if k / 2048 = base src / 512 then base dst * 4 + k % 2048 else k))) }

/-- The accesses in flight to a page that moves reach its new frame (R213). -/
def moveRemotes (s : State) (src dst : Nat) : State :=
  { s with remotes := s.remotes.map (fun r => { r with segs := r.segs.map (fun g =>
      match g.loc with
      | .mem k => if k / 65536 = src then { g with loc := .mem (dst * 65536 + k % 65536) } else g
      | _ => g) }) }

/-! ### Compressed pages written and freed (R332, R335) -/

/-- The slice that owns a chunk of a stack (R200). -/
def chunkSlice (stack chunk : Nat) : Nat := 4 * stack + chunk * 32 / 2 ^ 34

/-- The slices that leave a partition (R400). -/
def leaving (p : Partition) : W32 := match p.resize with | some (w, _) => p.slices &&& ~~~w | none => 0

/-- The free runs that the block at `k` may take: those in slices of the partition that owns the block, for a run elsewhere would be another partition's memory (R398, R402), and in none that leaves it (R400). (DESIGN CHOICE, log 37.) -/
def runOpen (s : State) (k chunk : Nat) : Bool :=
  let part := partOfSlice s (keySlice k)
  let slice := chunkSlice (keyStack k) chunk
  partOfSlice s slice = part && !(leaving (partOf s part)).getLsbD slice

/-- The oldest free run of exactly `c` chunks that is open to the block, else the front of the shortest longer one, whose remainder stays (R335). -/
def takeRun (may : Nat → Bool) (free : List (Nat × Nat)) (c : Nat) : Option (Nat × List (Nat × Nat)) :=
  match free.find? (fun r => may r.1 && r.2 = c) with
  | some r => some (r.1, free.erase r)
  | none =>
    let longer := free.filter (fun r => may r.1 && decide (c < r.2))
    match longer.foldl (fun (b : Option (Nat × Nat)) r => match b with | none => some r | some x => some (if r.2 < x.2 then r else x)) none with
    | some r => some (r.1, free.map (fun x => if x = r then (r.1 + c, r.2 - c) else x))
    | none => none

/-- A freed run is listed as it is; a full list does not take it, and it waits until the Weir repacks its page (R335). -/
def giveRun (b : Stack) (start len : Nat) : Stack :=
  if len = 0 then b else if 2 ^ 20 ≤ b.free.length then { b with unlisted := b.unlisted ++ [(start, len)] } else { b with free := b.free ++ [(start, len)] }

/-- The page of 2,048 chunks from `lo` on is repacked: the freed runs in it that the list did not take are listed (R335). -/
def relist (b : Stack) (lo : Nat) : Stack :=
  let mine := b.unlisted.filter (fun r => decide (lo ≤ r.1) && decide (r.1 < lo + 2048))
  mine.foldl (fun b r => giveRun b r.1 r.2) { b with unlisted := b.unlisted.filter (fun r => !mine.contains r) }

def baseOf (s : State) (stack : Nat) : Stack := tget .fresh s.bases stack
def setBase (s : State) (stack : Nat) (b : Stack) : State := { s with bases := tset s.bases stack b }

/-- Writes a compressed block: payload to its run, tail to chunk 15 (R332). -/
def putCompressed (s : State) (k run codes : Nat) (payload : List Byte) : State :=
  let st := keyStack k
  let padded := payload ++ List.replicate (32 * chunkCount payload - payload.length) 0
  { s with mem := cellsSet (cellsSet s.mem (runKey st (32 * run)) padded) (k + 480) (tailBytes codes (chunkCount payload) 0 run [] (marker s st)) }

/-- Writes a block raw into its home slot; a last doubleword equal to the marker is stored inverted and the slot listed (R335). -/
def putRaw (s : State) (k : Nat) (data : List Byte) : State :=
  let st := keyStack k
  let b := baseOf s st
  if leNat (data.drop 504) = (marker s st).toNat then
    setBase { s with mem := cellsSet s.mem k (data.take 504 ++ (data.drop 504).map (~~~ ·)) } st { b with inverted := if b.inverted.contains k then b.inverted else b.inverted ++ [k] }
  else setBase { s with mem := cellsSet s.mem k data } st { b with inverted := b.inverted.filter (· != k) }

/-! ### The reserve (R305, R335) -/

/-- Reserve entries of a slice in use. -/
def reserveUsed (s : State) (slice : Nat) : List Nat := (s.reserve.filter (fun r => r.slice = slice)).map (·.entry)

/-- How many entries the reserve of a slice has (R305). -/
def reserveSize : Nat := 524288

/-- The lowest free reserve entry of a slice. -/
def freeReserve (s : State) (slice : Nat) : Nat :=
  let used := reserveUsed s slice
  ((List.range (min (used.length + 1) reserveSize)).find? (fun i => !used.contains i)).getD 0

/-- The tier-3 lines of a slice that are dirty in L2, with the reserve entries it has in use (R336). -/
def lines3 (s : State) (slice : Nat) : Nat := (s.dirty3.filter (fun e => keySlice (e.1 * 128) = slice)).length + (reserveUsed s slice).length

/-- The reserve of a block's slice can take all its four lines, beside the lines that are dirty in L2 (R336). -/
def roomFor (s : State) (k : Nat) : Bool := decide (lines3 s (keySlice k) + 4 ≤ reserveSize)

/-- The last word of raw data could be taken for the stack's marker. -/
def looksMarked (s : State) (k : Nat) (data : List Byte) : Bool := leNat (data.drop 504) = (marker s (keyStack k)).toNat

/-- The inversion table of the stack can take the block (R303, R335). -/
def invertRoom (s : State) (k : Nat) : Bool := let b := baseOf s (keyStack k); b.inverted.contains k || decide (b.inverted.length < 64)

/-- Writes a line into the reserve (step 4): the line's own entry if it has one, else a free one, named in the tail. (DESIGN CHOICE, log 28.) -/
def reserveLine (s : State) (k l : Nat) (bytes : List Byte) : State :=
  let st := keyStack k
  let slice := keySlice k
  let t := tailAt s k
  let n := if t.lres.testBit l then t.ridx.getD l 0 else freeReserve s slice
  let s := { s with mem := cellsSet s.mem (reserveKey slice n) bytes,
                    reserve := if t.lres.testBit l then s.reserve else s.reserve ++ [(⟨slice, n, k / 128 + l⟩ : ReserveUse)] }
  let ridx := (List.range 4).map (fun i => if i = l then n else t.ridx.getD i 0)
  { s with mem := cellsSet s.mem (k + 480) (tailBytes t.codes t.chunks (t.lres ||| 2 ^ l) t.run ridx (marker s st)) }

/-- A block that can neither be raw nor take a run keeps all its lines in the reserve, under a tail of its own. (DESIGN CHOICE, log 28.) -/
def reserveAll (s : State) (k : Nat) (data : List Byte) : State :=
  let st := keyStack k
  let s := { s with mem := cellsSet s.mem (k + 480) (tailBytes 0 0 0 0 [] (marker s st)) }
  let b := baseOf s st
  let s := setBase s st (giveRun { b with inverted := b.inverted.filter (· != k) } (keyStackAddr k / 32) 15)
  (List.range 4).foldl (fun s l => reserveLine s k l ((data.drop (128 * l)).take 128)) s

/-- The block's lines are dirty in L2. -/
def dirtyAll (s : State) (k : Nat) (data : List Byte) : State :=
  (List.range 4).foldl (fun s l => { s with dirty3 := tset s.dirty3 (k / 128 + l) ((data.drop (128 * l)).take 128) }) s

/-- A block without a tail that finds no run, or whose last word cannot be listed: its lines go to the reserve. Where that has no room the block is raw, and one that cannot be raw is kept in L2. (DESIGN CHOICE, log 28.) -/
def spillBlock (s : State) (k : Nat) (data : List Byte) : State :=
  if roomFor s k then reserveAll s k data
  else if looksMarked s k data && !invertRoom s k then dirtyAll s k data
  else putRaw s k data

/-- Writes a block of a page that becomes compressed into its home slot at key `k`: its first 15 chunks become free, and its payload takes a run, or it stays raw; where no run or no place in the inversion table is left, its lines go to the reserve (R333, R335). -/
def compressBlock (s : State) (k : Nat) (data : List Byte) : State :=
  let st := keyStack k
  match encodeBlock data with
  | none => if looksMarked s k data && !invertRoom s k then spillBlock s k data else putRaw s k data
  | some (codes, payload) =>
    let b := giveRun (baseOf s st) (keyStackAddr k / 32) 15
    let c := chunkCount payload
    if c = 0 then putCompressed (setBase s st b) k 0 codes payload
    else
      match takeRun (runOpen s k) b.free c with
      | some (run, free) => putCompressed (setBase s st { b with free := free }) k run codes payload
      | none => spillBlock s k data

/-- The blocks of a frame. -/
def blocksOf (f : Nat) : List Nat := (List.range 128).map (fun i => f * 65536 + 512 * i)

/-- The chunks a raw block would occupy once compressed (R378). -/
def blockChunks (s : State) (k : Nat) : Nat := match encodeBlock (cellsGet s.mem k 512) with | some (_, p) => chunkCount p + 1 | none => 16

/-- The 64 KiB of a tier-3 page as the codec reads them. -/
def page3 (s : State) (f : Nat) : List Byte := (List.range 512).flatMap (fun i => readLine3 s (f * 512 + i))

/-- Frees what a tier-3 page holds: runs, home slots, reserve entries, dirty lines; its unlisted chunks are listed. The frame returns to its pool only when no other block's run lies in it. -/
def freePage3 (s : State) (f : Nat) : State :=
  let st := keyStack (f * 65536)
  let s := (blocksOf f).foldl (fun s k =>
    let b := baseOf s st
    let t := tailAt s k
    let b := { b with inverted := b.inverted.filter (· != k) }
    setBase s st (if isCompressed s k then giveRun (giveRun b t.run t.chunks) (keyStackAddr k / 32 + 15) 1 else giveRun b (keyStackAddr k / 32) 16)) s
  let s := { s with reserve := s.reserve.filter (fun r => r.line / 512 != f), dirty3 := s.dirty3.filter (fun e => e.1 / 512 != f) }
  let lo := keyStackAddr (f * 65536) / 32
  let s := setBase s st (relist (baseOf s st) lo)
  let b := baseOf s st
  let inside := b.free.filter (fun r => decide (lo ≤ r.1) && decide (r.1 + r.2 ≤ lo + 2048))
  if (inside.map (·.2)).sum = 2048 then freeFrame (setBase s st { b with free := b.free.filter (fun r => !(inside.contains r)) }) f else s

/-! ### Victims (R378, R379) -/

/-- A byte of the tensor lies in one of the segments. -/
def tensorMeets (s : State) (part : Nat) (t : Tensor) (segs : List Seg) : Bool :=
  (pageVas t).any (fun va => match walk s part va with
    | .ok l => (match leafLoc l va with | .mem k => segs.any (fun g => match g.loc with | .mem a => a / 65536 = k / 65536 | _ => false) | _ => false)
    | .error _ => false)

/-- A write performed on a byte of a tensor marked incompressible clears the mark (R378). -/
def clearIncomp (s : State) (segs : List Seg) : State :=
  if s.tensors.all (fun e => !e.2.incomp) then s
  else { s with tensors := s.tensors.map (fun e => if e.2.incomp && tensorMeets s (e.1 / 0x100000) e.2 segs then (e.1, { e.2 with incomp := false }) else e) }

/-- The segments that a plain store of core `c` changes (R242). -/
def storedSegs (s : State) (c : Nat) (segs : List Seg) : List Seg := segs.filter (fun g => (List.range g.len).any (fun i => tagAllows s c (g.loc.next i)))

/-- A recipe record (R383). -/
structure Recipe where
  valid : Bool
  clean : Bool
  ktab : Nat
  entry : Nat
  nin : Nat
  bundles : Nat
  cyc : Nat
  ins : List Nat
  param0 : Nat
  param1 : Nat
  out : Nat
  deriving DecidableEq, Repr

/-- The segments of a tensor of the partition at an offset, by walks, for bytes that are read or written; else the cause, and the address of the first byte that is not reached (R201). -/
def tensorPlaces (s : State) (part tid off len need : Nat) : Except (Nat × Nat) (List Seg) :=
  match tensorOf s part tid with
  | none => .error (0x58, 0)
  | some t =>
    if off + len > t.extent then .error (0x24, 0)
    else
      (pieces (t.vbase + off) len).foldl (fun acc p =>
        match acc with
        | .error e => .error e
        | .ok l =>
          match walk s part p.1 with
          | .ok lf => if leafAllows lf need then .ok (l ++ [⟨leafLoc lf p.1, p.2⟩]) else .error (0x21, p.1)
          | .error e => .error (e.cause, p.1)) (.ok [])

/-- The bytes of a tensor of the partition at an offset, by walks; none when a byte is not reached. -/
def tensorBytes (s : State) (part tid off len : Nat) : Option (List Byte) :=
  match tensorPlaces s part tid off len 1 with
  | .ok segs => some (readSegs s 0 segs)
  | .error _ => none

/-- What stands in the way of bytes of a tensor that are mapped: a unit out of service, or a block that the codec cannot read (R362). -/
def unreadable (s : State) (part tid off len : Nat) : Option (Nat × Nat) :=
  (tensorOf s part tid).bind (fun t => (pieces (t.vbase + off) len).findSome? (fun p => match walk s part p.1 with | .ok l => pieceFault s l p.1 p.2 | .error _ => none))

/-- The bytes, or why they cannot be read, poison among the causes, with the address of the page that is not reached. -/
def tensorRead (s : State) (part tid off len : Nat) : Except (Nat × Nat) (List Byte) :=
  match tensorPlaces s part tid off len 1 with
  | .error e => .error e
  | .ok segs =>
    match unreadable s part tid off len with
    | some e => .error e
    | none => if (firstPoison s segs).isSome then .error (0x2D, 0) else .ok (readSegs s 0 segs)

/-- A is set for the pages of bytes of a tensor that are about to be read (R201). -/
def touchTensor (s : State) (part tid off len : Nat) : State := match tensorOf s part tid with | some t => touchVa s part (t.vbase + off) len | none => s

/-- The same for several runs of one length. -/
def touchAll (s : State) (part tid : Nat) (offs : List Nat) (len : Nat) : State := offs.foldl (fun s o => touchTensor s part tid o len) s

/-- Stores bytes into a tensor of the partition, by walks, whatever the tags; nothing where a byte is not reached. -/
def tensorStore (s : State) (part tid off : Nat) (data : List Byte) : State :=
  match tensorOf s part tid with
  | none => s
  | some t => if off + data.length > t.extent then s else storeVa (setTensor s part { t with incomp := t.incomp && data.isEmpty }) part (t.vbase + off) data

def parseRecipe (l : List Byte) : Recipe :=
  let w (o n : Nat) : Nat := leNat ((l.drop o).take n)
  { valid := (w 0 4).testBit 31,
    clean := bitsOf (w 0 4) 20 11 = 0 && bitsOf (w 4 4) 18 14 = 0 && bitsOf (w 8 4) 19 13 = 0 && bitsOf (w 8 4) 13 3 = 0
      && (List.range (min 4 (bitsOf (w 8 4) 16 3))).all (fun i => bitsOf (w (0x10 + 4 * i) 4) 20 12 = 0) && bitsOf (w 0x28 4) 20 12 = 0 && w 0x2C 20 = 0,
    ktab := w 0 4 % 2 ^ 20, entry := w 4 4 % 2 ^ 18, nin := bitsOf (w 8 4) 16 3, bundles := w 8 4 % 2 ^ 13, cyc := w 0xC 4,
    ins := (List.range (bitsOf (w 8 4) 16 3)).map (fun i => w (0x10 + 4 * i) 4 % 2 ^ 20), param0 := w 0x20 4, param1 := w 0x24 4, out := w 0x28 4 % 2 ^ 20 }

def recipeOf (s : State) (part : Nat) (t : Tensor) : Option Recipe :=
  if t.recipe = 0xFFFFFF then none else (tensorBytes s part (partOf s part).recipeTensor (64 * t.recipe) 64).map parseRecipe

/-- The page of a tensor's recipe is about to be read (R201). -/
def touchRecipe (s : State) (part : Nat) (t : Tensor) : State := if t.recipe = 0xFFFFFF then s else touchTensor s part (partOf s part).recipeTensor (64 * t.recipe) 64

/-- The recipe record breaks no rule of R383. -/
def recipeGood (s : State) (part tid : Nat) (r : Recipe) : Bool :=
  r.clean && decide (r.nin ≤ 4) && decide (1 ≤ r.bundles) && decide (r.bundles ≤ 4096) && r.out = tid && r.ins.all (fun i => (tensorOf s part i).isSome)

/-- A candidate with its least allowed cost and action (R378): 1 spill, 2 compress, 3 drop. -/
structure Candidate where
  ten : Tensor
  cost : Nat
  act : Nat
  deriving DecidableEq, Repr

def noneDisabled (w : W32) : Bool := w != 0xFFFFFFFF

/-- The waiter that stands for the requests of other devices, which have no number of their own. -/
def peersWaiter : Nat := 2 ^ 64

/-- A waiter of a completed recompute that has not retried since (R376): a suspended context, a parked kernel or one that has gone on and not come to its access, an operation, an admission, the recompute of a tensor it is an input of, or requests of other devices (R409). -/
def notRetried (s : State) (part tid w : Nat) : Bool :=
  s.ctxs.any (fun c => c.2.running && c.2.uid = w && c.2.block = some (.suspended part tid))
  || s.lakes.any (fun l => l.2.run.any (fun k => k.id = w) || l.2.buf.any (fun k => k.id = w && (match k.parked with | some (b, _, _, _) => b = .suspended part tid | none => false)))
  || s.cores.any (fun c => c.2.queue.any (fun o => o.id = w) || c.2.copies.any (fun r => r.op.id = w))
  || s.streams.any (fun r => r.op.id = w) || s.colls.any (fun i => i.ops.any (fun o => o.id = w))
  || (match opOf s w with | some o => o.phase = .waiting | none => false)
  || s.recomputes.any (fun r => r.id = w && r.failed.isNone)
  || (w = peersWaiter && s.peers.any (fun p => p.wait = .suspended part tid))

/-- Waiter `w` retries its access: the hold on a recompute's output ends for it (R376). -/
def retriedBy (s : State) (w : Nat) : State := if s.retry.any (fun r => r.2.2 = w) then { s with retry := s.retry.filter (fun r => r.2.2 != w) } else s

/-- The pin count of a tensor (R376): its own, and one while a waiter of its last recompute has yet to retry. -/
def pinCount (s : State) (part : Nat) (t : Tensor) : Nat :=
  t.pin + (if s.retry.any (fun r => r.1 = part && r.2.1 = t.id && notRetried s part t.id r.2.2) then 1 else 0)

/-- The tensors that may be considered at all: managed, homed on the die, resident with a page in tier 1, unpinned, with nothing under way on them (R376, R378). -/
def victimsOf (s : State) (part die : Nat) (chosen : List Nat) : List Tensor :=
  (s.tensors.filter (fun e => e.1 / 0x100000 = part)).filterMap (fun e =>
    let t := e.2
    let pages := leavesOf s part t
    if t.home = die && (t.state = 1 || t.state = 2) && pinCount s part t = 0 && !t.busy && !chosen.contains t.id && managed s part t
        && pages.any (fun l => l.tier = 1)
        && !(s.recomputes.any (fun r => r.part = part && r.tid = t.id)) && !(s.acts.any (fun a => a.part = part && a.tid = t.id))
        && !(s.migrations.any (fun m => m.part = part && decide (t.vbase ≤ m.page) && decide (m.page < t.vbase + t.pages * 65536)))
        && !(s.ctxs.any (fun c => c.2.block = some (.suspended part t.id) || c.2.block = some (.held part t.id)))
    then some t else none)

/-- The least allowed cost and its action; none when no action is allowed (R378). `claimed` tier-2 frames are promised to victims already chosen. -/
def costOf (s : State) (part : Nat) (claimed : Nat) (t : Tensor) : Option Candidate :=
  let p := partOf s part
  let n := t.extent
  let pages := leavesOf s part t
  let spill := if noneDisabled p.wcspill && noneDisabled p.wcfill && decide (t.pages + claimed ≤ freeOn s part t.home 2) then some ((p.wcspill.toNat + p.wcfill.toNat) * n, 1) else none
  let comp := if noneDisabled p.wccomp && pages.all (fun l => l.tier = 1) && !t.incomp then some (p.wccomp.toNat * n, 2) else none
  let drop := match recipeOf s part t with
    | some r => if noneDisabled p.wcrecomp && r.valid && recipeGood s part t.id r then some (p.wcrecomp.toNat * r.cyc, 3) else none
    | none => none
  (([spill, comp, drop].filterMap id).foldl (fun (b : Option (Nat × Nat)) c => match b with | none => some c | some x => some (if c.1 < x.1 then c else x)) none).map
    (fun c => ⟨t, c.1, c.2⟩)

def Candidate.key (c : Candidate) : Nat := c.ten.nextuse.toNat * c.ten.extent

/-- The rank order of R378. -/
def Candidate.above (a b : Candidate) : Bool :=
  let x := if a.cost = 0 && b.cost = 0 then a.key else a.key * b.cost
  let y := if a.cost = 0 && b.cost = 0 then b.key else b.key * a.cost
  if a.cost = 0 && b.cost != 0 then true
  else if a.cost != 0 && b.cost = 0 then false
  else if x = y then decide (b.ten.id < a.ten.id) else decide (y < x)

def topCandidate (l : List Candidate) : Option Candidate := l.foldl (fun b c => match b with | none => some c | some x => some (if c.above x then c else x)) none

/-- The compression of a tensor would be abandoned: its blocks would keep more than 15/16 of their chunks (R378). -/
def compressFails (s : State) (part : Nat) (t : Tensor) : Bool :=
  let blocks := (leavesOf s part t).flatMap (fun l => blocksOf (memKey l.home l.tier l.frame / 65536))
  decide (15 * blocks.length < ((blocks.map (blockChunks s)).sum))

/-- Chooses victims until `need` tier-1 frames would be free (R378, R379): the victims in order, or the failure. Only marks and notices of abandoned compressions change the state. (DEDUCED, log 65.) -/
def chooseVictims (s : State) (part die need : Nat) (chosen : List Candidate) (claimed : Nat) : Nat → State × Except Nat (List Candidate)
  | 0 => (s, .error 0x50)
  | n + 1 =>
    let cands := victimsOf s part die (chosen.map (fun c => c.ten.id))
    let s := cands.foldl (fun s t => touchRecipe s part t) s
    match topCandidate (cands.filterMap (costOf s part claimed)) with
    | none => (s, .error (if cands.isEmpty then 0x50 else 0x5F))
    | some c =>
      if c.act = 2 && compressFails s part c.ten then
        chooseVictims (postNotice (setTensor s part { c.ten with incomp := true }) part 0x5A c.ten.id 0 0) part die need chosen claimed n
      else
        let freed := ((leavesOf s part c.ten).filter (fun l => l.tier = 1)).length
        if need ≤ freed then (s, .ok (chosen ++ [c]))
        else chooseVictims s part die (need - freed) (chosen ++ [c]) (if c.act = 1 then claimed + c.ten.pages else claimed) n

/-- The outcome of a reference or an allocation: done, wait, or fail with a cause. -/
inductive RefRes where
  | ok
  | wait (b : Block)
  | fail (cause tid : Nat)
  deriving DecidableEq, Repr

/-- Marks a tensor busy and lists the action (R380 step 1) with the frames it moves the pages to; its translations go. -/
def startAct (s : State) (part : Nat) (t : Tensor) (act dest : Nat) (frames : List Nat) : State :=
  tlbDrop { setTensor s part { t with busy := true } with acts := s.acts ++ [⟨part, t.id, act, dest, frames⟩] } part t.vbase (t.vbase + t.pages * 65536)

/-- Frames of compressed pages on the stacks of a tensor's pages, page by page (R380). -/
def takeFrames3 (s : State) (slices : List Nat) (leaves : List Leaf) : Option (List Nat × State) :=
  match leaves with
  | [] => some ([], s)
  | l :: r =>
    let own := ownerSlice l.home 1 l.frame
    match takeFrameOf s (own :: slices.filter (fun i => i / 4 = own / 4)) 3 with
    | some (f, s) => (takeFrames3 s slices r).map (fun x => (f :: x.1, x.2))
    | none => none

/-- A victim's action begins: a spill takes its tier-2 frames, a compression its frames of compressed pages (R378, R380). A compression that finds none of these is abandoned. (DESIGN CHOICE, log 37.) -/
def startVictim (s : State) (part : Nat) (t : Tensor) (act : Nat) : State :=
  let taken := if act = 1 then takeFrames s (slicesOn s part t.home) 2 t.pages else if act = 2 then takeFrames3 s (slicesOn s part t.home) (leavesOf s part t) else some ([], s)
  match taken with
  | some (fs, s) => startAct s part t act (if act = 1 then 4 else if act = 2 then 3 else 5) fs
  | none => if act = 2 then postNotice (setTensor s part { t with incomp := true }) part 0x5A t.id 0 0 else s

/-- Gives a tensor zeroed frames of a tier and maps its pages (R373); none where the frames, or those of the tables they need, are not there. -/
def mapFresh (s : State) (part : Nat) (t : Tensor) (tier : Nat) : Option State :=
  (takeFrames s (slicesOn s part t.home) tier t.pages).bind (fun r =>
    ((pageVas t).zip r.1).foldl (fun s p => s.bind (fun s => mapPage (zeroFrame s p.2) part t.home p.1 p.2 tier)) (some r.2))

/-- Allocates a managed tensor's frames under R373 and R379: tier 0, then tier 1, then tier 1 with evictions, for which the referrer waits; no eviction starts while a checkpoint runs (R419). The place is the STATE to set. -/
def allocate (s : State) (part : Nat) (t : Tensor) : State × Except RefRes Nat :=
  if t.pages ≤ freeOn s part t.home 0 then
    match mapFresh s part t 0 with
    | some s => (s, .ok 1)
    | none => (s, .error (.fail 0x50 t.id))
  else if t.pages ≤ freeOn s part t.home 1 then
    match mapFresh s part t 1 with
    | some s => (s, .ok 2)
    | none => (s, .error (.fail 0x50 t.id))
  else if s.acts.any (fun a => a.part = part) || (partOf s part).checkpoint then (s, .error (.wait (.held part t.id)))
  else
    match chooseVictims s part t.home (t.pages - freeOn s part t.home 1) [] 0 (2 * s.tensors.length + 2) with
    | (s, .error c) => (s, .error (.fail c t.id))
    | (s, .ok vs) => (vs.foldl (fun s c => startVictim s part ((tensorOf s part c.ten.id).getD c.ten) c.act) s, .error (.wait (.held part t.id)))

/-! ### Recomputes (R384 to R388) -/

/-- PIN goes up or down by one (R376, R377); a count that is only the hold on a recompute's output goes down by ending it. -/
def pinTensor (s : State) (part tid : Nat) (up : Bool) : State :=
  match tensorOf s part tid with
  | some t =>
    if !up && t.pin = 0 then { s with retry := s.retry.filter (fun r => !(r.1 = part && r.2.1 = tid)) }
    else setTensor s part { t with pin := if up then t.pin + 1 else t.pin - 1 }
  | none => s

def setRecompute (s : State) (r : Recompute) : State := { s with recomputes := s.recomputes.map (fun x => if x.part = r.part && x.tid = r.tid then r else x) }
def failRecompute (s : State) (r : Recompute) (cause tid inner : Nat) : State := setRecompute s { r with failed := some (cause, tid, inner) }

/-- A recompute of T begins (R385), unless one is under way; the waiter joins it. -/
def startRecompute (s : State) (part tid depth : Nat) (chain : List Nat) (waiter : Option Nat) : State :=
  let w := match waiter with | some i => [i] | none => []
  match s.recomputes.find? (fun r => r.part = part && r.tid = tid) with
  | some r => setRecompute s { r with waiters := r.waiters ++ w.filter (fun i => !r.waiters.contains i) }
  | none =>
    let (id, s) := takeFresh s
    { s with recomputes := s.recomputes ++ [⟨part, tid, depth, chain, 0, none, 0, none, w, 0, id⟩] }

/-- The cluster mask of a partition's clusters on a die. -/
def dieMask (s : State) (part die : Nat) : Nat := ((slicesOn s part die).map (fun i => 2 ^ i)).sum

/-- Pushes a task record into queue `q` (die × 16 + number) (R172, R173). -/
def pushQueue (s : State) (q : Nat) (t : TaskRec) : State :=
  { s with queues := tset s.queues q (tget [] s.queues q ++ [{ t with cls := t.prio, pushed := arithAt s (q / 16), promoted := false }]) }

def queueCapOf (p : Partition) (q : Nat) : Nat := tget 16384 p.queueCap q
/-- The slices whose queues and contexts take tasks: those of the partition, without those that are leaving it (R400). -/
def taking (p : Partition) : W32 := match p.resize with | some (w, _) => p.slices &&& w | none => p.slices
/-- A queue belongs to the partition that owns its slice (R172). -/
def queueOwned (p : Partition) (q : Nat) : Bool := (taking p).getLsbD (q / 16 * 8 + q % 16 / 2)
def queueRoom (s : State) (p : Partition) (q : Nat) : Bool := queueOwned p q && decide ((tget [] s.queues q).length < queueCapOf p q)

/-- The resolved cluster mask of a task's affinity (R170). -/
def affinityMask (p : Partition) (t : TaskRec) : Nat :=
  let m := if t.affk then (if (taking p).getLsbD (t.aff % 256 / 8) then 2 ^ (t.aff % 256 / 8) else 0) else t.aff &&& (taking p).toNat
  if m = 0 then (taking p).toNat else m
/-- The core a task must run on, if its affinity names one of the partition (R170). -/
def affinityCore (p : Partition) (t : TaskRec) : Option Nat := if t.affk && (taking p).getLsbD (t.aff % 256 / 8) then some (t.aff % 256) else none

def lowestBit (m : Nat) : Nat := ((List.range 256).find? (fun i => m.testBit i)).getD 0

/-- The queue a record goes to first (R172): for one that a context of core `core` pushes, the pusher's die and cluster where its affinity allows; for one the Wellhead pushes, the lowest-numbered die and cluster. -/
def pushTarget (p : Partition) (core : Option Nat) (x : Nat) (t : TaskRec) : Nat :=
  let m := affinityMask p t
  let own := match core with | some c => (List.range 8).any (fun i => m.testBit (dieOfCore c * 8 + i)) | none => false
  let die := if own then dieOfCore (core.getD 0) else lowestBit m / 8
  let c := if own then (core.getD 0) / 8 % 8 else lowestBit (m / 2 ^ (die * 8) % 256)
  die * 16 + 2 * c + x % 2

/-- Pushes a record under R172; none when every queue is full. -/
def pushTask (s : State) (part : Nat) (core : Option Nat) (x : Nat) (t : TaskRec) : Option State :=
  let p := partOf s part
  let q0 := pushTarget p core x t
  ((List.range 16).find? (fun i => queueRoom s p (q0 / 16 * 16 + (q0 + i) % 16))).map (fun i => pushQueue s (q0 / 16 * 16 + (q0 + i) % 16) t)

/-- An operator of the Weir's own for a recipe (R386). -/
def recipeOperator (part : Nat) (t : Tensor) (r : Recipe) (launch : Nat) : Operator :=
  { part := part, stream := 0, phase := .running, bytes := [], kind := false, pchk := false, gvalid := 0, cores := false, prio := 3, tasks := 1,
    entry := BitVec.ofNat 18 r.entry, ktab := r.ktab, affmask := 0, param := r.param1, fv := true, frame := t.id, fstride := 0, group := [], useten := 0,
    useidx := 0, usecnt := 0, args := [], seq := 0, launch := launch, base := [], live := 1, handed := 0, admitted := none, fail := none, weir := some t.id,
    replay := none, bounds := some (r.entry, r.entry + r.bundles) }

/-- A launch number no unretired operator of the partition has (R191). -/
def takeLaunch (s : State) (part : Nat) : Nat × State :=
  let inUse := (s.ops.filter (fun e => e.2.part = part && e.2.phase != .retired)).map (fun e => e.2.launch)
  let start := (partOf s part).launchNext
  let n := ((List.range (inUse.length + 1)).map (fun i => (start + i) % 2 ^ 24)).find? (fun i => !inUse.contains i)
  let l := n.getD start
  (l, modPart { s with granules := s.granules.filter (fun g => !(g.2 = some l && partOfCore s (g.1 / 16384) = part)) } part (fun p => { p with launchNext := (l + 1) % 2 ^ 24 }))

/-- The end of a recompute's preparation: frames, then the task (R385). -/
def launchRecompute (s : State) (r : Recompute) (t : Tensor) (rc : Recipe) : State :=
  match allocate s r.part t with
  | (s, .error (.fail c id)) => failRecompute s r c id 0
  | (s, .error _) => s
  | (s, .ok place) =>
    let (launch, s) := takeLaunch s r.part
    let (id, s) := takeFresh s
    let task : TaskRec := { TaskRec.none with entry := BitVec.ofNat 18 rc.entry, prio := 3, aff := dieMask s r.part t.home, fv := true, ftid := t.id, arg0 := rc.param0, arg1 := rc.param1, op := id }
    match pushTask s r.part none 0 task with
    | some s => setRecompute (setOp s id (recipeOperator r.part t rc launch)) { r with op := some id, place := place, input := rc.nin }
    | none => failRecompute s { r with place := place } 0x65 t.id 0

/-- A recompute waits for that of a tensor, its next input (R385). -/
def waitsFor (s : State) (x : Recompute) (part tid : Nat) : Bool :=
  x.part = part && x.op.isNone && (match (tensorOf s x.part x.tid).bind (recipeOf s x.part) with | some rc => nth rc.ins x.input = some tid | none => false)

/-- The recompute of tensor `a` waits for that of `b`, itself or through others. -/
def waitsThrough (s : State) (part a b : Nat) : Nat → Bool
  | 0 => false
  | n + 1 => s.recomputes.any (fun x => x.tid = a && (waitsFor s x part b || s.recomputes.any (fun y => y.part = part && waitsFor s x part y.tid && waitsThrough s part y.tid b n)))

/-- Input `i` of a recompute (R385): it is pinned first; an absent one is allocated, a dropped one recomputed, and one that an action of the Weir is moving is waited for. An input that may not be referenced fails the recompute as any reference (R372, R373). -/
def stepInput (s : State) (r : Recompute) (i : Nat) : State :=
  match tensorOf s r.part i with
  | none => failRecompute s r 0x55 r.tid 0
  | some ti =>
    if r.pins = r.input then setRecompute (pinTensor s r.part i true) { r with pins := r.pins + 1 }
    else if ti.busy then s
    else if (slicesOn s r.part ti.home).isEmpty then failRecompute s r 0x57 i 0
    else if 6 ≤ ti.state || (ti.state != 1 && ti.state != 2 && !managed s r.part ti) then failRecompute s r 0x56 i 0
    else if ti.state = 5 then
      if (partOf s r.part).wdepth < r.depth + 1 then failRecompute s r 0x5C i 0
      else if r.chain.contains i || i = r.tid || waitsThrough s r.part i r.tid s.recomputes.length then failRecompute s r 0x5E i 0
      else
        match (s.recomputes.find? (fun x => x.part = r.part && x.tid = i)).bind (·.failed) with
        | some (c, ft, inner) => failRecompute s r c ft inner
        | none => startRecompute s r.part i (r.depth + 1) (r.chain ++ [r.tid]) (some r.id)
    else if ti.state = 0 then
      match allocate s r.part ti with
      | (s, .ok place) => setRecompute (setTensor s r.part { ti with state := place }) { r with input := r.input + 1 }
      | (s, .error (.fail c id)) => failRecompute s r c id 0
      | (s, .error _) => s
    else setRecompute { s with retry := s.retry.filter (fun x => x != (r.part, i, r.id)) } { r with input := r.input + 1 }

/-- Takes a recompute one stage further (R385): its checks, its next input, or its launch. -/
def stepRecompute (s : State) (r : Recompute) : State :=
  if r.failed.isSome || r.op.isSome then s
  else
    match tensorOf s r.part r.tid with
    | none => failRecompute s r 0x35 r.tid 0
    | some t =>
      let s := touchRecipe s r.part t
      if (partOf s r.part).wdepth < r.depth then failRecompute s r 0x5C r.tid 0
      else
        match recipeOf s r.part t with
        | none => failRecompute s r 0x5D r.tid 0
        | some rc =>
          if !rc.valid then failRecompute s r 0x5D r.tid 0
          else if !recipeGood s r.part r.tid rc then failRecompute s r 0x55 r.tid 0
          else if r.chain.contains r.tid then failRecompute s r 0x5E r.tid 0
          else
            let s := setTensor s r.part { t with depth := r.depth }
            match nth rc.ins r.input with
            | none => launchRecompute s r { t with depth := r.depth } rc
            | some i => stepInput s r i

/-- One pass over the recomputes, in the order they began. -/
def pumpOnce (s : State) : State :=
  s.recomputes.foldl (fun s r => match s.recomputes.find? (fun x => x.part = r.part && x.tid = r.tid) with | some x => stepRecompute s x | none => s) s

/-- Takes every recompute as far as it goes without waiting (R385). (DEDUCED, log 65.) -/
def pumpRecomputes (s : State) : State := (List.range (11 * (s.recomputes.length + 1))).foldl (fun s _ => pumpOnce s) s

/-! ### References (R197, R373, R384) -/

/-- The spilled copy of a tensor cannot be read: a page of it lies in a channel out of service (R362). (DEDUCED, log 66.) -/
def spillLost (s : State) (part : Nat) (t : Tensor) : Bool :=
  t.state = 4 && !s.retired.isEmpty && (pageVas t).any (fun va => match walk s part va with | .ok l => l.tier = 2 && (retiredCause s l va).isSome | .error _ => false)

/-- A reference to a tensor of this device by a task of operator `op` (R197, R373, R384, R386): it may go on, waits, or fails. `waiter` names an engine operation or an admission that waits. -/
def refTensor (s : State) (part tid op : Nat) (waiter : Option Nat) : State × RefRes :=
  let s := match waiter with | some w => { s with retry := s.retry.filter (fun r => r != (part, tid, w)) } | none => s
  match tensorOf s part tid with
  | none => (s, .fail 0x35 tid)
  | some t =>
    if (slicesOn s part t.home).isEmpty then (s, .fail 0x57 tid)
    else if 6 ≤ t.state then (s, .fail 0x56 tid)
    else if (match opOf s op with | some o => o.weir = some tid && o.part = part | none => false) then (s, .ok)
    else if t.busy then (s, .wait (.held part tid))
    else if t.state = 1 || t.state = 2 then (s, .ok)
    else if !managed s part t then (s, .fail 0x56 tid)
    else if spillLost s part t then (s, .fail 0x59 tid)
    else if t.state = 3 || t.state = 4 then (s, .ok)
    else if t.state = 0 then
      match allocate s part t with
      | (s, .ok place) => (setTensor s part { t with state := place }, .ok)
      | (s, .error r) => (s, r)
    else (pumpRecomputes (startRecompute s part tid 1 [] waiter), .wait (.suspended part tid))

/-- The trap of a failed reference: detail the tensor id (R362). -/
def idTrap (cause tid : Nat) : Trap := trapOf cause (tid % 2 ^ 20)

/-! ### Page-fault service (R366) -/

/-- A fault on a page joins its report or makes one; none when 1,024 are outstanding. -/
def joinReport (s : State) (part va tid kind : Nat) : Option (Nat × State) :=
  let page := va / 65536
  match s.reports.find? (fun r => r.part = part && r.va / 65536 = page) with
  | some r => some (r.seq, { s with reports := s.reports.map (fun x => if x.part = part && x.seq = r.seq then { x with waiters := x.waiters + 1 } else x) })
  | none =>
    if 1024 ≤ (s.reports.filter (fun r => r.part = part)).length then none
    else
      let seq := (partOf s part).reportSeq % 65536
      let s := modPart s part (fun p => { p with reportSeq := p.reportSeq + 1 })
      let s := { s with reports := s.reports ++ [⟨part, seq, va, tid, kind, 1, s.cycle⟩] }
      some (seq, enqueueRecord s part 1 (noticeBytes va kind tid seq 0x20 0 s.cycle))

/-- The page-fault service runs for a partition (R366). -/
def serviced (s : State) (part : Nat) : Bool := (partOf s part).flttmo != 0

end Sys2Proof.Machine
end

