-- ==== Sys2Proof/Machine/Codec.lean ====
section
/-! DEFINITION. Writes to compressed pages: a line merged into its block and placed in a run, raw or in the reserve (R335), lines dirty in L2 (R205, R336), and the row COMPRESSED_LINE_WRITE. -/

namespace Sys2Proof.Machine

/-! ### The write of a line (R335) -/

/-- Every chunk of a range lies in some free run. -/
def chunksFree (free : List (Nat × Nat)) (start n : Nat) : Bool := (List.range n).all (fun i => free.any (fun r => decide (r.1 ≤ start + i) && decide (start + i < r.1 + r.2)))

/-- The free list without the chunks of a range. -/
def takeChunks (free : List (Nat × Nat)) (start n : Nat) : List (Nat × Nat) :=
  free.flatMap (fun r =>
    let before := min r.2 (start - r.1)
    let cut := max (start + n) r.1
    let after := r.1 + r.2 - cut
    if start + n ≤ r.1 || r.1 + r.2 ≤ start then [r] else ([(r.1, before), (cut, after)]).filter (fun x => x.2 != 0))

/-- The 512 bytes of a block as a read returns them (R334), without lines dirty in L2. -/
def blockBytes3 (s : State) (k : Nat) : List Byte := (List.range 16).flatMap (fun i => readSector s k i)

/-- The reserve entries of a block's lines are free again. -/
def dropReserve (s : State) (k : Nat) : State := { s with reserve := s.reserve.filter (fun r => r.line / 4 != k / 512) }

/-- Frees the run of the block as its tail stood before the write. -/
def freeRun (s : State) (k : Nat) (old : Tail) : State := setBase s (keyStack k) (giveRun (baseOf s (keyStack k)) old.run old.chunks)

/-- The write of line `line` (key / 128) of a tier-3 block by the codec (R335). -/
def writeLine3 (s : State) (line : Nat) (bytes : List Byte) : State :=
  let k := line / 4 * 512
  let l := line % 4
  let st := keyStack k
  let was := isCompressed s k
  let old := tailAt s k
  let all := blockBytes3 s k
  let data := all.take (128 * l) ++ bytes ++ all.drop (128 * l + 128)
  let b := baseOf s st
  let home := keyStackAddr k / 32
  let raw (s : State) : State :=
    if looksMarked s k data && !invertRoom s k then (if was then reserveLine s k l bytes else spillBlock s k data)
    else if was then
      let b := baseOf s st
      putRaw (dropReserve (freeRun (setBase s st { b with free := takeChunks b.free home 15 }) k old) k) k data
    else putRaw s k data
  match encodeBlock data with
  | some (codes, payload) =>
    let c := chunkCount payload
    let place : Option (Nat × List (Nat × Nat)) := if c = 0 then some (0, b.free) else takeRun (runOpen s k) b.free c
    match place with
    | some (run, free) =>
      let s := putCompressed (setBase s st { b with free := free, inverted := b.inverted.filter (· != k) }) k run codes payload
      if was then dropReserve (freeRun s k old) k else setBase s st (giveRun (baseOf s st) home 15)
    | none => if was then reserveLine s k l bytes else spillBlock s k data
  | none => if !was || chunksFree b.free home 15 then raw s else reserveLine s k l bytes

/-! ### Lines dirty in L2 (R204, R205, R336) -/

/-- A line dirty in L2 is written back to its block; this never waits (R336). -/
def flushLine3 (s : State) (line : Nat) : State :=
  match tfind s.dirty3 line with
  | some l => writeLine3 { s with dirty3 := tdel s.dirty3 line } line l
  | none => s

/-- The lines a run of bytes of a tier-3 page lies in. -/
def linesOf3 (k len : Nat) : List Nat := (List.range ((k % 128 + len + 127) / 128)).map (fun i => k / 128 + i)

/-- The lines of tier 3 among some bytes that are not dirty in L2 yet. -/
def cleanLines (s : State) (segs : List Seg) : List Nat :=
  (segs.flatMap (fun g => match g.loc with | .comp k => (linesOf3 k g.len).filter (fun l => (tfind s.dirty3 l).isNone) | _ => [])).eraseDups

/-- A slice that some lines lie in, with those among them counted, would hold more than `cap` by a count. -/
def passes (count : Nat → Nat) (cap : Nat) (new : List Nat) : Bool :=
  new.any (fun l => decide (cap < count (keySlice (l * 128)) + (new.filter (fun m => keySlice (m * 128) = keySlice (l * 128))).length))

/-- A write that would take the lines dirty in L2 and the reserve entries of a slice beyond R336 has to wait. (DEDUCED, log 12.) -/
def dirtyFull (s : State) (segs : List Seg) : Bool := passes (lines3 s) reserveSize (cleanLines s segs)

/-- The lines of a slice's L2: eight slices of 1 MiB (R1). -/
def l2Lines : Nat := 65536

/-- A store whose line finds no place in L2 waits until a dirty line of the slice is evicted (R1, R205). (DESIGN CHOICE, log 12.) -/
def l2Full (s : State) (segs : List Seg) : Bool :=
  passes (fun slice => (s.dirty3.filter (fun e => keySlice (e.1 * 128) = slice)).length) l2Lines (cleanLines s segs)

/-- A snoop-flush of the lines of some bytes (R204); other tiers' lines are always up to date at their homes. -/
def snoopFlush (s : State) (segs : List Seg) : State :=
  segs.foldl (fun s g => match g.loc with | .comp k => (linesOf3 k g.len).foldl flushLine3 s | _ => s) s

/-- Bytes written by a Lakebed core at their homes, whatever the tags, through the codec in tier 3 (R242, R319). -/
def lakeWrite (s : State) (segs : List Seg) (data : List Byte) : State :=
  let s := clearIncomp s segs
  overSegs (fun s l d =>
    match l with
    | .comp k =>
      let s := snoopFlush s [⟨l, d.length⟩]
      clearPoison ((linesOf3 k d.length).foldl (fun s line =>
        let old := readLine3 s line
        writeLine3 { s with dirty3 := tdel s.dirty3 line } line ((List.range 128).map (fun i =>
          let a := line * 128 + i
          if k ≤ a && a < k + d.length then d.getD (a - k) 0 else old.getD i 0))) s) l d.length
    | l => writeLocs s 0 l d) s segs data

/-- COMPRESSED_LINE_WRITE (R335): line `idx` of those dirty in L2 is evicted to its block. -/
def execCompressedLineWrite (s : State) : Host.Outcome State Fault Refusal :=
  match nth s.dirty3 s.sel.idx with
  | some (line, _) => .next (flushLine3 s line)
  | none => .next s

end Sys2Proof.Machine
end

