-- ==== Sys2Proof/Machine/Numeric.lean ====
section
/-! DEFINITION. Number formats and rounding (chapter 05): decoding every format to an exact value, exact arithmetic, rounding once into a format, the special values, and the functions of R147. -/

namespace Sys2Proof.Machine

/-- The value of a code: a NaN with its sign and its payload as the fraction of a binary32, NaR, an infinity, or (−1)^neg × m × 2^e with its sign kept for zero. -/
inductive FVal where
  | nan (neg : Bool) (frac : Nat)
  | nar
  | inf (neg : Bool)
  | num (neg : Bool) (m : Nat) (e : Int)
  deriving DecidableEq, Repr

/-- The directed and nearest modes (R112). -/
inductive Rm where
  | rne
  | rtz
  | rup
  | rdn
  deriving DecidableEq, Repr

/-- A rounding-mode field (R41, R55): the codes above 100 and SAT-RNE round as RNE. -/
def rmOf (code : Nat) : Rm := if code = 1 then .rtz else if code = 2 then .rup else if code = 3 then .rdn else .rne

/-- An IEEE-like format: exponent and fraction bits (R104). -/
structure FFmt where
  eb : Nat
  fb : Nat
  deriving DecidableEq, Repr

def FFmt.f32 : FFmt := ⟨8, 23⟩
def FFmt.bf16 : FFmt := ⟨8, 7⟩
def FFmt.f16 : FFmt := ⟨5, 10⟩

/-- The format codes of matrices and conversions: 0 to 14 the narrow formats, then 16 f32, 17 i32, 18 n32 (R248, R294). Integers carry their width and signedness. -/
inductive NFmt where
  | int (w : Nat) (signed : Bool)
  | f4
  | tap (n : Nat)
  | ieee (f : FFmt)
  deriving DecidableEq, Repr

def nfmtOf (code : Nat) : NFmt :=
  match code with
  | 0 => .int 2 true
  | 1 => .int 2 false
  | 2 => .int 4 true
  | 3 => .int 4 false
  | 4 => .int 6 true
  | 5 => .int 6 false
  | 6 => .int 8 true
  | 7 => .int 8 false
  | 8 => .int 16 true
  | 9 => .int 16 false
  | 10 => .f4
  | 11 => .tap 6
  | 12 => .tap 8
  | 13 => .ieee .bf16
  | 14 => .ieee .f16
  | 17 => .int 32 true
  | 18 => .int 32 false
  | _ => .ieee .f32

def NFmt.width (f : NFmt) : Nat :=
  match f with
  | .int w _ => w
  | .f4 => 4
  | .tap n => n
  | .ieee f => 1 + f.eb + f.fb
def NFmt.isInt (f : NFmt) : Bool :=
  match f with
  | .int _ _ => true
  | _ => false

/-! ### Decoding (R104 to R111) -/

/-- Decodes an IEEE code (R104, R105). -/
def FFmt.decode (f : FFmt) (x : Nat) : FVal :=
  let s := x.testBit (f.eb + f.fb)
  let e := x / 2 ^ f.fb % 2 ^ f.eb
  let m := x % 2 ^ f.fb
  let emin : Int := 2 - 2 ^ (f.eb - 1) - f.fb
  if e = 2 ^ f.eb - 1 then (if m = 0 then .inf s else .nan s (m * 2 ^ (23 - f.fb)))
  else if e = 0 then .num s m emin
  else .num s (m + 2 ^ f.fb) (emin + e - 1)

/-- The magnitudes of f4 in halves (R106). -/
def f4Mags : List Nat := [0, 1, 2, 3, 4, 6, 8, 12]

/-- Decodes an f4 code; `xv` stands for code 0b1000 (R106, R107). -/
def decodeF4 (xv : FVal) (c : Nat) : FVal := if c % 16 = 8 then xv else .num (c.testBit 3) (f4Mags.getD (c % 8) 0) (-1)

/-- The length of the run of bits equal to `lead` from bit `i` − 1 down. -/
def runLength (m : Nat) (lead : Bool) : Nat → Nat
  | 0 => 0
  | i + 1 => if m.testBit i == lead then 1 + runLength m lead i else 0

/-- The magnitude of a positive tapered code as (significand, exponent) (R108). -/
def tapMag (n m : Nat) : Nat × Int :=
  let w := n - 1
  let lead := m.testBit (w - 1)
  let run := runLength m lead w
  let k : Int := if lead then (run : Int) - 1 else -(run : Int)
  let left := if run < w then w - run - 1 else 0
  let e : Nat := if 1 ≤ left then (m / 2 ^ (left - 1)) % 2 else 0
  let fw := if 2 ≤ left then left - 1 else 0
  (2 ^ fw + m % 2 ^ fw, 2 * k + e - fw)

/-- Decodes a tapered code (R108). -/
def decodeTap (n c : Nat) : FVal :=
  if c % 2 ^ n = 0 then .num false 0 0
  else if c % 2 ^ n = 2 ^ (n - 1) then .nar
  else
    let neg := c.testBit (n - 1)
    let p := tapMag n (if neg then 2 ^ n - c % 2 ^ n else c % 2 ^ n)
    .num neg p.1 p.2

/-- An integer as a value. -/
def intVal (x : Int) : FVal := .num (decide (x < 0)) x.natAbs 0

/-- Decodes a code of a format for arithmetic, with `xv` for the extra value of f4 (R107, R111). -/
def NFmt.decode (f : NFmt) (xv : FVal) (c : Nat) : FVal :=
  match f with
  | .int w true => intVal (sextNat w c)
  | .int w false => intVal (c % 2 ^ w : Nat)
  | .f4 => decodeF4 xv c
  | .tap n => decodeTap n c
  | .ieee f => f.decode c

def FVal.zero : FVal := .num false 0 0

/-! ### Rounding (R110, R112 to R116) -/

/-- m × 2^e as a multiple of 2^q, rounded by the mode. -/
def roundMag (rm : Rm) (neg : Bool) (m : Nat) (e q : Int) : Nat :=
  if q ≤ e then m * 2 ^ (e - q).toNat
  else
    let d := 2 ^ (q - e).toNat
    let n := m / d
    let r := m % d
    match rm with
    | .rne => if d < 2 * r || (2 * r = d && n % 2 = 1) then n + 1 else n
    | .rtz => n
    | .rup => if r != 0 && !neg then n + 1 else n
    | .rdn => if r != 0 && neg then n + 1 else n

def FFmt.signBit (f : FFmt) (neg : Bool) : Nat := if neg then 2 ^ (f.eb + f.fb) else 0
def FFmt.infCode (f : FFmt) : Nat := (2 ^ f.eb - 1) * 2 ^ f.fb
/-- The default NaN (R83). -/
def FFmt.defaultNan (f : FFmt) : Nat := f.infCode + 2 ^ (f.fb - 1)

/-- Overflow goes to infinity, not to the largest finite value (R82, R114). -/
def overflowsToInf (rm : Rm) (sat neg : Bool) : Bool :=
  match rm with
  | .rne => !sat
  | .rtz => false
  | .rup => !neg
  | .rdn => neg

/-- The magnitude code of m × 2^e rounded by the mode, with no limit above. -/
def FFmt.magCode (f : FFmt) (rm : Rm) (s : Bool) (m : Nat) (e : Int) : Nat :=
  let qmin : Int := 2 - 2 ^ (f.eb - 1) - f.fb
  let q := max (e + Nat.log2 m - f.fb) qmin
  (q - qmin).toNat * 2 ^ f.fb + roundMag rm s m e q

/-- Rounds a value into an IEEE format (R82, R112, R114); true when the result saturated under SAT-RNE. (DEDUCED, log 16.) -/
def FFmt.round (f : FFmt) (rm : Rm) (sat : Bool) (v : FVal) : Nat × Bool :=
  match v with
  | .nan s frac => (f.signBit s + f.infCode + (2 ^ (f.fb - 1) ||| (frac / 2 ^ (23 - f.fb) % 2 ^ f.fb)), false)
  | .nar => (f.defaultNan, false)
  | .inf s => (f.signBit s + f.infCode, false)
  | .num s m e =>
    if m = 0 then (f.signBit s, false)
    else
      let c := f.magCode rm s m e
      if c < f.infCode then (f.signBit s + c, false)
      else if overflowsToInf rm sat s then (f.signBit s + f.infCode, false)
      else (f.signBit s + f.infCode - 1, sat)

/-- The code of a subnormal number. -/
def FFmt.isSubnormal (f : FFmt) (c : Nat) : Bool := (c / 2 ^ f.fb % 2 ^ f.eb = 0) && (c % 2 ^ f.fb != 0)

/-- Compares m × 2^e with m' × 2^e'. -/
def cmpMag (m : Nat) (e : Int) (m' : Nat) (e' : Int) : Ordering :=
  let q := min e e'
  compare (m * 2 ^ (e - q).toNat) (m' * 2 ^ (e' - q).toNat)

/-- Among rising magnitudes, the index chosen for m × 2^e by value; `odd` is the parity the tie avoids (R110, R115). -/
def pickMag (mags : List (Nat × Int)) (rm : Rm) (neg : Bool) (m : Nat) (e : Int) (odd : Nat) : Nat :=
  let i := (mags.filter (fun x => cmpMag x.1 x.2 m e != .gt)).length - 1
  let lo := mags.getD i (0, 0)
  match nth mags (i + 1) with
  | none => i
  | some hi =>
    if cmpMag lo.1 lo.2 m e = .eq then i
    else
      match rm with
      | .rtz => i
      | .rup => if neg then i else i + 1
      | .rdn => if neg then i + 1 else i
      | .rne =>
        let q := min (min lo.2 hi.2) e
        let sum := lo.1 * 2 ^ (lo.2 - q).toNat + hi.1 * 2 ^ (hi.2 - q).toNat
        let x := 2 * m * 2 ^ (e - q).toNat
        if x < sum then i else if sum < x then i + 1 else if i % 2 = odd then i + 1 else i

/-- Rounds into f4 (R114, R115). -/
def roundF4 (rm : Rm) (v : FVal) : Nat × Bool :=
  match v with
  | .nan _ _ => (0, true)
  | .nar => (0, true)
  | .inf s => ((if s then 8 else 0) + 7, true)
  | .num s m e =>
    if cmpMag m e 6 0 = .gt then ((if s then 8 else 0) + 7, true)
    else
      let i := pickMag (f4Mags.map (fun x => (x, (-1 : Int)))) rm s m e 1
      (if i = 0 then 0 else (if s then 8 else 0) + i, false)

/-- The positive values of a tapered format, rising; entry i is code i + 1 (R108). -/
def tapMags (n : Nat) : List (Nat × Int) := (List.range (2 ^ (n - 1) - 1)).map (fun i => tapMag n (i + 1))

/-- Rounds into a tapered format (R110). -/
def roundTap (n : Nat) (rm : Rm) (v : FVal) : Nat × Bool :=
  let top := 2 ^ (n - 1) - 1
  let signed (s : Bool) (c : Nat) : Nat := if s then 2 ^ n - c else c
  match v with
  | .nan _ _ => (2 ^ (n - 1), false)
  | .nar => (2 ^ (n - 1), false)
  | .inf s => (signed s top, true)
  | .num s m e =>
    if m = 0 then (0, false)
    else if cmpMag m e 1 (2 * (n - 2 : Int)) = .gt then (signed s top, true)
    else if cmpMag m e 1 (-(2 * (n - 2 : Int))) = .lt then (signed s 1, false)
    else (signed s (pickMag (tapMags n) rm s m e 0 + 1), false)

/-- The ends of an integer format (R102). -/
def intLo (w : Nat) (signed : Bool) : Int := if signed then -(2 ^ (w - 1)) else 0
def intHi (w : Nat) (signed : Bool) : Int := if signed then 2 ^ (w - 1) - 1 else 2 ^ w - 1

/-- Clamps to an integer format; true when the value changed. -/
def clampInt (w : Nat) (signed : Bool) (x : Int) : Int × Bool :=
  if x < intLo w signed then (intLo w signed, true) else if intHi w signed < x then (intHi w signed, true) else (x, false)

/-- Rounds a float to an integer format: to an integer by the mode, then clamped (R86, R114). -/
def roundInt (w : Nat) (signed : Bool) (rm : Rm) (v : FVal) : Int × Bool :=
  match v with
  | .nan _ _ => (0, true)
  | .nar => (0, true)
  | .inf s => (if s then intLo w signed else intHi w signed, true)
  | .num s m e =>
    let n := roundMag rm s m e 0
    clampInt w signed (if s then -(n : Int) else n)

/-- The code of an integer in `w` bits. -/
def intCode (w : Nat) (x : Int) : Nat := (x % 2 ^ w).toNat

/-- Rounds a float value into a format by the mode (R114): the code, and whether WARN.SAT is set. -/
def NFmt.round (f : NFmt) (rm : Rm) (sat : Bool) (v : FVal) : Nat × Bool :=
  match f with
  | .int w sg => let r := roundInt w sg rm v; (intCode w r.1, r.2)
  | .f4 => roundF4 rm v
  | .tap n => roundTap n rm v
  | .ieee f => f.round rm sat v

/-- An integer value into a narrower integer format: the low bits, or clamped (R116). -/
def narrowInt (w : Nat) (signed sat : Bool) (x : Int) : Nat × Bool :=
  if sat then (let r := clampInt w signed x; (intCode w r.1, r.2)) else (intCode w x, false)

/-- The integer a code of an integer format is. -/
def intOf (w : Nat) (signed : Bool) (c : Nat) : Int := if signed then sextNat w c else (c % 2 ^ w : Nat)

/-! ### Exact arithmetic -/

def FVal.isNan (v : FVal) : Bool :=
  match v with
  | .nan _ _ => true
  | .nar => true
  | _ => false
def FVal.isInf (v : FVal) : Bool :=
  match v with
  | .inf _ => true
  | _ => false
def FVal.neg (v : FVal) : FVal :=
  match v with
  | .nan s f => .nan (!s) f
  | .nar => .nar
  | .inf s => .inf (!s)
  | .num s m e => .num (!s) m e

/-- The exact product; none for 0 × ∞ (R83). -/
def FVal.mul (a b : FVal) : Option FVal :=
  match a, b with
  | .inf s, .inf t => some (.inf (s != t))
  | .inf s, .num t m _ => if m = 0 then none else some (.inf (s != t))
  | .num s m _, .inf t => if m = 0 then none else some (.inf (s != t))
  | .num s m e, .num t n f => some (.num (s != t) (m * n) (e + f))
  | _, _ => none

/-- The signed significand at exponent `q`. -/
def scaled (s : Bool) (m : Nat) (e q : Int) : Int := (if s then -1 else 1) * (m * 2 ^ (e - q).toNat : Nat)

/-- The exact sum; none for ∞ − ∞; `rdn` says what sign an exact zero of opposite terms takes (R82, R83). -/
def FVal.add (rdn : Bool) (a b : FVal) : Option FVal :=
  match a, b with
  | .inf s, .inf t => if s = t then some (.inf s) else none
  | .inf s, .num _ _ _ => some (.inf s)
  | .num _ _ _, .inf t => some (.inf t)
  | .num s m e, .num t n f =>
    let q := min e f
    let x := scaled s m e q + scaled t n f q
    if x = 0 then some (.num (if m = 0 && n = 0 && s = t then s else rdn) 0 0)
    else some (.num (decide (x < 0)) x.natAbs q)
  | _, _ => none

/-- The first NaN of the operands, in order (R83). -/
def firstNan (vs : List FVal) : Option FVal := vs.find? (fun v => v.isNan)

/-- The code of a result rounded once into a format: the first NaN operand in order, quieted; the default NaN for an invalid operation (R82, R83). -/
def FFmt.result (f : FFmt) (rm : Rm) (operands : List FVal) (v : Option FVal) : Nat :=
  match firstNan operands with
  | some n => (f.round .rne false n).1
  | none =>
    match v with
    | some x => (f.round rm false x).1
    | none => f.defaultNan

/-- FTZ: a subnormal code becomes the zero of its sign (R82). -/
def FFmt.flush (f : FFmt) (ftz : Bool) (c : Nat) : Nat := if ftz && f.isSubnormal c then c / 2 ^ (f.eb + f.fb) * 2 ^ (f.eb + f.fb) else c

/-- A result of an element: its code, whether it sets WARN.SAT, and the debug checks it would fire (R360, R362). -/
structure FRes where
  code : Nat
  sat : Bool
  causes : List Nat
  deriving DecidableEq, Repr

def plainRes (c : Nat) : FRes := ⟨c, false, []⟩
def causeIf (b : Bool) (c : Nat) : List Nat := if b then [c] else []

/-- The value of a code is exactly that of `v`. -/
def sameValue (v w : FVal) : Bool :=
  match v, w with
  | .num s m e, .num t n f => (m = 0 && n = 0) || (s = t && cmpMag m e n f == .eq)
  | _, _ => false

/-- The float checks of an exact result and its code in a format (R362): overflow, underflow, inexact. -/
def NFmt.checks (f : NFmt) (rm : Rm) (v : FVal) (code : Nat) : List Nat :=
  match v with
  | .num s m e =>
    if m = 0 then []
    else
      match f with
      | .int _ _ => []
      | .ieee t =>
        causeIf (decide (t.infCode ≤ t.magCode rm s m e)) 0x12 ++ causeIf (decide (code % 2 ^ (t.eb + t.fb) < 2 ^ t.fb)) 0x14
          ++ causeIf (!sameValue (t.decode code) v) 0x15
      | .f4 => causeIf (cmpMag m e 6 0 == .gt) 0x12 ++ causeIf (decide (code % 8 < 2)) 0x14 ++ causeIf (!sameValue (decodeF4 (.num false 0 0) code) v) 0x15
      | .tap n => causeIf (cmpMag m e 1 (2 * (n - 2 : Int)) == .gt) 0x12 ++ causeIf (!sameValue (decodeTap n code) v) 0x15
  | _ => []

/-- The arithmetic of R82: the addend stands last. -/
inductive FOp where
  | add
  | sub
  | mul
  | fma
  deriving DecidableEq, Repr

def FOp.exact (op : FOp) (rdn : Bool) (a b d : FVal) : Option FVal :=
  match op with
  | .add => FVal.add rdn a b
  | .sub => FVal.add rdn a b.neg
  | .mul => FVal.mul a b
  | .fma => (FVal.mul a b).bind (fun p => FVal.add rdn p d)

/-- One arithmetic operation on codes of a format, rounded once (R82, R83, R132). -/
def FFmt.arith (f : FFmt) (op : FOp) (rm : Rm) (ftz : Bool) (ca cb cd : Nat) : FRes :=
  let codes := if op = .fma then [ca, cb, cd] else [ca, cb]
  let vals := codes.map (fun c => f.decode (f.flush ftz c))
  let v := op.exact (rm == .rdn) (vals.getD 0 .zero) (vals.getD 1 .zero) (vals.getD 2 .zero)
  let code := f.flush ftz (f.result rm vals v)
  let nanIn := (firstNan vals).isSome
  ⟨code, false, causeIf (!nanIn && v.isNone) 0x11 ++ (match v with | some x => NFmt.checks (.ieee f) rm x code | none => []) ++ causeIf (codes.any f.isSubnormal) 0x16⟩

/-- Converts a code between formats (R86, R114, R116, R140): an integer into an integer keeps its low bits, unless it is into a narrower one and saturates; FTZ acts on the float ends. -/
def convertCode (src dst : NFmt) (rm : Rm) (sat ftz : Bool) (c : Nat) : FRes :=
  match src, dst with
  | .int w sg, .int w' sg' => let r := narrowInt w' sg' (sat && decide (w' < w)) (intOf w sg c); ⟨r.1, r.2, []⟩
  | src, dst =>
    let den := match src with | .ieee t => t.isSubnormal c | _ => false
    let v := src.decode .zero (match src with | .ieee t => t.flush ftz c | _ => c)
    let r := dst.round rm sat v
    let code := match dst with | .ieee t => t.flush ftz r.1 | _ => r.1
    let nan := match v with | .nan _ _ => true | .nar => true | _ => false
    ⟨code, r.2, NFmt.checks dst rm v code ++ causeIf den 0x16 ++ causeIf (v == .nar) 0x17 ++ causeIf (nan && (dst.isInt || dst == .f4)) 0x1D⟩

/-- The order of two values; none when either is a NaN; −0 equals +0 (R85). -/
def FVal.order (a b : FVal) : Option Ordering :=
  let rank (v : FVal) : Int := match v with | .inf true => -2 | .inf false => 2 | .num s m _ => if m = 0 then 0 else if s then -1 else 1 | _ => 0
  if a.isNan || b.isNan then none
  else
    match a, b with
    | .num s m e, .num t n f => if m != 0 && n != 0 && s = t then some (if s then cmpMag n f m e else cmpMag m e n f) else some (compare (rank a) (rank b))
    | _, _ => some (compare (rank a) (rank b))

def FVal.isNeg (v : FVal) : Bool :=
  match v with
  | .nan s _ => s
  | .nar => false
  | .inf s => s
  | .num s _ _ => s

/-- The lesser or greater of two codes, −0 below +0; the other operand of one NaN; the default NaN of two (R84). -/
def FFmt.minMax (f : FFmt) (wantMax : Bool) (ca cb : Nat) : Nat :=
  let a := f.decode ca
  let b := f.decode cb
  if a.isNan && b.isNan then f.defaultNan
  else if a.isNan then cb
  else if b.isNan then ca
  else
    let less := match FVal.order a b with | some .lt => true | some .eq => a.isNeg && !b.isNeg | _ => false
    if less == wantMax then cb else ca

/-! ### The functions of R147

Their exact values are worked out in fixed point with `fxBits` fraction bits, about 300 of them right, and rounded with the bits below taken as nonzero. -/

def fxBits : Nat := 320
def fxOne : Nat := 2 ^ fxBits

/-- e^z in fixed point for 0 ≤ z < 1, `n` terms from term `k` on. -/
def fxExpTerms (z t k : Nat) : Nat → Nat
  | 0 => 0
  | n + 1 => t + fxExpTerms z (t * z / fxOne / k) (k + 1) n
def fxExp (z : Nat) : Nat := fxExpTerms z fxOne 1 80

/-- artanh y in fixed point for 0 ≤ y ≤ 1/3: the sum of y^(2k + 1) / (2k + 1). -/
def fxAtanhTerms (y2 t k : Nat) : Nat → Nat
  | 0 => 0
  | n + 1 => t / k + fxAtanhTerms y2 (t * y2 / fxOne) (k + 2) n
def fxAtanh (y : Nat) : Nat := fxAtanhTerms (y * y / fxOne) y 1 110

/-- ln 2. -/
def fxLn2 : Nat := 2 * fxAtanh (fxOne / 3)

/-- A positive real known to `fxBits` fraction bits, not exactly: a nonzero bit stands below them. -/
def sticky (neg : Bool) (v : Nat) (e : Int) : FVal := .num neg (2 * v + 1) (e - 1)

/-- m × 2^e in fixed point, its integer part as given: (integer part, fraction) of the magnitude. -/
def fxOf (m : Nat) (e : Int) : Nat := if 0 ≤ e + fxBits then m * 2 ^ (e + fxBits).toNat else m / 2 ^ (-(e + fxBits)).toNat

/-- 2^a. -/
def exp2V (s : Bool) (m : Nat) (e : Int) : FVal :=
  let big := decide (2 ^ 12 ≤ m * 2 ^ e.toNat ∧ 0 ≤ e) || decide (0 < m ∧ 12 ≤ e + Nat.log2 m)
  if big then (if s then .num false 1 (-4096) else .num false 1 4096)
  else
    let x : Int := (if s then -1 else 1) * (fxOf m e : Int)
    let n := x / (fxOne : Int)
    let f := (x % (fxOne : Int)).toNat
    let exact := decide (0 ≤ e) || m % 2 ^ (-e).toNat = 0
    if exact then .num false 1 n else sticky false (fxExp (f * fxLn2 / fxOne)) (n - fxBits)

/-- log2 of a positive number. -/
def log2V (m : Nat) (e : Int) : FVal :=
  let b := Nat.log2 m
  let k : Int := e + b
  if m = 2 ^ b then intVal k
  else
    -- m = 2^b (1 + r); ln (1 + r) = 2 artanh (r / (2 + r))
    let y := (m - 2 ^ b) * fxOne / (m + 2 ^ b)
    let l := 2 * fxAtanh y * fxOne / fxLn2
    let x : Int := k * (fxOne : Int) + l
    if x < 0 then .num true (2 * x.natAbs - 1) (-(fxBits : Int) - 1) else sticky false x.natAbs (-(fxBits : Int))

/-- 1 / (m × 2^e). -/
def rcpV (s : Bool) (m : Nat) (e : Int) : FVal :=
  let k := Nat.log2 m + 64
  let q := 2 ^ k / m
  if 2 ^ k % m = 0 then .num s q (-e - k) else sticky s q (-e - k)

/-- The integer square root of `v`, its bits found from bit `i` − 1 down. -/
def isqrtBits (v r : Nat) : Nat → Nat
  | 0 => r
  | i + 1 => if (r + 2 ^ i) * (r + 2 ^ i) ≤ v then isqrtBits v (r + 2 ^ i) i else isqrtBits v r i

/-- 1 / √(m × 2^e). -/
def rsqV (m : Nat) (e : Int) : FVal :=
  let (m, e) := if e % 2 = 0 then (m, e) else (2 * m, e - 1)
  let k := 2 * (Nat.log2 m + 64)
  let q := 2 ^ k / m
  let r := isqrtBits q 0 (k / 2 + 1)
  if 2 ^ k % m = 0 && r * r = q then .num false r (-(e / 2) - (k / 2 : Nat)) else sticky false r (-(e / 2) - (k / 2 : Nat))

/-- v^(2^n) in fixed point. -/
def fxSquares (v : Nat) : Nat → Nat
  | 0 => v
  | n + 1 => fxSquares (v * v / fxOne) n

/-- tanh of a nonzero number: (1 − t) / (1 + t) with t = e^(−2|a|). -/
def tanhV (s : Bool) (m : Nat) (e : Int) : FVal :=
  if 6 ≤ e + (Nat.log2 m : Int) then sticky s (fxOne - 2 ^ (fxBits - 64)) (-(fxBits : Int))
  else if e + (Nat.log2 m : Int) < -60 then .num s (m * 2 ^ 64 - 1) (e - 64)
  else
    let z := fxOf (2 * m) e / 256
    let t := fxSquares (fxOne * fxOne / fxExp z) 8
    sticky s ((fxOne - t) * fxOne / (fxOne + t)) (-(fxBits : Int))

/-- The functions of R147. -/
inductive TFn where
  | exp2
  | log2
  | rcp
  | rsq
  | tanh
  deriving DecidableEq, Repr

/-- The exact value, or none for an invalid operand (R147). -/
def TFn.value (fn : TFn) (v : FVal) : Option FVal :=
  match fn, v with
  | _, .nan s f => some (.nan s f)
  | _, .nar => none
  | .exp2, .inf s => some (if s then .zero else .inf false)
  | .exp2, .num s m e => some (exp2V s m e)
  | .log2, .inf s => if s then none else some (.inf false)
  | .log2, .num s m e => if m = 0 then some (.inf true) else if s then none else some (log2V m e)
  | .rcp, .inf s => some (.num s 0 0)
  | .rcp, .num s m e => some (if m = 0 then .inf s else rcpV s m e)
  | .rsq, .inf s => if s then none else some .zero
  | .rsq, .num s m e => if m = 0 then some (.inf s) else if s then none else some (rsqV m e)
  | .tanh, .inf s => some (.num s 1 0)
  | .tanh, .num s m e => some (if m = 0 then .num s 0 0 else tanhV s m e)

/-- The function rounded once, by RNE, into the format (R147). -/
def FFmt.fn (f : FFmt) (fn : TFn) (c : Nat) : FRes :=
  let x := f.decode c
  let v := fn.value x
  let code := f.result .rne [x] v
  let zero := match x with | .num _ m _ => m = 0 | _ => false
  ⟨code, false, causeIf (!x.isNan && v.isNone) 0x11 ++ (match v with | some y => NFmt.checks (.ieee f) .rne y code | none => [])
    ++ causeIf (zero && (fn == .rcp || fn == .rsq || fn == .log2)) 0x13 ++ causeIf (f.isSubnormal c) 0x16⟩

end Sys2Proof.Machine
end

