-- ==== Sys2Proof/Machine/Bundle.lean ====
section
/-! DEFINITION. Carrying out one bundle: what a slot answers, the checks of a bundle in their order (R356), the effects of its commit (R14, R15), and how a slot instruction runs, in a bundle being staged or as a bundle of its own. -/

namespace Sys2Proof.Machine

def Slot.num (sl : Slot) : Nat :=
  match sl with
  | .a => 0
  | .b => 1
  | .c => 2
  | .d => 3

/-- A slot that does nothing. -/
def SlotOut.idle (sl : Slot) (opc : Nat) : SlotOut :=
  { slot := sl, opc := opc, active := false, priv := none, reads := [], words := [], writes := [], trap := none, block := none, accs := [], poison := none,
    debug := [], watch := none, stall := false, effects := [] }

/-! ### Segment tables (R167, R169) -/

/-- The address at which a segment table's entry lies on a page that is not present, where the page-fault service runs (R366). -/
def tableMissing (s : State) (part ktab n : Nat) : Option Nat :=
  match tensorRead s part ktab (16 * n) 16 with
  | .error (0x20, va) => if serviced s part then some va else none
  | _ => none

/-- An entry of a segment table: the code tensor, offset and length; or the trap of a fetch (R95, R167, R169), SEGMENT_FETCH with its inner cause where the table cannot be read. LEN above 4096 is taken as a broken entry (0x09), and LEN = 0 as no segment (0x06) whatever its OFFSET. (DESIGN CHOICE, log 70.) -/
def segEntry (s : State) (part ktab n : Nat) : Except Trap (Nat × Nat × Nat) :=
  match tensorRead s part ktab (16 * n) 16 with
  | .error e => .error (trapOf 0x0B (e.1 * 64 + n))
  | .ok l =>
    let w (o k : Nat) : Nat := leNat ((l.drop o).take k)
    let len := w 8 2 % 2 ^ 13
    if bitsOf (w 0 4) 20 12 != 0 || bitsOf (w 8 2) 13 3 != 0 || w 10 6 != 0 || (len != 0 && w 4 4 % 16 != 0) || decide (4096 < len) then .error (trapOf 0x09 n)
    else if len = 0 then .error (trapOf 0x06 n)
    else .ok (w 0 4 % 2 ^ 20, w 4 4, len)

/-- The kernel table of the context's operator. -/
def ktabOf (s : State) (id : Nat) : Nat := match opOf s (ctxOf s id).op with | some o => o.ktab | none => 0

/-- The task has a handler: its TVEC does not name a segment 63 that its kernel's table leaves out (R355). -/
def hasHandler (s : State) (id : Nat) : Bool :=
  let c := ctxOf s id
  if c.tvec.toNat / 4096 = 63 then
    match segEntry s (partOfCore s (id / 4)) (ktabOf s id) 63 with
    | .error t => t.cause != 0x06
    | .ok _ => true
  else true

/-- The context traps (R24, R25, R355). -/
def trapCtx (s : State) (id : Nat) (t : Trap) : State := takeTrap s id t (hasHandler s id)

/-! ### Accesses in flight (R23, R236 to R240) -/

/-- The registers an access in flight will write (class and physical number; class 8 is a handle); one whose destination is s0 writes none (R9). -/
def RKind.items (k : RKind) : List (Nat × Nat) :=
  match k with
  | .load cls num _ _ _ _ _ => if cls = 0 && num = 0 then [] else [(cls, num)]
  | .roLoad cls num _ _ _ => if cls = 0 && num = 0 then [] else [(cls, num)]
  | .atomic _ _ _ (some d) _ => [(0, d)]
  | .value rs => rs.filterMap Result.item
  | .hbind h => [(8, h)]
  | .hsetxv h _ => [(8, h)]
  | _ => []

/-- Interlocked results that the context's handler issued are outstanding (R24). -/
def awaiting (s : State) (uid : Nat) : Bool := s.remotes.any (fun r => r.uid = uid && r.trapped && !r.kind.items.isEmpty)

/-- The registers of a context that the scoreboard marks (R23). -/
def markedItems (s : State) (uid : Nat) : List (Nat × Nat) := (s.remotes.filter (fun r => r.uid = uid)).flatMap (fun r => r.kind.items)

/-- The access writes memory, a record's extra value or a counter at its home (R228, R231). -/
def RKind.isStore (k : RKind) : Bool :=
  match k with
  | .store _ | .stl _ _ | .atomic _ _ _ _ _ | .ring _ _ _ | .hsetxv _ _ => true
  | _ => false
/-- The access reads memory and writes none; a SPAWN's reading of its record is one (R175). -/
def RKind.isLoad (k : RKind) : Bool :=
  match k with
  | .load _ _ _ _ _ _ _ | .roLoad _ _ _ _ _ | .record => true
  | _ => false

/-- The access updates a tensor record (R405). -/
def RKind.isUpdate (k : RKind) : Bool :=
  match k with
  | .hsetxv _ _ | .tuse _ => true
  | _ => false

/-- The access reads through the read-only cache (R220). -/
def RKind.isRo (k : RKind) : Bool :=
  match k with
  | .roLoad _ _ _ _ _ => true
  | _ => false

/-- An acquire, once performed: LDA in flight, or an atomic with a scope other than CTX (R240). -/
def RKind.acquires (k : RKind) : Bool :=
  match k with
  | .load _ _ _ _ _ _ acq => acq != 0
  | .atomic _ _ _ _ scope => scope != 0
  | _ => false

/-- An access reaches another device. -/
def Remote.far (r : Remote) : Bool := r.hk.kind = .tensor && r.hk.dev != 0

/-- The effective scope: code 7 falls back to SYS (R55). -/
def scopeOf (code : Nat) : Nat := if code = 7 then 6 else code

/-- The DRAIN condition of R228 at a scope, over the accesses issued before number `upto`: no earlier remote store or atomic that it covers is outstanding, nor an update of a record of another device, which is a remote access as they are (R408). -/
def drained (s : State) (uid scope upto : Nat) : Bool :=
  scope = 0 || s.remotes.all (fun r => !(r.uid = uid && decide (r.id < upto) && (r.kind.isStore || (r.far && r.kind.isUpdate)) && (match r.kind with | .ring _ _ _ => false | _ => true) && (!r.far || decide (5 ≤ scope))))
/-- Every earlier load has returned. -/
def loadsDone (s : State) (uid upto : Nat) : Bool := s.remotes.all (fun r => !(r.uid = uid && decide (r.id < upto) && r.kind.isLoad))
/-- The condition of a release at a scope (R240). -/
def releaseReady (s : State) (uid scope upto : Nat) : Bool := loadsDone s uid upto && drained s uid scope upto

/-- The tail of a doorbell write lies beyond what the port has taken (R417). -/
def doorOpen (q : QPair) (tail : W32) : Bool := decide ((tail - BitVec.ofNat 32 q.taken).toNat - 1 < 2 ^ 31 - 1 ∧ tail != BitVec.ofNat 32 q.taken)
/-- A doorbell write is kept only while it announces a request that the port has not taken (R417). -/
def QPair.pruned (q : QPair) : QPair := { q with doors := q.doors.filter (fun d => doorOpen q d.1) }
/-- The queue pair after its port has taken one more request. -/
def QPair.passed (q : QPair) : QPair := { q with taken := q.taken + 1 }.pruned
/-- Every RDMA request that an operator's doorbell writes posted has completed (R183). -/
def rdmaQuiet (s : State) (part op : Nat) : Bool :=
  let launch := match opOf s op with | some o => o.launch | none => 0
  (partOf s part).qps.all (fun q => q.2.posted.all (fun x => x.1 != op) && q.2.doors.all (fun d => d.2.1 != launch || !doorOpen q.2 d.1))
/-- Every RDMA request that a context's earlier doorbell writes posted has completed (R418). -/
def doorsQuiet (s : State) (part uid : Nat) : Bool :=
  (partOf s part).qps.all (fun q => q.2.posted.all (fun x => x.2.2.1 != uid) && q.2.doors.all (fun d => d.2.2 != uid || !doorOpen q.2 d.1))

/-! ### Homes and tags (R202, R242) -/

/-- The cluster of the home L2 slice of a line of a partition (R202). -/
def homeCluster (s : State) (part key : Nat) : Nat :=
  let die := keyDie key
  let cl := slicesOn s part die
  if cl.isEmpty then die * 8 else cl.getD (keyAddr key / 128 % (8 * cl.length) / 8) (die * 8)

/-- A home that a scope of a core covers (R235): the home of sector number `k`. -/
def covers (s : State) (part core scope k : Nat) : Bool :=
  let n := k * 32
  if scope = 0 then false
  else if n ≥ 2 ^ 60 then
    let c := (n - 2 ^ 60) / 0x200000
    if scope = 1 then c = core else if scope = 2 then c / 8 = core / 8 else if scope = 3 then c / 64 = core / 64 && partOfCore s c = part else partOfCore s c = part
  else
    let key := n % 2 ^ 58
    let u := homeCluster s part key
    if partOfSlice s (keySlice key) != part then false
    else if scope = 1 then false else if scope = 2 then u = core / 8 else if scope = 3 then u / 8 = core / 64 else true

/-- A release at a scope kills the live tags that name the core at the homes covered (R242). -/
def killTags (s : State) (part core scope : Nat) : State :=
  { s with tags := s.tags.filter (fun e => !(e.2 = some core && covers s part core scope e.1)) }

/-- A location whose lines L1 may hold: tiers 1 to 3 of this device (R203). -/
def Loc.cached (l : Loc) : Bool :=
  match l with
  | .mem k => keySpace k != 0
  | .comp _ => true
  | _ => false

/-- The first location of the 128-byte line of a location. -/
def Loc.line (l : Loc) : Loc :=
  match l with
  | .mem k => .mem (k / 128 * 128)
  | .comp k => .comp (k / 128 * 128)
  | l => l

/-- The lines a core's L1 holds at its split (R193), and those of a cluster's read-only cache (R1, R206). -/
def l1Lines (s : State) (core : Nat) : Nat := (Config.sramBytes - shareOf s core) / 128
def roLines : Nat := 2048

/-- The poisoned sectors of the 128-byte line of a location (R370). -/
def poisonOfLine (s : State) (l : Loc) : List Nat := (List.range 4).filterMap (fun i => let k := sectorOf l / 4 * 4 + i; if tget false s.poison k then some k else none)

/-- A cache of `cap` lines, with the poisoned sectors of its lines, takes line `n`; when it is full, the line at position `pick` leaves it. (DESIGN CHOICE, log 11.) -/
def cacheLine (t : Tab (List Byte)) (bad : List Nat) (cap pick n : Nat) (data : List Byte) (poison : List Nat) : Tab (List Byte) × List Nat :=
  let kept := if (tfind t n).isSome || t.length < cap then t else dropNth t (pick % t.length)
  (tset kept n data, bad.filter (fun k => k / 4 != n && (tfind kept (k / 4)).isSome) ++ poison)

/-- The line of a location enters the core's L1 from its home, poison and all (R203, R370); with code 4 a core has no L1 (R193). (DESIGN CHOICE, log 11.) -/
def fillL1 (s : State) (core : Nat) (l : Loc) : State :=
  if l.cached && splitOf s (core / 8) != 4 then
    modCore s core (fun k =>
      let r := cacheLine k.l1 k.l1bad (l1Lines s core) s.sel.word.toNat (l.num / 128) (readLocs s 0 l.line 128) (poisonOfLine s l)
      { k with l1 := r.1, l1bad := r.2 })
  else s

/-! ### Bytes and order of accesses (R203, R238, R245) -/

/-- Bytes [lo, hi) of a scratchpad meet a range. -/
def meets (lo hi a b : Nat) : Bool := decide (lo < b) && decide (a < hi)

/-- Two runs of bytes meet. -/
def segsMeet (a b : List Seg) : Bool := a.any (fun x => b.any (fun y => meets x.loc.num (x.loc.num + x.len) y.loc.num (y.loc.num + y.len)))

/-- The addresses an access reaches through its path: offsets of the window it goes through, or virtual addresses (R238). -/
def pathRanges (s : State) (r : Remote) : List (Nat × Nat) :=
  let base := if r.hk.kind != .tensor then 0 else if r.hk.dev != 0 then r.hk.base else ((tensorOf s r.part r.hk.tid).map (·.vbase)).getD 0
  r.ranges.map (fun x => (base + x.1, x.2))

/-- Two accesses reach one byte through the same path: h0, h1, or tensor handles of one device, compared by virtual address (R238). -/
def samePathByte (s : State) (a b : Remote) : Bool :=
  a.hk.kind = b.hk.kind && a.hk.dev = b.hk.dev && (pathRanges s a).any (fun x => (pathRanges s b).any (fun y => meets x.1 (x.1 + x.2) y.1 (y.1 + y.2)))

/-- A Lakebed store has flushed a line of the access and is not performed: the line is not refilled meanwhile (R245). -/
def heldFill (s : State) (segs : List Seg) : Bool :=
  s.remotes.any (fun e => (match e.kind with | .lake _ _ => true | _ => false)
    && e.segs.any (fun x => segs.any (fun y => meets (x.loc.num / 128 * 128) ((x.loc.num + x.len + 127) / 128 * 128) y.loc.num (y.loc.num + y.len))))

/-- A write to a page under migration is held (R213), and so is one to a line that a Lakebed operation is about to write (R245), or one that would make too many tier-3 lines dirty (R336). -/
def heldWrite (s : State) (issued : Nat) (segs : List Seg) : Bool :=
  heldPage s issued segs || heldFill s segs || dirtyFull s segs || l2Full s segs

/-- The bytes of a load: from the core's L1 when the turn says it hits, else from the home. (DESIGN CHOICE, log 11.) -/
def loadBytes (s : State) (r : Remote) (hit : Bool) : List Byte :=
  r.segs.flatMap (fun g =>
    if g.loc.isFar then (s.sel.data ++ List.replicate g.len 0).take g.len
    else
      match tfind (coreOf s r.core).l1 (g.loc.num / 128) with
      | some l => if hit && g.loc.cached then (l.drop (g.loc.num % 128)).take g.len else readLocs s r.launch g.loc g.len
      | none => readLocs s r.launch g.loc g.len)

/-- The bytes of a read-only load: from the cluster's read-only cache where it holds the line, unless the turn says the line was evicted. -/
def roBytes (s : State) (r : Remote) (hit : Bool) : List Byte :=
  r.segs.flatMap (fun g =>
    if g.loc.isFar then (s.sel.data ++ List.replicate g.len 0).take g.len
    else
      match tfind (tget [] s.ro (r.core / 8)) (g.loc.num / 128) with
      | some l => if hit then (l.drop (g.loc.num % 128)).take g.len else readLocs s r.launch g.loc g.len
      | none => readLocs s r.launch g.loc g.len)

/-- Every line of the access is in the table. -/
def allHit (t : Tab (List Byte)) (segs : List Seg) : Bool := segs.all (fun g => !g.loc.isFar && (tfind t (g.loc.num / 128)).isSome)

/-- The line of a location enters the cluster's read-only cache from its home, poison and all (R206, R370). (DESIGN CHOICE, log 11.) -/
def fillRo (s : State) (u : Nat) (l : Loc) : State :=
  if l.isFar then s
  else
    let c := cacheLine (tget [] s.ro u) (tget [] s.roBad u) roLines s.sel.word.toNat (l.num / 128) (readLocs s 0 l.line 128) (poisonOfLine s l)
    { s with ro := tset s.ro u c.1, roBad := tset s.roBad u c.2 }

/-- Why a request to another device of the domain does not go out, 0 where it does (R411): REMOTE_REFUSED for a device that has left the domain map, REMOTE_UNREACHABLE when every Sorant port has lost its link. -/
def noRoute (s : State) (part dev : Nat) : Nat :=
  if (tfind (partOf s part).map (dev - 1)).isNone then 0x29
  else if dev - 1 != s.devnum && (List.range 16).all (fun i => tget false s.links i) then 0x27
  else 0

/-- The causes that an owner answers with (R411): a refusal, and its failures of bounds, translation and residency. -/
def ownerCauses : List Nat := [0x20, 0x21, 0x22, 0x24, 0x29, 0x2C, 0x2E, 0x2F, 0x30, 0x31, 0x32, 0x33, 0x35, 0x37, 0x38, 0x39, 0x50, 0x54, 0x55, 0x56, 0x57, 0x59, 0x5C, 0x5D, 0x5E, 0x5F]

/-- The cause of the owner's answer among them, which the turn supplies; 0 where the owner performs the access. (DEDUCED, log 53.) -/
def ownerCause (n : Nat) : Nat := if ownerCauses.contains (n % 128) then n % 128 else 0

/-- The cause with which a request to another device fails when it issues, 0 when it does not (R411). (DEDUCED, log 53.) -/
def farCause (s : State) (part dev : Nat) : Nat := if noRoute s part dev = 0 then ownerCause s.sel.num else noRoute s part dev

/-- The offset in the segments of the first byte that lies in one of the sectors. -/
def firstIn (bad : List Nat) (segs : List Seg) : Option Nat := findByte (fun l => bad.contains (sectorOf l)) segs

/-- Why a load's data arrives unusable, with the byte it concerns (R358, R370): poison of the sectors it reads, in the copy it hits or at the home, or, where the turn says so with `keep`, poison that another device returns. (DEDUCED, log 66.) -/
def loadPoison (s : State) (r : Remote) (copy : Option (List Nat)) : Option (Nat × Nat) :=
  match copy with
  | some bad => (firstIn bad r.segs).map (fun i => (0x2D, i))
  | none => if r.segs.any (·.loc.isFar) then (if s.sel.keep then some (0x3A, 0) else if ownerCause s.sel.num = 0 then none else some (ownerCause s.sel.num, 0)) else (firstPoison s r.segs).map (fun i => (0x2D, i))

/-- An acquire at CLUS or wider empties the core's L1 (R203, R240). -/
def acquireAt (s : State) (core scope : Nat) : State := if 2 ≤ scope then modCore s core (fun k => { k with l1 := [], l1bad := [] }) else s

/-- The smallest scope covering a group's members (R179): CLUS, DIE or DEV, and DOM for a group of several devices (R181). -/
def groupScope (g : Group) : Nat :=
  let m := (List.range 256).filter (fun c => g.members.getLsbD c)
  if g.dmask != 0 then 5
  else match m with
    | [] => 2
    | a :: _ => if m.all (fun c => c / 8 = a / 8) then 2 else if m.all (fun c => c / 64 = a / 64) then 3 else 4

/-! ### Residency and translation of a context's accesses (R217 step 5, R356 step 5) -/

/-- How a bundle's fifth check ends: it goes on, the context blocks, or a trap. -/
inductive StepFive where
  | ok
  | block (b : Block)
  | trap (t : Trap)
  deriving DecidableEq, Repr

/-- Translates the pieces of one access of a context through its cluster's TLB: a miss blocks it (R356). The failure kept for the context is met at its page. -/
def checkPieces (s : State) (id slot : Nat) (a : Access) (t : Tensor) (base : Nat) (ps : List (Nat × Nat)) : State × StepFive :=
  match ps with
  | [] => (s, .ok)
  | (va, len) :: rest =>
    let core := id / 4
    let part := partOfCore s core
    let off := va - base
    let write := a.need.testBit 1
    match tlbFind s (core / 8) part va write with
    | some l =>
      if !leafAllows l a.need then (s, .trap (accTrap 0x21 slot a.h a.hk off))
      else
        match pieceFault s l va len with
        | some (c, x) => (s, .trap (accTrap c slot a.h a.hk (x - base)))
        | none => checkPieces s id slot a t base rest
    | none =>
      let miss : State × StepFive := (startWalk s (core / 8) part va a.need 0, .block (.walk (core / 8) (va / 65536 * 4 + a.need)))
      match (ctxOf s id).pendFail with
      | some (cause, 0, page, level) =>
        if page = va / 65536 then
          (modCtx s id (fun c => { c with pendFail := none }), .trap { accTrap cause slot a.h a.hk off with detail := (if cause = 0x2C then level * 64 else 0) + slot * 16 + a.h })
        else miss
      | _ => miss

def checkRanges (s : State) (id slot : Nat) (a : Access) (t : Tensor) (rs : List (Nat × Nat)) : State × StepFive :=
  match rs with
  | [] => (s, .ok)
  | (off, len) :: rest =>
    match checkPieces s id slot a t t.vbase (pieces (t.vbase + off) len) with
    | (s, .ok) => checkRanges s id slot a t rest
    | r => r

/-- The offset of an access's first byte. -/
def Access.first (a : Access) : Nat := (a.ranges.headD (0, 0)).1

/-- The trap of a failed reference (R362, R388): a failed recipe task names the referrer's handle and the inner cause. -/
def refTrap (cause slot : Nat) (a : Access) (tid inner : Nat) : Trap :=
  if cause = 0x54 then ⟨0x54, tid % 2 ^ 20, some (a.hk.kind, a.h, a.hk.tid, inner % 128), false⟩
  else if cause = 0x35 then accTrap 0x35 slot a.h a.hk a.first
  else idTrap cause tid

/-- Residency, then translation, of one access (R217 step 5). -/
def checkAccess (s : State) (id slot : Nat) (a : Access) : State × StepFive :=
  let part := partOfCore s (id / 4)
  if a.hk.kind != .tensor then (s, .ok)
  else if a.hk.dev != 0 then
    match farCause s part a.hk.dev with
    | 0 => (s, .ok)
    | c => (s, .trap (accTrap c slot a.h a.hk a.first))
  else
    let go (s : State) : State × StepFive :=
      match refTensor s part a.hk.tid (ctxOf s id).op none with
      | (s, .wait b) => (s, .block b)
      | (s, .fail c t) => (s, .trap (refTrap c slot a t 0))
      | (s, .ok) =>
        match tensorOf s part a.hk.tid with
        | some t => checkRanges s id slot a t a.ranges
        | none => (s, .trap (accTrap 0x35 slot a.h a.hk a.first))
    match (ctxOf s id).pendFail with
    | some (cause, k + 1, tid, inner) =>
      if tid = a.hk.tid then
        (modCtx s id (fun c => { c with pendFail := none }), .trap (refTrap cause slot a k inner))
      else go s
    | _ => go s

def checkAccesses (s : State) (id : Nat) (l : List (Nat × Access)) : State × StepFive :=
  match l with
  | [] => (s, .ok)
  | (slot, a) :: rest =>
    match checkAccess s id slot a with
    | (s, .ok) => checkAccesses s id rest
    | r => r

/-- The places of an access's ranges, once its translations are cached. -/
def segsOf (s : State) (core part : Nat) (hk : Handle) (ranges : List (Nat × Nat)) : List Seg :=
  ranges.flatMap (fun r =>
    match hk.kind with
    | .tensor =>
      if hk.dev != 0 then [⟨.far hk.dev hk.tid r.1, r.2⟩]
      else
        match tensorOf s part hk.tid with
        | none => []
        | some t =>
          (pieces (t.vbase + r.1) r.2).filterMap (fun p =>
            match tlbFind s (core / 8) part p.1 false with
            | some l => some ⟨leafLoc l p.1, p.2⟩
            | none => match walk s part p.1 with | .ok l => some ⟨leafLoc l p.1, p.2⟩ | .error _ => none)
    | k => windowSegs core k r.1 r.2)

/-! ### Pending bits (R27) -/

/-- Rows of bytes of a window that an engine operation reads or writes: row r is `len` bytes at `off` + r × `stride` of window `h` (h0 or h1). -/
structure Side where
  h : Nat
  off : Nat
  stride : Nat
  len : Nat
  rows : Nat
  deriving DecidableEq, Repr

/-- Some row of the side meets offsets [lo, hi). -/
def Side.rowsMeet (d : Side) (lo hi : Nat) : Bool :=
  if d.len = 0 || d.rows = 0 then false
  else
    let r := if d.stride = 0 || lo < d.off + d.len then 0 else (lo - d.off - d.len) / d.stride + 1
    decide (r < d.rows) && decide (d.off + r * d.stride < hi) && decide (lo < d.off + r * d.stride + d.len)

/-- A parameter word that names a handle and offset, with its stride (R253, R288). -/
def wordH (w : W64) : Nat := bitsOf w.toNat 32 4
def wordOff (w : W64) : Nat := bitsOf w.toNat 0 32
def wordStride (w : W64) : Nat := bitsOf w.toNat 40 24

/-- The rows a row copy, gather, scatter or fill reaches through m1 or m2; the rows an index list names may be any. -/
def copySide (o : EngineOp) (m : Nat) (indexed : Bool) : Side :=
  let w := tget 0 o.m m
  let m3 := (tget 0 o.m 3).toNat
  ⟨wordH w, wordOff w, wordStride w, bitsOf m3 0 32, if indexed && bitsOf m3 32 32 != 0 then 2 ^ 32 else bitsOf m3 32 32⟩

/-- A whole window. -/
def wholeSide (h : Nat) : Side := ⟨h, 0, 0, 2 ^ 32, 1⟩

/-- The bytes of one share of a collective (R299, R301). -/
def collShare (o : EngineOp) : Nat := bitsOf (tget 0 o.m 3).toNat 0 32 * (if bitsOf (tget 0 o.m 3).toNat 32 5 = 13 then 2 else 4)

/-- The operand rows that a call of a shipped routine reads (R250, R255, R258): the rows of A with their metadata, and those of B, once for each tap or product of routines 2 and 4. -/
def shippedSources (o : EngineOp) : List Side :=
  let m (i : Nat) : W64 := tget 0 o.m i
  let m0 := (m 0).toNat
  let k := bitsOf (m 3).toNat 0 32
  let sparse := m0.testBit 8
  let n := [6, 8, 12, 16].getD (bitsOf m0 9 2) 6
  let packed (code count : Nat) : Nat := ((nfmtOf code).width * count + 7) / 8
  let side (i base len rows : Nat) : Side := ⟨wordH (m i), base, wordStride (m i), len, rows⟩
  let taps := if o.x = 2 || o.x = 4 then (if (m 7) = 0 then 1 else bitsOf (m 6).toNat 0 32) else 1
  let base (i step t : Nat) : Nat := (wordOff (m i) + t * step) % 2 ^ 32
  (if sparse then [side 4 (wordOff (m 4)) (k / 24 * 4) 128] else [])
  ++ (List.range taps).flatMap (fun t =>
    [side 1 (base 1 (bitsOf (m 7).toNat 0 32) t) (packed (bitsOf m0 0 4) (if sparse then k * n / 24 else k)) 128,
     if o.x = 3 then side 2 (base 2 0 t) (packed (bitsOf m0 4 4) k) 64 else side 2 (base 2 (bitsOf (m 7).toNat 32 32) t) (packed (bitsOf m0 4 4) 64) k])

/-- The operands of an MCALL: those of a shipped routine by its code; a routine in the writable store may read any row of their windows. (DESIGN CHOICE, log 87.) -/
def mcallSources (o : EngineOp) : List Side :=
  if o.x ≤ 4 then shippedSources o
  else [wholeSide (wordH (tget 0 o.m 1)), wholeSide (wordH (tget 0 o.m 2))] ++ (if (tget 0 o.m 0).getLsbD 8 then [wholeSide (wordH (tget 0 o.m 4))] else [])

/-- What an operation writes through m2 (R287, R296, R299). -/
def opTargets (o : EngineOp) : List Side :=
  let m2 := tget 0 o.m 2
  let m3 := (tget 0 o.m 3).toNat
  if 4 ≤ o.opc && o.opc ≤ 9 then [copySide o 2 (o.opc = 8)]
  else if o.opc = 0x0D then [⟨wordH m2, wordOff m2, 0, 512 * (m3 % 2 ^ 17), 1⟩]
  else if o.opc = 0x0E then [⟨wordH m2, wordOff m2, 0, collShare o * (if o.x / 4 = 3 then o.groups.getD 2 1 else if o.x / 4 = 0 && bitsOf m3 40 8 != o.groups.getD 3 0 then 0 else 1), 1⟩]
  else []

/-- The rows an index list names through m1 or m2, once the copy has read it (R290). -/
def listedRows (s : State) (o : EngineOp) (m : Nat) : Option (List Side) :=
  match ((coreOf s o.core).copies.find? (fun r => r.op.id = o.id)).map (·.idx) with
  | some (i :: r) => let d := copySide o m false; some ((i :: r).map (fun i => { d with off := d.off + i * d.stride, rows := 1 }))
  | _ => none

/-- What a live operation writes, as far as it is known: a scatter that has read its index list writes the rows the list names, and a stream that has read its sector masks writes the sectors they select; until then any row, and every sector of its chunks, may be written (R27, R290, R296). (DESIGN CHOICE, log 67.) -/
def liveTargets (s : State) (o : EngineOp) : List Side :=
  if o.opc = 8 then
    match listedRows s o 2 with
    | some l => l
    | none => opTargets o
  else if o.opc = 0x0D && o.x % 2 = 1 then
    match (s.streams.find? (fun r => r.op.id = o.id)).map (·.masks) with
    | some masks =>
      let m2 := tget 0 o.m 2
      (List.range masks.length).flatMap (fun c => ((List.range 16).filter (fun j => (masks.getD c 0).testBit j)).map (fun j => ⟨wordH m2, wordOff m2 + 512 * c + 32 * j, 0, 32, 1⟩))
    | none => opTargets o
  else opTargets o

/-- What an operation reads: operands of the matrix array, sources, index and mask lists (R250, R287, R288, R296, R299). -/
def opSources (o : EngineOp) : List Side :=
  let m1 := tget 0 o.m 1
  let m4 := tget 0 o.m 4
  let m3 := (tget 0 o.m 3).toNat
  if o.opc = 1 then mcallSources o
  else if 4 ≤ o.opc && o.opc ≤ 8 then [copySide o 1 (o.opc = 7)] ++ (if 7 ≤ o.opc then [⟨wordH m4, wordOff m4, 0, 4 * bitsOf m3 32 32, 1⟩] else [])
  else if o.opc = 0x0D then (if o.x % 2 = 1 then [⟨wordH m4, wordOff m4, 0, 2 * (m3 % 2 ^ 17), 1⟩] else [])
  else if o.opc = 0x0E then [⟨wordH m1, wordOff m1, 0, collShare o * (if o.x / 4 = 2 then o.groups.getD 2 1 else 1), 1⟩]
  else []

/-- What a live operation reads, as far as it is known: a gather that has read its index list reads the rows the list names (R194, R290). -/
def liveSources (s : State) (o : EngineOp) : List Side :=
  if o.opc = 7 then
    match listedRows s o 1 with
    | some l => l
    | none => opSources o
  else opSources o

/-- The side of an operation of core `c` reaches bytes [lo, hi), inside one granule, of core `core` (R189). -/
def Side.reaches (d : Side) (c core lo hi : Nat) : Bool :=
  if d.h = 0 then c = core && d.rowsMeet lo hi
  else if d.h = 1 then
    let x := lo / 128 * 1024 + core % 8 * 128 + lo % 128
    c / 8 = core / 8 && d.rowsMeet x (x + (hi - lo))
  else false

/-- Windows of an operation meet bytes [lo, hi), whole granules, of the cores of a cluster (R194). -/
def sidesTouch (o : EngineOp) (l : List Side) (cluster lo hi : Nat) : Bool :=
  o.core / 8 = cluster && l.any (fun d => if d.h = 0 then d.rowsMeet lo hi else d.h = 1 && d.rowsMeet (8 * lo) (8 * hi))
/-- An operation that has not started meets them. -/
def opTouches (o : EngineOp) (cluster lo hi : Nat) : Bool := sidesTouch o (opSources o ++ opTargets o) cluster lo hi

/-- The operations whose tokens are PEND (R27, R194). -/
def liveOps (s : State) : List EngineOp :=
  s.cores.flatMap (fun e => e.2.queue ++ e.2.copies.map (·.op) ++ (match e.2.mcall with | some m => [m.op] | none => []))
  ++ s.streams.map (·.op) ++ s.colls.flatMap (·.ops)

/-- The scratchpad word at `off` of the context's core is pending (R27). The rule names a transform-slot result, a store through h1 and an engine operation's destination; an atomic through h1 is taken as a store through h1 until it is performed, and of engine operations those that this context issued count, as of stores. (DESIGN CHOICE, log 67.) -/
def wordPending (s : State) (id off : Nat) : Bool :=
  let c := ctxOf s id
  let core := id / 4
  let w := off / 4 * 4
  (c.wq ++ c.hq).any (fun e => match e.res with | .bytes o d => meets w (w + 4) o (o + d.length) | _ => false)
  || s.remotes.any (fun r => r.uid = c.uid && r.kind.isStore && r.segs.any (fun g => match g.loc with | .scr k b => k = core && meets w (w + 4) b (b + g.len) | _ => false))
  || (liveOps s).any (fun o => o.uid = c.uid && o.kd != 0 && (liveTargets s o).any (fun d => d.reaches o.core core w (w + 4)))

/-- A register's pending bit: a result of latency above 1 waits for it (R27). -/
def itemPending (c : Ctx) (item : Nat × Nat) : Bool := (c.wq ++ c.hq).any (fun e => decide (1 < e.lat) && e.res.item = some item)

def itemLess (x y : Nat × Nat × Nat) : Bool := x.1 < y.1 || (x.1 == y.1 && x.2.1 < y.2.1)

/-- PENDING_READ of one slot: the item of lowest class and number, or a scratchpad word (R27, R356). (DEDUCED, log 62.) -/
def pendingTrap (s : State) (id : Nat) (o : SlotOut) : Option Trap :=
  let c := ctxOf s id
  let bad := (if o.active then o.reads else o.reads.take 1).filter (fun r => itemPending c (r.1, r.2.2))
  match bad.foldl (fun (b : Option (Nat × Nat × Nat)) r => match b with | none => some r | some x => some (if itemLess r x then r else x)) none with
  | some r => some (trapOf 0x2A (o.opc * 2 ^ 13 + r.2.1 * 2 ^ 7 + r.1 * 2 ^ 4 + Slot.num o.slot))
  | none =>
    match (o.words.filter (fun w => wordPending s id w)).min? with
    | some w => some ⟨0x2A, o.opc * 2 ^ 13 + 7 * 2 ^ 4 + Slot.num o.slot, some (.scratch, 0, 0, w / 4 * 4), false⟩
    | none => none

/-! ### Split requests (R194) -/

/-- The bytes of every core of the cluster that a split changes. -/
def SplitReq.lo (r : SplitReq) : Nat := min (Config.share r.old) (Config.share r.code)
def SplitReq.hi (r : SplitReq) : Nat := max (Config.share r.old) (Config.share r.code)

/-- The code a further request finds: the last request's, or the cluster's. -/
def lastSplit (s : State) (cluster : Nat) : Nat := ((s.splits.filter (fun r => r.cluster = cluster)).getLast?.map (·.code)).getD (splitOf s cluster)

/-- The context's request, with the operations whose tokens it waits for. -/
def registerSplit (s : State) (id code : Nat) : State :=
  let c := ctxOf s id
  if s.splits.any (fun r => r.uid = c.uid) then s
  else
    let cluster := id / 32
    let r : SplitReq := ⟨cluster, id / 4, c.uid, lastSplit s cluster, code, []⟩
    { s with splits := s.splits ++ [{ r with waits := ((liveOps s).filter (fun o => o.kd != 0 && sidesTouch o (liveSources s o ++ liveTargets s o) cluster r.lo r.hi)).map (·.id) }] }

/-- The context blocks with the bundle not issued (R32, R356); a SPLIT's request joins its cluster's. -/
def blockCtx (s : State) (id : Nat) (b : Block) : State :=
  let s := modCtx s id (fun c => { c with block := some b })
  match b with
  | .split code => registerSplit s id code
  | _ => s

/-! ### Commit (R14, R15) -/

/-- A COLL joins the instance its core's count names (R300); the instance it joins may have been abandoned. -/
def joinColl (s : State) (o : EngineOp) : State :=
  let g := o.groups.getD 0 0
  let n := o.groups.getD 1 0
  let s := setGroup s g { groupOf s g with issued := tset (groupOf s g).issued o.core (n + 1) }
  match s.colls.find? (fun i => i.group = g && i.number = n) with
  | some i =>
    let s := { s with colls := s.colls.map (fun x => if x.group = g && x.number = n then { x with ops := x.ops ++ [o] } else x) }
    match i.lost with
    | some f => endOp (modCore s o.core (fun k => { k with queue := k.queue.filter (fun q => q.id != o.id) })) o.id (some f) 0
    | none => s
  | none => { s with colls := s.colls ++ [⟨g, n, [o], false, none, none, false⟩] }

/-- The group, instance number, member count and rank of a COLL of core `core` (R300, R412). -/
def collPlace (s : State) (group core : Nat) : List Nat :=
  let g := groupOf s group
  [group, tget 0 g.issued core, groupRanks g, groupRank s g core]

/-- Gives an operation its number, binds its token and puts it into the queue, or among the joins (R274, R276, R282). -/
def enqueueOp (s : State) (id : Nat) (o : EngineOp) (join : Bool) : State :=
  let (n, s) := takeFresh s
  let o := { o with id := n, issued := n }
  let o := if o.opc = 0x0E then { o with groups := collPlace s (o.groups.getD 0 0) o.core } else o
  let o := { o with held := s.splits.any (fun r => opTouches o r.cluster r.lo r.hi) }
  let s := if o.kd = 0 then s else modCtx s id (fun c => { c with k := tset c.k o.kd ⟨.pend, .none, n⟩ })
  let s := if join then { s with joins := s.joins ++ [o] } else modCore s (id / 4) (fun k => { k with queue := k.queue ++ [o] })
  let s := settle s (waitingOps s)
  if o.opc = 0x0E then joinColl s o else s

/-- The current segments of a core's contexts, targets they are blocked on among them (R168). -/
def currentSegs (s : State) (core : Nat) : List (Nat × Nat) :=
  (List.range 4).filterMap (fun x =>
    let c := ctxOf s (ctxId core x)
    if c.running then some (ktabOf s (ctxId core x), c.pc.toNat / 4096) else none)

/-- The frame a copy goes to: of the frames that hold no current segment and await none, the one that received a copy longest ago, an empty one before it; a fetch that finds none of these takes the frame of the oldest copy under way of no current segment, which ends that copy (R168). (DESIGN CHOICE, log 40.) -/
def segFrame (s : State) (core : Nat) (fetch : Bool) : Option Nat :=
  let k := coreOf s core
  let current := currentSegs s core
  let ord (f : Nat) : Nat := match tfind k.frames f with | some fr => fr.order | none => 0
  let idle := (List.range 4).filter (fun f =>
    !(k.copying.any (fun y => y.frame = f)) && (match tfind k.frames f with | some fr => !(current.contains (fr.ktab, fr.seg)) | none => true))
  match idle.foldl (fun (b : Option Nat) f => match b with | none => some f | some x => some (if ord f < ord x then f else x)) none with
  | some f => some f
  | none => if fetch then (k.copying.find? (fun y => !(current.contains (y.ktab, y.seg)))).map (·.frame) else none

/-- Starts the copy of a segment, for a fetch or as SEGMARK's hint (R95, R168). (DESIGN CHOICE, log 40.) -/
def startSegCopy (s : State) (id n : Nat) (fetch : Bool) : State :=
  let core := id / 4
  let k := coreOf s core
  let ktab := ktabOf s id
  let present := k.frames.any (fun e => e.2.ktab = ktab && e.2.seg = n && !e.2.code.isEmpty) || k.copying.any (fun y => y.ktab = ktab && y.seg = n)
  if present then s
  else
    match segFrame s core fetch with
    | none => s
    | some f => setCore (touchTensor s (partOfCore s core) ktab (16 * n) 16) core { k with copying := k.copying.filter (fun y => y.frame != f) ++ [⟨ktab, n, f, partOfCore s core, (ctxOf s id).uid, none⟩], frames := tdel k.frames f }

/-- The generation has reached a target (R179). -/
def reached (gen : W16) (target : Nat) : Bool := decide ((gen - BitVec.ofNat 16 target).toNat < 2 ^ 15)

/-- The device that keeps a group of several devices: the lowest-numbered of DMASK (R181). -/
def keepsGroup (s : State) (g : Group) : Bool := g.dmask.getLsbD s.devnum && (List.range s.devnum).all (fun d => !g.dmask.getLsbD d)

/-- Every member has arrived, on every device of DMASK (R179, R181). -/
def allArrived (s : State) (g : Group) : Bool :=
  g.arrived = g.members && (List.range 192).all (fun d => !g.dmask.getLsbD d || d = s.devnum || tget 0 g.far d = g.members)

/-- The generation advances once every member has arrived; the keeper of a group of several devices sends it on (R179, R181). -/
def completeGroup (s : State) (group : Nat) : State :=
  let g := groupOf s group
  if (g.dmask = 0 || keepsGroup s g) && allArrived s g then
    let s := setGroup s group { g with gen := g.gen + 1, arrived := 0, far := [] }
    if g.dmask = 0 then s else { s with sent := s.sent ++ [.generation group (g.gen + 1).toNat] }
  else s

/-- The core arrives at a group's barrier (R179): its bit is set, and the last arrival advances the generation. A group of several devices reports to the device that keeps it (R181). -/
def arriveAt (s : State) (group core : Nat) : State :=
  let g := groupOf s group
  let s := setGroup s group { g with arrived := g.arrived ||| BitVec.ofNat 256 (2 ^ core) }
  if g.dmask != 0 && !keepsGroup s g then { s with sent := s.sent ++ [.arrival group core] } else completeGroup s group

/-- W1C and supervisor writes of a system register (R11, R99, R100, R271, R283, R361); RO registers stay. -/
def writeSys (s : State) (id n : Nat) (v : W64) : State :=
  let core := id / 4
  let put (f : Ctx → Ctx) : State := modCtx s id f
  if n = 0 then put (fun c => { c with warnSat := c.warnSat && !v.getLsbD 15, warnFallback := c.warnFallback && !v.getLsbD 14, pendchk := if c.mode then v.getLsbD 1 else c.pendchk })
  else if n = 1 then put (fun c => { c with cause := v.truncate 32 })
  else if n = 2 then put (fun c => { c with epc := v.truncate 18 })
  else if n = 3 then put (fun c => { c with tvec := v.truncate 18 })
  else if n = 4 then put (fun c => { c with fhandle := v.truncate 32 &&& 0xC0FFFFFF })
  else if n = 5 then put (fun c => { c with foffset := v })
  else if 8 ≤ n && n ≤ 0xB then put (fun c => { c with hsave := tset c.hsave (n - 8) v })
  else if n = 0x10 then put (fun c => { c with lc := v.truncate 32 })
  else if n = 0x11 then put (fun c => { c with ec := v.truncate 8 })
  else if n = 0x12 then put (fun c => { c with vrb := v.truncate 5 })
  else if n = 0x13 then put (fun c => { c with prb := v.truncate 3 })
  else if n = 0x130 then modCore s core (fun k => { k with mpaddr := v.truncate 11 })
  else if n = 0x140 then modCore s core (fun k => { k with ringsel := v.truncate 6 })
  else if n = 0x142 then
    let r := core / 8 * 64 + (coreOf s core).ringsel.toNat
    if (ringOf s r).cfg.getLsbD 63 then s else setRing s r { ringOf s r with win := v &&& 0x000FFFFFFFFFFFFF }
  else if n = 0x143 then
    let r := core / 8 * 64 + (coreOf s core).ringsel.toNat
    if (ringOf s r).cfg.getLsbD 63 then s else setRing s r { ringOf s r with write := (v >>> 32).truncate 32, read := v.truncate 32 }
  else if n = 0x150 then put (fun c => { c with dbgctl := v.truncate 32 &&& 0x00FEFFFE })
  else if n = 0x151 then put (fun c => { c with watchlo := v })
  else if n = 0x152 then put (fun c => { c with watchhi := v })
  else s

/-- RINGCFG as a SYSWR leaves it (R284): with EN set only EN and ERR change; a bad configuration leaves EN 0; EN rising clears the counters. -/
def writeRingCfg (s : State) (ring : Nat) (v : W64) : State :=
  let r := ringOf s ring
  let old := r.cfg
  let err := old &&& (1 <<< 39) &&& ~~~v
  let fields : W64 := if old.getLsbD 63 then old &&& 0x0FFFFF0000000000 else v &&& 0x0FFFFF0000000000
  let good := (fields.toNat / 2 ^ 58 % 4 != 3) && decide (fields.toNat / 2 ^ 51 % 16 ≤ 10) && (fields.toNat / 2 ^ 40 % 2 ^ 11 != 0)
  let en := v.getLsbD 63 && good
  let cfg := (if en then (1 <<< 63 : W64) else 0) ||| fields ||| err
  if en && !old.getLsbD 63 then setRing s ring { r with cfg := cfg, write := 0, read := 0 } else setRing s ring { r with cfg := cfg }

/-- Writes a word of the microprogram store or routine table (R257, R271). A write that is ignored moves MPADDR on as any other. (DESIGN CHOICE, log 86.) -/
def writeMicro (s : State) (core addr : Nat) (v : W64) : State :=
  modCore s core (fun k =>
    let k := { k with mpaddr := k.mpaddr + 1 }
    if addr < 1024 then { k with store := tset k.store addr v }
    else if 1040 ≤ addr && addr < 1152 then { k with rtable := tset k.rtable (addr - 1024) v }
    else k)

/-- Pushes a record of a context's operator from its core, or a continuation, which the Wellhead pushes (R172): a push that no queue takes, and one task beyond the limit, fail the operator (R362). -/
def pushLive (s : State) (core x : Nat) (joined : Bool) (t : TaskRec) : State :=
  match opOf s t.op with
  | none => s
  | some o =>
    if 2 ^ 32 - 1 ≤ o.live then failOp s t.op 0x6F 0
    else
      match pushTask s (partOfCore s core) (if joined then none else some core) x t with
      | some s => modOp s t.op (fun o => { o with live := o.live + 1 })
      | none => failOp s t.op 0x65 (pushTarget (partOf s (partOfCore s core)) (if joined then none else some core) x t)

/-- A SPAWN's record joins its operator, and its push is held until the earlier stores of the context are performed (R175); a task beyond the limit fails the operator (R362). -/
def holdSpawn (s : State) (r : Remote) (op : Nat) : State :=
  match opOf s op with
  | none => s
  | some o =>
    if 2 ^ 32 - 1 ≤ o.live then failOp s op 0x6F 0
    else
      let (n, s) := takeFresh (setOp s op { o with live := o.live + 1 })
      { s with remotes := s.remotes ++ [{ r with id := n, since := s.cycle }] }

/-- The held push is made (R172, R175): one that no queue takes fails the operator. -/
def pushHeld (s : State) (core x : Nat) (t : TaskRec) : State :=
  match (opOf s t.op).filter (fun o => o.phase = .running), pushTask s (partOfCore s core) (some core) x t with
  | none, _ => s
  | some _, some s => s
  | some _, none => failOp s t.op 0x65 (pushTarget (partOf s (partOfCore s core)) (some core) x t)

/-- One effect of a slot at the commit of its bundle. -/
def applyEffect (s : State) (id : Nat) (e : Effect) : State :=
  let core := id / 4
  match e with
  | .result lat r => modCtx s id (fun c => c.push lat r)
  | .resultLate r => modCtx s id (fun c => c.push 1 r)
  | .warnSat => modCtx s id (fun c => { c with warnSat := true })
  | .warnFallback => modCtx s id (fun c => { c with warnFallback := true })
  | .sysreg n v => writeSys s id n v
  | .jump _ => s
  | .localStore off data => storeLocal s core off (ctxOf s id).launch data
  | .localAtomic off data => writeLocs s (ctxOf s id).launch (.scr core off) data
  | .issue r =>
    let (n, s) := takeFresh s
    { s with remotes := s.remotes ++ [{ r with id := n, since := s.cycle, segs := segsOf s r.core r.part r.hk r.ranges }] }
  | .scoreboard r =>
    let (n, s) := takeFresh s
    { s with remotes := s.remotes ++ [{ r with id := n, since := s.cycle }] }
  | .token k t => modCtx s id (fun c => { c with k := tset c.k k t })
  | .enqueue o => enqueueOp s id o false
  | .join o => enqueueOp s id o true
  | .spawn r => holdSpawn s r (ctxOf s id).op
  | .badTask d => failOp s (ctxOf s id).op 0x63 d
  | .finish => s
  | .segCopy n => startSegCopy s id n false
  | .arrive g => arriveAt s g core
  | .acquire sc => acquireAt s core sc
  | .release sc => killTags s (partOfCore s core) core sc
  | .clearRo => { s with ro := tset s.ro (core / 8) [], roBad := tset s.roBad (core / 8) [] }
  | .fillL1 l => fillL1 s core l
  | .fillRo l => fillRo s (core / 8) l
  | .prefetch l => if s.sel.keep && !heldFill s [⟨l, 1⟩] then fillL1 s core l else s
  | .splitTaken => modCtx s id (fun c => { c with splitDone := false })
  | .commitPart e p =>
    modCore s core (fun k =>
      match nth k.pool e with
      | some x =>
        let x := { x with committed := x.committed ||| BitVec.ofNat 64 (2 ^ p) }
        { k with pool := if x.committed = BitVec.allOnes 64 then dropNth k.pool e else setNth k.pool e x }
      | none => k)
  | .consumeMarks rs => modCtx s id (fun c => { c with marks := c.marks.filter (fun m => !(rs.contains (m.cls, m.num))) })
  | .eret => s
  | .sleep => modCtx s id (fun c => { c with wake := false })
  | .micro a v => writeMicro s core a v
  | .ringCfg r v => writeRingCfg s r v
  | .pin tid up => pinTensor s (partOfCore s core) tid up

def Effect.isLate (e : Effect) : Bool :=
  match e with
  | .resultLate _ | .warnSat | .warnFallback => true
  | _ => false

/-- END: a DEV release, then the join's outcome, then the context is idle (R176). The join is carried out by `finishTask`. -/
def Effect.isFinish (e : Effect) : Bool :=
  match e with
  | .finish => true
  | _ => false
def Effect.isEret (e : Effect) : Bool :=
  match e with
  | .eret => true
  | _ => false
/-- The issue of a load, and the line it brings in: a store of its own bundle never affects it (R14). -/
def Effect.isRead (e : Effect) : Bool :=
  match e with
  | .issue r => r.kind.isLoad
  | .fillL1 _ | .fillRo _ => true
  | _ => false

/-- The effects of a bundle in the order they take their places: its loads before its stores, since every load of a bundle reads before the stores perform (R14, R88). -/
def inOrder (es : List Effect) : List Effect := es.filter (fun e => e.isRead) ++ es.filter (fun e => !e.isRead)

/-- A task record from its 32 bytes, and the byte offset of a broken field (R170, R362). -/
def parseTask (l : List Byte) : TaskRec × Option Nat :=
  let w (o : Nat) : Nat := leNat ((l.drop o).take 4)
  let w0 := w 0
  ({ TaskRec.none with entry := BitVec.ofNat 18 w0, prio := bitsOf w0 18 2, affk := w0.testBit 20, jv := w0.testBit 21, fv := w0.testBit 22, aff := w 4, ftid := w 8 % 2 ^ 20, foff := w 12, jtid := w 16 % 2 ^ 20, joff := w 20, arg0 := w 24, arg1 := w 28 },
   if bitsOf w0 23 9 != 0 then some 0 else if bitsOf (w 8) 20 12 != 0 then some 8 else if bitsOf (w 16) 20 12 != 0 then some 16 else none)

/-- Where the counter of END's join lies, or why the decrement waits or fails (R176 step 4, R364). -/
inductive JoinPlace where
  | ok (s : State) (l : Loc)
  | wait (s : State) (b : Block)
  | fail (s : State) (cause : Nat)

/-- Translates the counter of END's join, a read and a write of 4 bytes. -/
def joinPlace (s : State) (id part va : Nat) : JoinPlace :=
  let tlb := id / 32
  match tlbFind s tlb part va true with
  | none => .wait (startWalk s tlb part va 3 0) (.walk tlb (va / 65536 * 4 + 3))
  | some l =>
    if !leafAllows l 3 then .fail s 0x21
    else
      match pieceFault s l va 4 with
      | some (c, _) => .fail s c
      | none => .ok s (leafLoc l va)

/-- The outcome of END's join (R176 step 4): done, wait, or JOIN_FAULT with an inner cause. A poisoned counter fails it, and so does a poisoned continuation record when the counter stands at 1, before it is decremented. (DEDUCED, log 62; DESIGN CHOICE, log 68.) -/
def joinTask (s : State) (id : Nat) : State × RefRes :=
  let c := ctxOf s id
  let t := c.task
  let core := id / 4
  let part := partOfCore s core
  if !t.jv then (s, .ok)
  else
    match tensorOf s part t.jtid with
    | none => (s, .fail 0x58 0)
    | some x =>
      if t.joff % 64 != 0 then (s, .fail 0x25 0)
      else if x.extent < t.joff + 64 then (s, .fail 0x24 0)
      else
        match refTensor s part t.jtid c.op none with
        | (s, .wait b) => (s, .wait b)
        | (s, .fail k _) => (s, .fail k 0)
        | (s, .ok) =>
          let va := x.vbase + t.joff
          match joinPlace s id part va with
          | .wait s b => (s, .wait b)
          | .fail s e => (s, .fail e 0)
          | .ok s l =>
            if heldFill s [⟨l, 64⟩] || heldWrite s s.fresh [⟨l, 4⟩] then (s, .wait .turn)
            else if poisoned s l then (s, .fail 0x2D 0)
            else
              let n := leNat (readLocs s 0 l 4)
              if n = 0 then (s, .ok)
              else if n = 1 && (firstPoison s [⟨l.next 32, 32⟩]).isSome then (s, .fail 0x2D 0)
              else
                let s := writeLocs (clearIncomp s [⟨l, 4⟩]) 0 l (leBytes (n - 1) 4)
                if n - 1 != 0 then (s, .ok)
                else
                  let (k, bad) := parseTask (readLocs s 0 (l.next 32) 32)
                  match bad with
                  | some d => (failOp s c.op 0x63 d, .ok)
                  | none => (pushLive s core 0 true { k with op := c.op }, .ok)

/-- A failure met while END waited: its cause (R176 step 4). -/
def joinFailure (c : Ctx) : Option Nat := c.pendFail.map (·.1)

/-- A push that a SPAWN of the task holds has not been made. -/
def spawning (s : State) (uid : Nat) : Bool := s.remotes.any (fun r => r.uid = uid && (match r.kind with | .spawn _ _ => true | _ => false))

/-- Ends the task of a context whose END has committed (R176): it waits for tokens, its release and the pushes of its SPAWNs, then fails or joins, then the context is idle. (DEDUCED, log 69.) -/
def finishTask (s : State) (id : Nat) : State :=
  let c := ctxOf s id
  let core := id / 4
  let wait (s : State) (b : Block) : State := modCtx s id (fun c => { c with block := some b })
  let bad := (List.range 15).find? (fun i => (readK c (i + 1)).st == .fault)
  if c.k.any (fun e => e.2.st == .pend) then wait s .tokens
  else if !releaseReady s c.uid 4 s.fresh || spawning s c.uid then wait s .release
  else
    match c.storeFail, bad, joinFailure c with
    | some (t, _), _, _ => failOp s c.op t.cause t.detail
    | none, some k, _ => failOp s c.op 0x40 (k + 1)
    | none, none, some k => failOp s c.op 0x6E k
    | none, none, none =>
      match joinTask (killTags s (partOfCore s core) core 4) id with
      | (s, .wait b) => wait s b
      | (s, .fail k _) => failOp s c.op 0x6E k
      | (s, .ok) =>
        let s := dropCtx (abandonColls s c.uid) id
        modOp s c.op (fun o => if o.phase = .running then { o with live := o.live - 1, phase := if o.live ≤ 1 then .ending else .running } else o)

/-- The jump of a committing bundle, if a control transfer is taken. -/
def jumpOf (outs : List SlotOut) : Option Pc := (outs.flatMap (·.effects)).findSome? (fun e => match e with | .jump t => some t | _ => none)

/-- The boundary trap that follows a committed or skipped bundle of a task (R357). -/
def boundaryTrap (c : Ctx) (taken : Bool) : Option Trap :=
  if c.mode then none
  else if taken && c.dbgctl.getLsbD 18 then some (trapOf 0x0E c.pc.toNat)
  else if c.dbgctl.getLsbD 17 then some (trapOf 0x0C 0)
  else none

/-- All slots' effects, the count, the PC and the boundary traps (R14, R17, R30, R357). (DEDUCED, log 7; DEDUCED, log 34.) -/
def commitOuts (s : State) (id : Nat) (outs : List SlotOut) : State :=
  let c := ctxOf s id
  let es := inOrder (outs.flatMap (·.effects))
  let written := outs.flatMap (·.writes)
  let s := (es.filter (fun e => !e.isLate)).foldl (fun s e => applyEffect s id e) s
  let s := (es.filter (fun e => e.isLate)).foldl (fun s e => applyEffect s id e) s
  let s := applyEffect s id (.consumeMarks written)
  if !(ctxOf s id).running then s
  else if es.any (fun e => e.isFinish) then finishTask (modCtx s id (fun c => { c with ending := true, pendFail := none })) id
  else if es.any (fun e => e.isEret) then
    let s := flushHandler (modCtx s id (fun c => { c.tick with five := false, spawned := none })) id
    if awaiting s c.uid then modCtx s id (fun c => { c with returning := true }) else eretCtx s id
  else
    let next := (jumpOf outs).getD (c.pc + 1)
    modCtx s id (fun x => { x.tick with pc := next, pendFail := none, five := false, spawned := none, boundary := boundaryTrap c (jumpOf outs).isSome })

/-! ### Loads beside stores of their own bundle (R14) -/

/-- The effect stores to bytes that a load of its bundle reads, in a way that R238 does not order: by another path, or for a read-only load by any (R14, R220). -/
def Effect.crosses (s : State) (id : Nat) (r : Remote) (segs : List Seg) (e : Effect) : Bool :=
  match e with
  | .localStore off data | .localAtomic off data => segsMeet [⟨.scr (id / 4) off, data.length⟩] segs
  | .issue q => q.kind.isStore && segsMeet (segsOf s q.core q.part q.hk q.ranges) segs && (r.kind.isRo || !samePathByte s q r)
  | _ => false

/-- The load's place, if a store of its own bundle crosses it. -/
def crossed (s : State) (id : Nat) (es : List Effect) (r : Remote) : Option (List Seg) :=
  let segs := segsOf s r.core r.part r.hk r.ranges
  if r.kind.isLoad && es.any (fun e => e.crosses s id r segs) then some segs else none

/-- A load that a store of its own bundle crosses reads as the bundle executes, before the store performs (R14): a read-only load the line its cache holds, unless the turn says that it was evicted, any other its home, and the line it reads from its home enters the cache with it (R203, R220, R237). -/
def fixRead (s : State) (id : Nat) (es : List Effect) (e : Effect) : List Effect :=
  match e with
  | .issue r =>
    match crossed s id es r with
    | some segs =>
      let q := { r with segs := segs }
      let u := r.core / 8
      let hit := r.kind.isRo && s.sel.flag && allHit (tget [] s.ro u) segs
      let data := if r.kind.isRo then roBytes s q hit else loadBytes s q false
      let fills := if hit then [] else segs.map (fun g => if r.kind.isRo then Effect.fillRo g.loc else Effect.fillL1 g.loc)
      fills ++ [.issue { r with fixed := some (data, loadPoison s q (if hit then some (tget [] s.roBad u) else none)) }]
    | none => [e]
  | e => [e]

/-- The bundle with such loads read; one slot alone has none. -/
def fixReads (s : State) (id : Nat) (outs : List SlotOut) : List SlotOut :=
  match outs with
  | [_] => outs
  | _ => let es := outs.flatMap (·.effects); outs.map (fun o => { o with effects := o.effects.flatMap (fixRead s id es) })

/-- Such a load has to follow an access in flight, and its bundle stalls until that is performed (R238, R240). -/
def crossStall (s : State) (id : Nat) (outs : List SlotOut) : Bool :=
  match outs with
  | [_] => false
  | _ =>
    let es := outs.flatMap (·.effects)
    es.any (fun e => match e with
      | .issue r =>
        match crossed s id es r with
        | some segs => heldFill s segs || s.remotes.any (fun q => q.uid = r.uid && (q.kind.acquires || (q.kind.isStore && !r.kind.isRo && samePathByte s q r)))
        | none => false
      | _ => false)

/-- The first trap among the slots, in order. -/
def firstTrap (outs : List SlotOut) (f : SlotOut → Option Trap) : Option Trap := outs.findSome? f

/-- The mark of R358 that a slot's operand reads. A slot whose guard is 0 or whose predicate is all zero reads no operand here, whatever else it does. (DESIGN CHOICE, log 82.) Of several the one made first is reported. (DESIGN CHOICE, log 89.) -/
def markRead (c : Ctx) (o : SlotOut) : Option RegMark :=
  if o.active then c.marks.find? (fun m => o.reads.any (fun r => r.1 = m.cls && r.2.2 = m.num)) else none

/-- The debug check of a slot that fires first: lane by lane, then by cause (R356 step 6, R360). -/
def debugTrap (c : Ctx) (o : SlotOut) : Option Trap :=
  let hits := (o.debug).filter (fun d => c.dbgctl.getLsbD (d.1 - 0x10))
  match hits.foldl (fun (b : Option (Nat × Nat)) d => match b with | none => some d | some x => some (if d.2 < x.2 || (d.2 = x.2 && d.1 < x.1) then d else x)) none with
  | some d => some (trapOf d.1 ((if o.slot = .c then d.2 * 4 else 0) + Slot.num o.slot))
  | none => none

/-- The failure of a store that a trap reports is kept for an ERET to the same bundle (R352), and the next one is the oldest (R359). (DESIGN CHOICE, log 88.) -/
def Ctx.reported (c : Ctx) (t : Trap) : Ctx :=
  if c.storeFail.map (·.1) = some t then { c with storeFail := c.laterFails.head?, laterFails := c.laterFails.tail, told := c.storeFail.map (·, c.pc) } else c

/-- Steps 1 to 4 of R356 after decode: the trap they give, and the state it is taken in. A bundle that blocked at step 5 has them behind it. (DEDUCED, log 7.) -/
def earlyTrap (s : State) (id : Nat) (outs : List SlotOut) : Option (State × Trap) :=
  let c := ctxOf s id
  if c.five then none
  else
    match firstTrap outs (·.priv) with
    | some t => some (s, t)
    | none =>
      match (if c.pendchk then firstTrap outs (pendingTrap s id) else none) with
      | some t => some (s, t)
      | none =>
        match outs.findSome? (markRead c) with
        | some m => some (s, m.trap)
        | none => (firstTrap outs (·.trap)).map (fun t => (modCtx s id (fun c => c.reported t), t))

/-- What follows step 5 of R356, for a context as its bundle found it: poison, the debug checks and the watch range, then a SPAWN's read, stalls, and the commit. A stall leaves the state as it is (R20). -/
def lateChecks (s : State) (c : Ctx) (id : Nat) (outs : List SlotOut) : State :=
  match firstTrap outs (·.poison) with
  | some t => trapCtx s id t
  | none =>
    match firstTrap outs (debugTrap c) with
    | some t => trapCtx s id t
    | none =>
      match firstTrap outs (·.watch) with
      | some t => trapCtx s id t
      | none =>
        match outs.findSome? (·.fetch) with
        | some r => blockCtx (applyEffect s id (.issue r)) id .record
        | none => if outs.any (·.stall) || crossStall s id outs then s else commitOuts s id (fixReads s id outs)

/-- Issues a bundle whose slots have answered: the checks of R356 in order, then blocks and stalls, then the commit. (DEDUCED, log 7; DEDUCED, log 34; DEDUCED, log 60.) -/
def issueOuts (s : State) (id : Nat) (outs : List SlotOut) : State :=
  let c := ctxOf s id
  let marked := markedItems s c.uid
  let touched := outs.flatMap (fun o => o.reads.map (fun r => (r.1, r.2.2)) ++ o.writes)
  let held := marked.filter (fun i => touched.contains i)
  if !held.isEmpty then blockCtx s id (.interlock held)
  else
    match earlyTrap s id outs with
    | some (s, t) => trapCtx s id t
    | none =>
      match outs.findSome? (·.block) with
      | some b => blockCtx s id b
      | none =>
        match checkAccesses s id (outs.flatMap (fun o => o.accs.map (fun a => (Slot.num o.slot, a)))) with
        | (s, .block b) => blockCtx (modCtx s id (fun c => { c with five := true })) id b
        | (s, .trap t) => trapCtx s id t
        | (s, .ok) => lateChecks s c id outs

/-! ### Running a slot instruction -/

/-- The context may issue: it has a task, has not halted, has not ended, waits for no ERET, and is not blocked. -/
def mayIssue (c : Ctx) : Bool := c.running && !c.halted && !c.ending && !c.returning && c.block.isNone

/-- Runs a slot instruction. In a bundle being staged its answer joins the others, all worked out from the state before the bundle (R14). Otherwise it is a bundle of its own, beside empty slots, of the current context of the selected core. (DEDUCED, log 60.) -/
def runSlot (s : State) (f : State → Nat → SlotOut) : Host.Outcome State Fault Refusal :=
  match s.stage with
  | some st => .next { s with stage := some { st with outs := st.outs ++ [f s (ctxId st.core st.ctx)] } }
  | none =>
    let id := ctxId s.sel.core (coreOf s s.sel.core).cur
    if mayIssue (ctxOf s id) then
      let s := landDue s id
      .next (issueOuts s id [f s id])
    else .next s

/-- The item a slot's guard is (R27). -/
def guardItem (g : GReg) : Nat × Nat × Nat := (1, g.toNat, g.toNat)
def sItem (r : SReg) : Nat × Nat × Nat := (0, r.toNat, r.toNat)
def vItem (c : Ctx) (r : VReg) : Nat × Nat × Nat := (2, r.toNat, physV c r.toNat)
def pItem (c : Ctx) (r : PReg) : Nat × Nat × Nat := (3, r.toNat, physP c r.toNat)

/-- A slot under a scalar guard: with the guard 0 it reads the guard alone and does nothing (R13, R27). -/
def guarded (sl : Slot) (opc : Nat) (g : GReg) (c : Ctx) (f : SlotOut → SlotOut) : SlotOut :=
  let o := { SlotOut.idle sl opc with reads := [guardItem g] }
  if readG c g then f { o with active := true } else o

end Sys2Proof.Machine
end

