-- ==== Sys2Proof/Machine/Flags.lean ====
section
/-! DEFINITION. Conditions and what is computed beside a result: the compare conditions (R40, R79, R85), the guard functions (R40, R80), guard pairs (R39, R55), and the integer debug checks (R360, R362). -/

namespace Sys2Proof.Machine

/-- The condition of CMP and CMPI (R40). -/
def condScalar (cc : BitVec 3) (a b : W64) : Bool :=
  match cc.toNat with
  | 0 => a == b
  | 1 => a != b
  | 2 => a.slt b
  | 3 => !(a.slt b)
  | 4 => a.ult b
  | 5 => !(a.ult b)
  | 6 => a &&& b != 0
  | _ => a &&& b == 0

/-- The condition of a float compare on an ordering: `none` is unordered (R40, R85). -/
def condFloat (cc : BitVec 3) (o : Option Ordering) : Bool :=
  match cc.toNat with
  | 0 => o == some .eq
  | 1 => o != some .eq
  | 2 => o == some .lt
  | 3 => o == some .gt || o == some .eq
  | 4 => o == some .lt || o == some .eq
  | 5 => o == some .gt
  | 6 => o == none
  | _ => o != none

/-- A guard function (R40, R80). -/
def guardFn (fn : BitVec 3) (a b : Bool) : Bool :=
  match fn.toNat with
  | 0 => a && b
  | 1 => a || b
  | 2 => a != b
  | 3 => a && !b
  | 4 => a || !b
  | 5 => !(a && b)
  | 6 => !(a || b)
  | _ => !(a != b)

/-- A condition written to a guard pair with its complement (R39); pair field 0 discards it and falls back (R55). -/
def pairEffects (lat : Nat) (j : BitVec 3) (v : Bool) : List Effect :=
  if j = 0 then [.warnFallback] else [.result lat (.guard (2 * j.toNat) v), .result lat (.guard (2 * j.toNat + 1) (!v))]
def pairItems (j : BitVec 3) : List (Nat × Nat) := if j = 0 then [] else [(1, 2 * j.toNat), (1, 2 * j.toNat + 1)]
def pairDebug (j : BitVec 3) : List (Nat × Nat) := if j = 0 then [(0x1C, 0)] else []

/-- A scalar result; a write of s0 is discarded (R9). -/
def scalarEffects (lat : Nat) (d : SReg) (v : W64) : List Effect := if d = 0 then [] else [.result lat (.scalar d.toNat v)]
def scalarItems (d : SReg) : List (Nat × Nat) := if d = 0 then [] else [(0, d.toNat)]

/-- A debug check that fires, in lane 0. -/
def fires (cause : Nat) (b : Bool) : List (Nat × Nat) := if b then [(cause, 0)] else []

/-- The fallback warning of an instruction that executes, with the debug check it makes (R55, R56, R360). -/
def fellBack (fallback : Bool) (o : SlotOut) : SlotOut :=
  if fallback then { o with effects := o.effects ++ [.warnFallback], debug := o.debug ++ [(0x1C, 0)] } else o

/-- What results met in a lane: the saturation warning with its check, and the debug checks (R112, R360). -/
def checked (lane : Nat) (sat : Bool) (causes : List Nat) (o : SlotOut) : SlotOut :=
  { o with effects := o.effects ++ (if sat then [.warnSat] else []), debug := o.debug ++ causes.map (fun c => (c, lane)) ++ (if sat then [(0x1B, lane)] else []) }

/-- The exact signed result does not fit 64 bits (INT_OVERFLOW, R362). -/
def wraps64 (x : Int) : Bool := decide (x < -(2 ^ 63)) || decide (2 ^ 63 ≤ x)

end Sys2Proof.Machine
end

