-- ==== Sys2Proof/Machine/Operands.lean ====
section
/-! DEFINITION. The memory operand forms of the slots: offsets (R87, R218, R219), the checks of R217 steps 1 to 4, local reads and writes, and the accesses a slot issues. -/

namespace Sys2Proof.Machine

/-! ### Order among a context's accesses (R240) -/

/-- An acquire of the context is in flight: its later accesses wait (R240). -/
def acquiring (s : State) (uid : Nat) : Bool := s.remotes.any (fun r => r.uid = uid && r.kind.acquires)

/-- The trap that a DRAIN, FENCE or release takes for an earlier failed store or atomic that its scope covers (R359). -/
def lateTrap (c : Ctx) (scope : Nat) : Option Trap :=
  match c.storeFail with
  | some (t, n) => if n ≤ scope then some t else none
  | none => none

/-! ### Offsets and checks -/

/-- The byte offset of an LS operand: s[sa] + imm × scale, modulo 2^64 (R87). -/
def offsetLS (c : Ctx) (sa : SReg) (imm scale : Nat) : Nat := ((readS c sa).toNat + imm * scale) % 2 ^ 64

/-- The context's partition, core and launch, for an access it makes. -/
def mkRemote (s : State) (id slot h off : Nat) (ranges : List (Nat × Nat)) (kind : RKind) : Remote :=
  let c := ctxOf s id
  { id := 0, uid := c.uid, core := id / 4, part := partOfCore s (id / 4), launch := c.launch, kind := kind, slot := slot, h := h, hk := readH c h, off := off,
    ranges := ranges, segs := [], since := 0, trapped := c.mode }

/-- The checks of R217 steps 1 to 4 over the elements of an access: each element at a multiple of `align`, every byte inside the extent. (DEDUCED, log 15.) -/
def checkOperand (s : State) (id slot h : Nat) (needTensor : Bool) (align alignCause : Nat) (elems : List (Nat × Nat)) : Option Trap :=
  let c := ctxOf s id
  let hk := readH c h
  let off0 := (elems.headD (0, 0)).1
  if hk.kind = .unbound then some (accTrap 0x23 slot h hk off0)
  else if needTensor && hk.kind != .tensor then some (accTrap 0x2B slot h hk off0)
  else
    match elems.find? (fun e => e.1 % align != 0) with
    | some e => some (accTrap alignCause slot h hk e.1)
    | none =>
      match extentOf s (id / 4) (partOfCore s (id / 4)) hk with
      | none => some (accTrap 0x35 slot h hk off0)
      | some ext =>
        match elems.find? (fun e => decide (ext < e.1 + e.2)) with
        | some e => some (accTrap 0x24 slot h hk (max e.1 ext))
        | none => none

/-- WATCHPOINT of an access through the watched handle (R360); a range whose first offset lies above its last is empty. -/
def watchTrap (s : State) (id slot h : Nat) (elems : List (Nat × Nat)) : Option Trap :=
  let c := ctxOf s id
  if c.dbgctl.getLsbD 19 && (c.dbgctl.toNat / 2 ^ 20 % 16 = h) && decide (c.watchlo.toNat ≤ c.watchhi.toNat) then
    match elems.find? (fun e => e.2 != 0 && decide (e.1 ≤ c.watchhi.toNat) && decide (c.watchlo.toNat < e.1 + e.2)) with
    | some e => some (accTrap 0x0D slot h (readH c h) (max e.1 c.watchlo.toNat))
    | none => none
  else none

/-- Bytes of the executing core's scratchpad as the context reads them. -/
def localBytes (s : State) (id off len : Nat) : List Byte := (List.range len).map (fun i => readScr s (id / 4) (off + i) (ctxOf s id).launch)

/-- POISON_CONSUMED of a local load (R358, R370). -/
def localPoison (s : State) (id slot : Nat) (elems : List (Nat × Nat)) : Option Trap :=
  let bad := elems.findSome? (fun e => ((List.range e.2).find? (fun i => poisoned s (.scr (id / 4) (e.1 + i)))).map (fun i => e.1 + i))
  bad.map (fun off => accTrap 0x2D slot 0 ⟨.scratch, 0, 0, 0, 0⟩ off)

/-- The scratchpad words a local load reads (R27). -/
def wordsOf (elems : List (Nat × Nat)) : List Nat := elems.flatMap (fun e => (List.range ((e.1 % 4 + e.2 + 3) / 4)).map (fun i => e.1 / 4 * 4 + 4 * i))

/-- The access of a slot that goes through residency and translation (R356 step 5); windows need none. -/
def accessOf (s : State) (id h need : Nat) (elems : List (Nat × Nat)) : List Access :=
  let hk := readH (ctxOf s id) h
  if hk.kind = .tensor then [⟨h, hk, elems, need⟩] else []

/-- Sign- or zero-extends the bytes a scalar load reads (R87). -/
def extendLoad (data : List Byte) (signed : Bool) : W64 :=
  if signed then BitVec.ofInt 64 (sextNat (8 * data.length) (leNat data)) else BitVec.ofNat 64 (leNat data)

/-- A scalar load (R87, R88): local through h0 with latency 4, else interlocked. (DEDUCED, log 9.) -/
def loadOut (sl : Slot) (opc : Nat) (g : GReg) (sd : SReg) (h : HReg) (sa : SReg) (imm size : Nat) (signed : Bool) (s : State) (id : Nat) : SlotOut :=
  let c := ctxOf s id
  guarded sl opc g c (fun o =>
    let off := offsetLS c sa imm size
    let n := h.toNat
    let elems := [(off, size)]
    let o := { o with reads := o.reads ++ [sItem sa, (8, n, n)], writes := scalarItems sd, trap := checkOperand s id (Slot.num sl) n false size 0x25 elems, watch := watchTrap s id (Slot.num sl) n elems }
    if n = 0 then
      { o with words := wordsOf elems, poison := localPoison s id (Slot.num sl) elems, stall := acquiring s c.uid, effects := scalarEffects Config.latLoad sd (extendLoad (localBytes s id off size) signed) }
    else
      { o with accs := accessOf s id n 1 elems, effects := [.issue (mkRemote s id (Slot.num sl) n off elems (.load 0 sd.toNat size 0 signed false 0))] })

/-- A scalar store (R87, R88): performed with its bundle through h0, else remote. -/
def storeOut (sl : Slot) (opc : Nat) (g : GReg) (ss : SReg) (h : HReg) (sa : SReg) (imm size : Nat) (s : State) (id : Nat) : SlotOut :=
  let c := ctxOf s id
  guarded sl opc g c (fun o =>
    let off := offsetLS c sa imm size
    let n := h.toNat
    let elems := [(off, size)]
    let data := leBytes (readS c ss).toNat size
    let o := { o with reads := o.reads ++ [sItem ss, sItem sa, (8, n, n)], trap := checkOperand s id (Slot.num sl) n false size 0x25 elems, watch := watchTrap s id (Slot.num sl) n elems }
    if n = 0 then { o with stall := acquiring s c.uid, effects := [.localStore off data] }
    else { o with accs := accessOf s id n 2 elems, effects := [.issue (mkRemote s id (Slot.num sl) n off elems (.store data))] })

/-! ### Vector operands (R218, R219) -/

/-- Bytes, lanes and offset alignment of a mode of R218: `splat` is mode 4. -/
def blockBytes (mode : BitVec 3) : Nat :=
  match mode.toNat with
  | 0 => 512
  | 1 => 256
  | 2 => 128
  | 3 => 32
  | _ => 4
def blockAlign (mode : BitVec 3) : Nat := if mode.toNat = 4 then 4 else 32

/-- Element size of a strided mode (R219). -/
def strideBytes (mode : BitVec 3) : Nat :=
  match mode.toNat with
  | 0 => 4
  | 1 => 32
  | _ => 128

/-- The elements of a contiguous block operand (R218). -/
def blockElems (c : Ctx) (sa : SReg) (imm : Nat) (mode : BitVec 3) : List (Nat × Nat) := [(((readS c sa).toNat + imm * 512) % 2 ^ 64, blockBytes mode)]

/-- The elements of a strided operand (R219). -/
def strideElems (c : Ctx) (sa : SReg) (imm : Nat) (mode : BitVec 3) : List (Nat × Nat) :=
  let w := (readS c sa).toNat
  let base := (w % 2 ^ 32 + imm * 512) % 2 ^ 64
  let stride := sextNat 32 (w / 2 ^ 32)
  let e := strideBytes mode
  (List.range (512 / e)).map (fun g => (((Int.ofNat base + Int.ofNat g * stride) % (2 ^ 64 : Int)).toNat, e))

/-- The word vector that bytes give, lane by lane from lane 0; `splat` repeats one word in every lane (R218). -/
def vectorOf (data : List Byte) (splat : Bool) : VWord :=
  if splat then BitVec.ofNat 4096 ((List.range 128).foldl (fun a _ => a * 2 ^ 32 + leNat (data.take 4)) 0)
  else BitVec.ofNat 4096 (leNat data)

/-- The bits of lanes 0 to `n` − 1. -/
def lanesMask (n : Nat) : VWord := BitVec.ofNat 4096 (2 ^ (32 * n) - 1)

/-- A vector access in the pieces that are single-copy atomic, its sectors or smaller elements (R241): offset, length and first lane. -/
def sectorParts (elems : List (Nat × Nat)) (lane : Nat) : List (Nat × Nat × Nat) :=
  match elems with
  | [] => []
  | (off, n) :: r => (if n ≤ 32 then [(off, n, lane)] else (List.range (n / 32)).map (fun i => (off + 32 * i, 32, lane + 8 * i))) ++ sectorParts r (lane + n / 4)

/-- A vector load (R218 to R220): `ro` goes through the read-only path. -/
def vloadOut (opc : Nat) (g : GReg) (vd : VReg) (h : HReg) (sa : SReg) (align : Nat) (elems : List (Nat × Nat)) (splat ro : Bool) (s : State) (id : Nat) : SlotOut :=
  let c := ctxOf s id
  guarded .b opc g c (fun o =>
    let n := h.toNat
    let d := physV c vd.toNat
    let total := (elems.map (·.2)).sum
    let lanes := if splat then 128 else total / 4
    let o := { o with reads := o.reads ++ [sItem sa, (8, n, n)], writes := [(2, d)], trap := checkOperand s id 1 n ro align 0x25 elems, watch := watchTrap s id 1 n elems }
    if n = 0 then
      { o with words := wordsOf elems, poison := localPoison s id 1 elems, stall := acquiring s c.uid, effects := [.result Config.latLoad (.vec d (lanesMask lanes) (vectorOf (elems.flatMap (fun e => localBytes s id e.1 e.2)) splat))] }
    else
      { o with accs := accessOf s id n 1 elems, effects := (sectorParts elems 0).zipIdx.map (fun p => .issue { mkRemote s id 1 n p.1.1 [(p.1.1, p.1.2.1)] (if ro then .roLoad 2 d p.1.2.1 p.1.2.2 splat else .load 2 d p.1.2.1 p.1.2.2 false splat 0) with piece := p.2 }) })

/-- The bytes of a vector register, lane by lane. -/
def vectorBytes (v : VWord) (n : Nat) : List Byte := leBytes v.toNat n

/-- The stores of a strided access, element by element in rising order (R219). -/
def elemStores (elems : List (Nat × Nat)) (data : List Byte) : List Effect :=
  match elems with
  | [] => []
  | (off, n) :: r => .localStore off (data.take n) :: elemStores r (data.drop n)

/-- A vector store (R218, R219). -/
def vstoreOut (opc : Nat) (g : GReg) (vs : VReg) (h : HReg) (sa : SReg) (align : Nat) (elems : List (Nat × Nat)) (s : State) (id : Nat) : SlotOut :=
  let c := ctxOf s id
  guarded .b opc g c (fun o =>
    let n := h.toNat
    let total := (elems.map (·.2)).sum
    let data := vectorBytes (readV c vs) total
    let o := { o with reads := o.reads ++ [vItem c vs, sItem sa, (8, n, n)], trap := checkOperand s id 1 n false align 0x25 elems, watch := watchTrap s id 1 n elems }
    if n = 0 then { o with stall := acquiring s c.uid, effects := elemStores elems data }
    else { o with accs := accessOf s id n 2 elems, effects := (sectorParts elems 0).zipIdx.map (fun p => .issue { mkRemote s id 1 n p.1.1 [(p.1.1, p.1.2.1)] (.store ((data.drop (4 * p.1.2.2)).take p.1.2.1)) with piece := p.2 }) })

end Sys2Proof.Machine
end

