-- ==== Sys2Proof/Machine/Control.lean ====
section
/-! DEFINITION. Slot A: branches and loops (R89 to R93), segments, traps and modes (R95 to R98), system registers (R99, R100 and the tables that extend them), SPAWN and END (R175, R176), and the token instructions (R279 to R281). -/

namespace Sys2Proof.Machine

/-! ### Branches (R89, R90) -/

/-- A taken control transfer with its hint (R31, R55): hint 11 acts as 00. -/
def jumpOut (opc : Nat) (g : GReg) (hint : BitVec 2) (reads : List (Nat × Nat × Nat)) (target : Ctx → Pc) (f : SlotOut → SlotOut) (s : State) (id : Nat) : SlotOut :=
  let c := ctxOf s id
  guarded .a opc g c (fun o => fellBack (hint == 3) (f { o with reads := o.reads ++ reads, effects := [.jump (target c)] }))

/-- The target of a displacement (R89). -/
def dispTarget (c : Ctx) (disp : BitVec 19) : Pc := c.pc + disp.truncate 18

/-- BR (R89). -/
def execBr (g : GReg) (hint : BitVec 2) (disp : BitVec 19) (s : State) : Host.Outcome State Fault Refusal :=
  runSlot s (jumpOut 0x50 g hint [] (fun c => dispTarget c disp) id)
/-- CALL (R89): the link goes to s31. -/
def execCall (g : GReg) (hint : BitVec 2) (disp : BitVec 19) (s : State) : Host.Outcome State Fault Refusal :=
  runSlot s (fun s i => jumpOut 0x51 g hint [] (fun c => dispTarget c disp)
    (fun o => { o with writes := [(0, 31)], effects := o.effects ++ [.result 1 (.scalar 31 (((ctxOf s i).pc + 1).zeroExtend 64))] }) s i)
/-- RET (R89). -/
def execRet (g : GReg) (hint : BitVec 2) (s : State) : Host.Outcome State Fault Refusal :=
  runSlot s (jumpOut 0x52 g hint [sItem 31] (fun c => (readS c 31).truncate 18) id)
/-- JR (R89). -/
def execJr (g : GReg) (hint : BitVec 2) (sa : SReg) (s : State) : Host.Outcome State Fault Refusal :=
  runSlot s (jumpOut 0x53 g hint [sItem sa] (fun c => (readS c sa).truncate 18) id)

/-! ### Loops (R91 to R93) -/

/-- The stages of LOOPS (R91). -/
def loopStages (ec : BitVec 8) : Nat := max ec.toNat 1
/-- The trip count of LOOPS, clamped (R91). -/
def loopTrips (n e : Nat) : Nat := min n (2 ^ 32 - e + 1)

/-- LOOPS (R91). -/
def execLoops (g : GReg) (pair : BitVec 3) (sa : SReg) (ec : BitVec 8) (s : State) : Host.Outcome State Fault Refusal :=
  runSlot s (fun s id =>
    let c := ctxOf s id
    guarded .a 0x54 g c (fun o =>
      let n := (readS c sa).toNat
      let e := loopStages ec
      let t := loopTrips n e
      let p8 := physP c 8
      let o := { o with
        reads := o.reads ++ [sItem sa], writes := [(6, 0), (6, 1), (3, p8)] ++ pairItems pair, debug := pairDebug pair,
        effects := [.result 1 (.lc (BitVec.ofNat 32 (if n = 0 then 0 else t + e - 2))), .result 1 (.ec (BitVec.ofNat 8 (if n = 0 then 0 else e - 1))),
          .result 1 (.pred p8 (BitVec.allOnes 128) (if n = 0 then 0 else BitVec.allOnes 128))] ++ pairEffects 1 pair (n == 0) }
      checked 0 (decide (t < n)) [] o))

/-- LOOPR (R92): the next pass under rotated names; its p8 stands over a slot-C write of the same predicate. -/
def execLoopr (g : GReg) (hint : BitVec 2) (disp : BitVec 19) (s : State) : Host.Outcome State Fault Refusal :=
  runSlot s (fun s id =>
    let c := ctxOf s id
    guarded .a 0x55 g c (fun o =>
      let prb := c.prb - 1
      let p8 := 8 + prb.toNat
      let lc := c.lc - 1
      let o := { o with writes := [(6, 0), (6, 2), (6, 3), (3, p8)] }
      fellBack (hint == 3)
        (if c.lc = 0 then o
         else { o with effects := [.jump (dispTarget c disp), .result 1 (.lc lc), .result 1 (.vrb (c.vrb - 1)), .result 1 (.prb prb),
                  .resultLate (.pred p8 (BitVec.allOnes 128) (if c.ec.toNat ≤ lc.toNat then BitVec.allOnes 128 else 0))] })))

/-- LOOPC (R93). -/
def execLoopc (g : GReg) (hint : BitVec 2) (disp : BitVec 19) (s : State) : Host.Outcome State Fault Refusal :=
  runSlot s (fun s id =>
    let c := ctxOf s id
    guarded .a 0x56 g c (fun o =>
      let o := { o with writes := [(6, 0)] }
      fellBack (hint == 3) (if c.lc = 0 then o else { o with effects := [.jump (dispTarget c disp), .result 1 (.lc (c.lc - 1))] })))

/-! ### Segments, traps and modes (R95 to R98) -/

/-- The segment is in instruction memory or on its way (R95). -/
def segmentKnown (k : Core) (ktab n : Nat) : Bool := k.frames.any (fun e => e.2.ktab = ktab && e.2.seg = n && !e.2.code.isEmpty) || k.copying.any (fun y => y.ktab = ktab && y.seg = n)

/-- SEGMARK (R95). A table that cannot be read gives no copy; the fetch meets that failure. -/
def execSegmark (g : GReg) (n : BitVec 6) (s : State) : Host.Outcome State Fault Refusal :=
  runSlot s (fun s id =>
    guarded .a 0x5A g (ctxOf s id) (fun o =>
      if segmentKnown (coreOf s (id / 4)) (ktabOf s id) n.toNat then o
      else
        match segEntry s (partOfCore s (id / 4)) (ktabOf s id) n.toNat with
        | .error t => if t.cause = 0x0B then o else { o with trap := some t }
        | .ok _ => { o with effects := [.segCopy n.toNat] }))

/-- TRAP (R96). -/
def execTrap (g : GReg) (n : BitVec 16) (s : State) : Host.Outcome State Fault Refusal :=
  runSlot s (fun s id => guarded .a 0x5B g (ctxOf s id) (fun o => { o with trap := some (trapOf 0x08 n.toNat) }))
/-- BKPT (R96). -/
def execBkpt (g : GReg) (n : BitVec 16) (s : State) : Host.Outcome State Fault Refusal :=
  runSlot s (fun s id => guarded .a 0x5F g (ctxOf s id) (fun o => { o with trap := some (trapOf 0x00 n.toNat) }))

/-- PRIVILEGED: an instruction or register that task mode may not use (R33, R362). -/
def privTrap (c : Ctx) (sl : Slot) (opc : Nat) : Option Trap := if c.mode then none else some (trapOf 0x05 (opc * 2 ^ 13 + Slot.num sl))

/-- ERET (R24, R97): at its commit it waits for the interlocked results of the handler. -/
def execEret (g : GReg) (s : State) : Host.Outcome State Fault Refusal :=
  runSlot s (fun s id =>
    let c := ctxOf s id
    guarded .a 0x5C g c (fun o => { o with priv := privTrap c .a 0x5C, effects := [.eret] }))
/-- IDLE (R98): it blocks until a wake notice comes; one that is kept lets it through. -/
def execIdle (g : GReg) (s : State) : Host.Outcome State Fault Refusal :=
  runSlot s (fun s id =>
    let c := ctxOf s id
    guarded .a 0x62 g c (fun o => { o with priv := privTrap c .a 0x62, block := if c.wake then none else some .wake, effects := [.sleep] }))

/-! ### System registers (R99, R100, R186, R215, R271, R283, R361, R377, R392, R420) -/

def bit (b : Bool) (i : Nat) : Nat := if b then 2 ^ i else 0

/-- CTXSTAT (R11). -/
def ctxstat (c : Ctx) (x : Nat) : Nat :=
  bit c.warnSat 15 + bit c.warnFallback 14 + bit c.trapq 9 + bit c.halted 8 + x % 4 * 16 + bit c.pendchk 1 + bit c.mode 0

/-- MSTAT (R270). NARROW reads 0 while the array runs no call, under the alarm too. (DESIGN CHOICE, log 86.) -/
def mstat (s : State) (id : Nat) : Nat :=
  let c := ctxOf s id
  let k := coreOf s (id / 4)
  let tileBit (f : Nat → Bool) (lo : Nat) : Nat := ((List.range 4).map (fun t => bit (f t) (lo + t))).sum
  let names (o : EngineOp) (t : Nat) : Bool := if o.opc = 1 then bitsOf (tget 0 o.m 0).toNat 12 2 = t else o.opc = 2 && o.x = t
  (k.pool.filter (fun e => e.uid = c.uid)).length * 2 ^ 20 + k.pool.length * 2 ^ 16
    + tileBit (fun t => k.queue.any (fun o => names o t) || (match k.mcall with | some r => names r.op t | none => false)) 12
    + tileBit (fun t => (tget Tile.free k.tiles t).owner = some c.uid) 8
    + bit (match k.mcall with | some r => (tget 0 r.op.m 0).getLsbD 15 | none => false) 2
    + bit (tget Die.fresh s.dies (dieOfCore (id / 4))).alarm 1
    + bit (match k.mcall with | some r => r.narrow | none => false) 0

/-- What MPDATA reads (R271). -/
def microData (k : Core) : Nat :=
  let a := k.mpaddr.toNat
  if a < 1024 then (tget 0 k.store a).toNat
  else if a < 1029 then 2 ^ 63
  else if a < 1040 then 0
  else if a < 1152 then (tget 0 k.rtable (a - 1024)).toNat
  else 0

/-- The slot of a group in an operator: its entry when the slot is valid (R178). -/
def groupSlot (s : State) (id i : Nat) : Option Nat :=
  match opOf s (ctxOf s id).op with
  | some o => if o.gvalid.testBit i then some (o.group.getD i 0) else none
  | none => none

/-- The devices of a partition's domain map, this one included; none on a device outside any domain, which has DEVNUM 0xFF (R420). -/
def domainSize (s : State) (p : Partition) : Nat := if s.devnum = 0xFF then 0 else p.map.length + (if (tfind p.map s.devnum).isSome then 0 else 1)

/-- The value of a system register, zero-extended; reserved bits read 0 (R7). -/
def sysValue (s : State) (id n : Nat) : Nat :=
  let c := ctxOf s id
  let core := id / 4
  let k := coreOf s core
  let p := partOf s (partOfCore s core)
  let r := ringOf s (core / 8 * 64 + k.ringsel.toNat)
  let op := (opOf s c.op).getD (recipeOperator 0 .none (parseRecipe []) 0)
  if n = 0x00 then ctxstat c id
  else if n = 0x01 then c.cause.toNat
  else if n = 0x02 then c.epc.toNat
  else if n = 0x03 then c.tvec.toNat
  else if n = 0x04 then c.fhandle.toNat
  else if n = 0x05 then c.foffset.toNat
  else if 0x08 ≤ n && n ≤ 0x0B then (tget 0 c.hsave (n - 8)).toNat
  else if n = 0x10 then c.lc.toNat
  else if n = 0x11 then c.ec.toNat
  else if n = 0x12 then c.vrb.toNat
  else if n = 0x13 then c.prb.toNat
  else if n = 0x20 then p.ageq.toNat
  else if n = 0x21 then p.wincoal.toNat
  else if n = 0x22 then p.wdepth
  else if n = 0x23 then mstat s id
  else if n = 0x30 then s.cycle % 2 ^ 64
  else if 0x100 ≤ n && n ≤ 0x10F then (match op.args[n - 0x100]? with | some a => a.1 % 4 * 2 ^ 20 + a.2 % 2 ^ 20 | none => 0)
  else if n = 0x110 then op.seq.toNat
  else if n = 0x111 then op.gvalid % 16 * 2 ^ 32 + leNat (op.group.map (fun g => BitVec.ofNat 8 g))
  else if 0x112 ≤ n && n ≤ 0x115 then (match groupSlot s id (n - 0x112) with | some g => (groupOf s g).gen.toNat | none => 0)
  else if n = 0x116 then c.tclass
  else if 0x117 ≤ n && n ≤ 0x11A then (match groupSlot s id (n - 0x117) with | some _ => op.base.getD (n - 0x117) 0 | none => 0)
  else if n = 0x120 then splitOf s (core / 8)
  else if n = 0x121 then (Config.tarnret (dieOfCore core)).toNat
  else if n = 0x122 then Config.tarnbus core
  else if n = 0x123 then (p.migctl &&& 0x80FFFFFF).toNat
  else if n = 0x130 then k.mpaddr.toNat
  else if n = 0x131 then microData k
  else if n = 0x140 then k.ringsel.toNat
  else if n = 0x141 then r.cfg.toNat
  else if n = 0x142 then r.win.toNat
  else if n = 0x143 then r.write.toNat * 2 ^ 32 + r.read.toNat
  else if n = 0x150 then c.dbgctl.toNat
  else if n = 0x151 then c.watchlo.toNat
  else if n = 0x152 then c.watchhi.toNat
  else if n = 0x153 then p.flttmo.toNat
  else if n = 0x154 then k.errcnt.toNat
  else if n = 0x160 then p.wcspill.toNat
  else if n = 0x161 then p.wcfill.toNat
  else if n = 0x162 then p.wccomp.toNat
  else if n = 0x163 then p.wcrecomp.toNat
  else if n = 0x170 then (p.prectl &&& 0x8000FFFF).toNat
  else if n = 0x171 then partOfCore s core
  else if n = 0x172 then p.slices.toNat
  else if n = 0x180 then s.devnum
  else if n = 0x181 then domainSize s p
  else if n = 0x182 then p.domtmo.toNat
  else if n = 0x183 then p.resizetmo.toNat
  else 0

/-- The registers that task mode may not read (R99, R271, R283, R377). -/
def supervisorOnly (n : Nat) : Bool := n = 0x03 || (0x08 ≤ n && n ≤ 0x0B) || n = 0x130 || n = 0x131 || (0x140 ≤ n && n ≤ 0x143) || n = 0x164 || n = 0x165

/-- The registers whose read is interlocked (R100, R186, R215, R361). -/
def interlockedSys (n : Nat) : Bool := (0x20 ≤ n && n ≤ 0x23) || (0x112 ≤ n && n ≤ 0x115) || n = 0x120 || n = 0x123 || n = 0x153

/-- A scalar that arrives under the scoreboard, its value fixed when the bundle issues (R23). -/
def arriving (s : State) (id : Nat) (d : SReg) (v : W64) : List Effect := if d = 0 then [] else [.scoreboard (mkRemote s id 0 0 0 [] (.value [.scalar d.toNat v]))]

/-- SYSRD (R99, R100). (DESIGN CHOICE, log 26.) -/
def execSysrd (g : GReg) (sd : SReg) (n : BitVec 16) (s : State) : Host.Outcome State Fault Refusal :=
  runSlot s (fun s id =>
    let c := ctxOf s id
    guarded .a 0x5D g c (fun o =>
      let v : W64 := BitVec.ofNat 64 (sysValue s id n.toNat)
      { o with priv := if supervisorOnly n.toNat then privTrap c .a 0x5D else none, writes := scalarItems sd,
               effects := if interlockedSys n.toNat then arriving s id sd v else scalarEffects 1 sd v }))

/-- SYSWR of the registers with a plain write (R99, R100): in task mode only the W1C bits of CTXSTAT may be written. -/
def execSyswr (g : GReg) (ss : SReg) (n : BitVec 16) (s : State) : Host.Outcome State Fault Refusal :=
  runSlot s (fun s id =>
    let c := ctxOf s id
    guarded .a 0x5E g c (fun o =>
      { o with priv := if n = 0 then none else privTrap c .a 0x5E, reads := o.reads ++ [sItem ss], effects := [.sysreg n.toNat (readS c ss)] }))

/-- SYSWR of MPDATA (R271): it stalls until no MCALL of the core is running or queued. -/
def execMpdataWrite (g : GReg) (ss : SReg) (s : State) : Host.Outcome State Fault Refusal :=
  runSlot s (fun s id =>
    let c := ctxOf s id
    let k := coreOf s (id / 4)
    guarded .a 0x5E g c (fun o =>
      { o with priv := privTrap c .a 0x5E, reads := o.reads ++ [sItem ss],
               stall := k.queue.any (fun q => q.opc = 1) || (match k.mcall with | some r => r.op.opc = 1 | none => false),
               effects := [.micro k.mpaddr.toNat (readS c ss)] }))

/-- SYSWR of RINGCFG (R284). -/
def execRingcfgWrite (g : GReg) (ss : SReg) (s : State) : Host.Outcome State Fault Refusal :=
  runSlot s (fun s id =>
    let c := ctxOf s id
    guarded .a 0x5E g c (fun o =>
      { o with priv := privTrap c .a 0x5E, reads := o.reads ++ [sItem ss], effects := [.ringCfg (id / 4 / 8 * 64 + (coreOf s (id / 4)).ringsel.toNat) (readS c ss)] }))

/-- An update of a tensor record that the context has made is on its way to its home (R405). -/
def updating (s : State) (uid : Nat) : Bool := s.remotes.any (fun r => r.uid = uid && r.kind.isUpdate)

/-- SYSWR of WPIN or WUNPIN (R377): the update follows the context's earlier ones (R405). -/
def pinOut (up : Bool) (g : GReg) (ss : SReg) (s : State) (id : Nat) : SlotOut :=
  let c := ctxOf s id
  guarded .a 0x5E g c (fun o =>
    let tid := (readS c ss).toNat % 2 ^ 20
    let trap := match tensorOf s (partOfCore s (id / 4)) tid with
      | none => some (idTrap 0x58 tid)
      | some t => let n := pinCount s (partOfCore s (id / 4)) t; if up && decide (65535 ≤ n) then some (idTrap 0x51 tid) else if !up && n = 0 then some (idTrap 0x52 tid) else none
    { o with priv := privTrap c .a 0x5E, reads := o.reads ++ [sItem ss], trap := trap, stall := updating s c.uid, effects := [.pin tid up] })

/-- SYSWR of WPIN (R377). -/
def execWpinWrite (g : GReg) (ss : SReg) (s : State) : Host.Outcome State Fault Refusal := runSlot s (pinOut true g ss)
/-- SYSWR of WUNPIN (R377). -/
def execWunpinWrite (g : GReg) (ss : SReg) (s : State) : Host.Outcome State Fault Refusal := runSlot s (pinOut false g ss)

/-! ### SPAWN and END (R175, R176) -/

/-- What a SPAWN does with the record it has read (R175): its push is held behind the context's earlier stores and atomics; a reserved field fails the operator. -/
def spawnEffect (s : State) (id : Nat) (data : List Byte) : Effect :=
  match parseTask data with
  | (_, some d) => .badTask d
  | (t, none) => .spawn (mkRemote s id 0 0 0 [] (.spawn (id % 4) { t with op := (ctxOf s id).op }))

/-- SPAWN (R175): a record in the local scratchpad is read as a local load; one through another handle is an interlocked load, which the bundle waits for before it commits. -/
def execSpawn (g : GReg) (h : HReg) (sa : SReg) (imm : BitVec 7) (s : State) : Host.Outcome State Fault Refusal :=
  runSlot s (fun s id =>
    let c := ctxOf s id
    guarded .a 0x57 g c (fun o =>
      let n := h.toNat
      let off := offsetLS c sa imm.toNat 32
      let elems := [(off, 32)]
      let o := { o with reads := o.reads ++ [sItem sa, (8, n, n)], trap := (checkOperand s id 0 n false 32 0x25 elems).or (lateTrap c 4), watch := watchTrap s id 0 n elems }
      if n = 0 then
        { o with words := wordsOf elems, poison := localPoison s id 0 elems, stall := acquiring s c.uid, effects := [spawnEffect s id (localBytes s id off 32)] }
      else
        match c.spawned with
        | some (0, _, data) => { o with effects := [spawnEffect s id data] }
        | some (cause, at', _) => { o with poison := some (accTrap cause 0 n (readH c n) at') }
        | none => { o with accs := accessOf s id n 1 elems, fetch := some (mkRemote s id 0 n off elems .record) }))

/-- END (R176). -/
def execEndTask (g : GReg) (s : State) : Host.Outcome State Fault Refusal :=
  runSlot s (fun s id =>
    let c := ctxOf s id
    guarded .a 0x58 g c (fun o => { o with block := if c.k.any (fun e => e.2.st == .pend) then some .tokens else none, effects := [.finish] }))

/-! ### Tokens (R279 to R281) -/

/-- The causes whose traps write FHANDLE and FOFFSET: those whose detail the table of R362 marks h, and RECIPE_FAULTED (R354). -/
def recordsAccess (cause : Nat) : Bool := [0x0D, 0x20, 0x21, 0x22, 0x23, 0x24, 0x25, 0x26, 0x27, 0x28, 0x29, 0x2B, 0x2C, 0x2D, 0x2E, 0x2F, 0x30, 0x31, 0x32, 0x33, 0x35, 0x37, 0x38, 0x39, 0x3A, 0x44, 0x45, 0x49, 0x54].contains cause

/-- WAITK (R279): a faulted token traps with its stored cause and detail, and where the cause records an access (R354) with its handle and offset. (DEDUCED, log 32.) -/
def execWaitk (g : GReg) (k : KReg) (s : State) : Host.Outcome State Fault Refusal :=
  runSlot s (fun s id =>
    let c := ctxOf s id
    guarded .a 0x59 g c (fun o =>
      let t := readK c k.toNat
      match t.st with
      | .pend => { o with block := some (.token k.toNat) }
      | .fault => { o with trap := some ⟨t.fr.cause, t.fr.detail, if recordsAccess t.fr.cause then some (t.fr.kind, t.fr.handle, t.fr.tid, t.fr.offset) else none, true⟩ }
      | _ => o))

def TokState.code (t : TokState) : Nat :=
  match t with
  | .free => 0
  | .pend => 1
  | .done => 2
  | .fault => 3

/-- KSTAT's value (R280). -/
def kstatValue (s : State) (t : Token) : Nat :=
  let parked := t.st == .pend && s.streams.any (fun r => r.op.id = t.prod && r.parked.isSome)
  (if t.st == .fault then t.fr.detail % 2 ^ 24 * 2 ^ 32 + t.fr.cause % 128 * 2 ^ 8 else 0)
    + (if t.st == .fault || t.st == .done then t.fr.aux % 2 ^ 16 * 2 ^ 16 else 0) + bit parked 2 + t.st.code

/-- KSTAT (R280). -/
def execKstat (g : GReg) (sd : SReg) (k : KReg) (s : State) : Host.Outcome State Fault Refusal :=
  runSlot s (fun s id =>
    let c := ctxOf s id
    guarded .a 0x60 g c (fun o => { o with writes := scalarItems sd, effects := arriving s id sd (BitVec.ofNat 64 (kstatValue s (readK c k.toNat))) }))

/-- KCLR (R281). -/
def execKclr (g : GReg) (k : KReg) (s : State) : Host.Outcome State Fault Refusal :=
  runSlot s (fun s id =>
    let c := ctxOf s id
    guarded .a 0x61 g c (fun o =>
      if k = 0 then o
      else { o with block := if (readK c k.toNat).st == .pend then some (.token k.toNat) else none, writes := [(4, k.toNat)], effects := [.token k.toNat .free] }))

end Sys2Proof.Machine
end

