-- ==== Sys2Proof/Machine/MemSync.lean ====
section
/-! DEFINITION. Slot B: vector loads and stores (R218, R219), the read-only path (R220, R221), acquires, releases and atomics (R222 to R227), fences (R228), handles and parameters (R229 to R234), rings (R286), barriers (R178, R179) and SPLIT (R194). -/

namespace Sys2Proof.Machine

/-! ### Vector loads and stores (R218, R219) -/

/-- VLD (R218). -/
def execVld (g : GReg) (vd : VReg) (h : HReg) (sa : SReg) (mode : BitVec 3) (imm : BitVec 11) (s : State) : Host.Outcome State Fault Refusal :=
  runSlot s (fun s id => vloadOut 0x50 g vd h sa (blockAlign mode) (blockElems (ctxOf s id) sa imm.toNat mode) (mode == 4) false s id)
/-- VST (R218). -/
def execVst (g : GReg) (vs : VReg) (h : HReg) (sa : SReg) (mode : BitVec 3) (imm : BitVec 11) (s : State) : Host.Outcome State Fault Refusal :=
  runSlot s (fun s id => vstoreOut 0x51 g vs h sa (blockAlign mode) (blockElems (ctxOf s id) sa imm.toNat mode) s id)
/-- VLDS (R219). -/
def execVlds (g : GReg) (vd : VReg) (h : HReg) (sa : SReg) (mode : BitVec 3) (imm : BitVec 11) (s : State) : Host.Outcome State Fault Refusal :=
  runSlot s (fun s id => vloadOut 0x52 g vd h sa (strideBytes mode) (strideElems (ctxOf s id) sa imm.toNat mode) false false s id)
/-- VSTS (R219). -/
def execVsts (g : GReg) (vs : VReg) (h : HReg) (sa : SReg) (mode : BitVec 3) (imm : BitVec 11) (s : State) : Host.Outcome State Fault Refusal :=
  runSlot s (fun s id => vstoreOut 0x53 g vs h sa (strideBytes mode) (strideElems (ctxOf s id) sa imm.toNat mode) s id)

/-! ### The read-only path (R220, R221) -/

/-- LDRO (R220). -/
def execLdro (g : GReg) (sd : SReg) (h : HReg) (sa : SReg) (imm : BitVec 15) (s : State) : Host.Outcome State Fault Refusal :=
  runSlot s (fun s id =>
    let c := ctxOf s id
    guarded .b 0x54 g c (fun o =>
      let off := offsetLS c sa imm.toNat 4
      let n := h.toNat
      let elems := [(off, 4)]
      { o with reads := o.reads ++ [sItem sa, (8, n, n)], writes := scalarItems sd, trap := checkOperand s id 1 n true 4 0x25 elems, accs := accessOf s id n 1 elems,
               watch := watchTrap s id 1 n elems, effects := [.issue (mkRemote s id 1 n off elems (.roLoad 0 sd.toNat 4 0 false))] }))
/-- VLDRO (R220). -/
def execVldro (g : GReg) (vd : VReg) (h : HReg) (sa : SReg) (mode : BitVec 3) (imm : BitVec 11) (s : State) : Host.Outcome State Fault Refusal :=
  runSlot s (fun s id => vloadOut 0x55 g vd h sa (blockAlign mode) (blockElems (ctxOf s id) sa imm.toNat mode) (mode == 4) true s id)
/-- ROINV (R221, R246): it waits for the context's earlier loads and acquires, then clears the cluster's read-only cache. -/
def execRoinv (g : GReg) (s : State) : Host.Outcome State Fault Refusal :=
  runSlot s (fun s id =>
    let c := ctxOf s id
    guarded .b 0x5D g c (fun o => { o with stall := !loadsDone s c.uid s.fresh || acquiring s c.uid, effects := [.clearRo] }))

/-! ### Acquire, release and atomics (R222 to R227) -/

/-- The size of an LQ operand. -/
def sizeLQ (size : BitVec 2) : Nat := 2 ^ size.toNat

/-- LDA (R222): through h0 the value is read when the bundle executes, and arrives under the scoreboard. (DEDUCED, log 33.) -/
def execLda (g : GReg) (sd : SReg) (h : HReg) (sa : SReg) (size : BitVec 2) (scope : BitVec 3) (s : State) : Host.Outcome State Fault Refusal :=
  runSlot s (fun s id =>
    let c := ctxOf s id
    guarded .b 0x56 g c (fun o =>
      let k := sizeLQ size
      let off := offsetLS c sa 0 0
      let n := h.toNat
      let elems := [(off, k)]
      let sc := scopeOf scope.toNat
      let o := { o with reads := o.reads ++ [sItem sa, (8, n, n)], writes := scalarItems sd, trap := checkOperand s id 1 n false k 0x25 elems, watch := watchTrap s id 1 n elems }
      fellBack (scope == 7)
        (if n = 0 then
          { o with words := wordsOf elems, poison := localPoison s id 1 elems, stall := acquiring s c.uid,
                   effects := arriving s id sd (extendLoad (localBytes s id off k) false) ++ [.acquire sc] }
         else
          { o with accs := accessOf s id n 1 elems, effects := [.issue (mkRemote s id 1 n off elems (.load 0 sd.toNat k 0 false false (sc + 1)))] })))

/-- STL (R223): a held release; through h0 its bundle stalls until the release condition holds. -/
def execStl (g : GReg) (ss : SReg) (h : HReg) (sa : SReg) (size : BitVec 2) (scope : BitVec 3) (s : State) : Host.Outcome State Fault Refusal :=
  runSlot s (fun s id =>
    let c := ctxOf s id
    guarded .b 0x57 g c (fun o =>
      let k := sizeLQ size
      let off := offsetLS c sa 0 0
      let n := h.toNat
      let elems := [(off, k)]
      let sc := scopeOf scope.toNat
      let data := leBytes (readS c ss).toNat k
      let o := { o with reads := o.reads ++ [sItem ss, sItem sa, (8, n, n)], trap := (checkOperand s id 1 n false k 0x25 elems).or (lateTrap c sc), watch := watchTrap s id 1 n elems }
      fellBack (scope == 7)
        (if n = 0 then { o with stall := acquiring s c.uid || !releaseReady s c.uid sc s.fresh, effects := [.release sc, .localStore off data] }
         else { o with accs := accessOf s id n 2 elems, effects := [.issue (mkRemote s id 1 n off elems (.stl data sc))] })))

/-- What an atomic writes (R225 to R227): functions 0 to 8 are those of AMO, 9 compares with `v` and swaps in `w`, 10 adds binary32; none when a compare fails. -/
def atomicNew (fn : Nat) (old v w : W64) : Option W64 :=
  match fn with
  | 0 => some (old + v)
  | 1 => some (if v.slt old then v else old)
  | 2 => some (if old.slt v then v else old)
  | 3 => some (if v.ult old then v else old)
  | 4 => some (if old.ult v then v else old)
  | 5 => some (old &&& v)
  | 6 => some (old ||| v)
  | 7 => some (old ^^^ v)
  | 8 => some v
  | 9 => if old = v then some w else none
  | _ => some (BitVec.ofNat 64 (FFmt.arith .f32 .add .rne false (old.toNat % 2 ^ 32) (v.toNat % 2 ^ 32) 0).code)

/-- The bytes an atomic acts on. -/
def atomicSize (fn : Nat) : Nat := if fn = 10 then 4 else 8

/-- An atomic (R224): local through h0, ordered at its scope unless that is CTX; else performed at its home. -/
def atomicOut (opc fn : Nat) (g : GReg) (sd : SReg) (h : HReg) (sa : SReg) (scope : BitVec 3) (returns : Bool) (extra : List SReg) (v w : Ctx → W64) (s : State) (id : Nat) : SlotOut :=
  let c := ctxOf s id
  guarded .b opc g c (fun o =>
    let k := atomicSize fn
    let off := offsetLS c sa 0 0
    let n := h.toNat
    let elems := [(off, k)]
    let sc := scopeOf scope.toNat
    let o := { o with reads := o.reads ++ [sItem sd] ++ extra.map sItem ++ [sItem sa, (8, n, n)], writes := if returns then scalarItems sd else [],
                      trap := (checkOperand s id 1 n false k 0x26 elems).or (if sc = 0 then none else lateTrap c sc), watch := watchTrap s id 1 n elems }
    fellBack (scope == 7)
      (if n = 0 then
        let old := extendLoad (localBytes s id off k) false
        { o with
          words := wordsOf elems, poison := localPoison s id 1 elems, stall := acquiring s c.uid || (sc != 0 && !releaseReady s c.uid sc s.fresh),
          effects := (if sc = 0 then [] else [.release sc])
            ++ (match atomicNew fn old (v c) (w c) with | some x => [.localAtomic off (leBytes x.toNat k)] | none => [])
            ++ (if sc = 0 then [] else [.acquire sc]) ++ (if returns then scalarEffects Config.latLoad sd old else []) }
       else
        { o with accs := accessOf s id n 3 elems, effects := [.issue (mkRemote s id 1 n off elems (.atomic fn (v c) (w c) (if returns && sd != 0 then some sd.toNat else none) sc))] }))

/-- AMO (R225). -/
def execAmo (g : GReg) (sd : SReg) (h : HReg) (sa : SReg) (fn : BitVec 4) (scope : BitVec 3) (s : State) : Host.Outcome State Fault Refusal :=
  runSlot s (atomicOut 0x58 fn.toNat g sd h sa scope true [] (fun c => readS c sd) (fun _ => 0))
/-- ACAS (R226). -/
def execAcas (g : GReg) (sd : SReg) (h : HReg) (sa : SReg) (scope : BitVec 3) (s : State) : Host.Outcome State Fault Refusal :=
  runSlot s (atomicOut 0x59 9 g sd h sa scope true [sd + 1] (fun c => readS c sd) (fun c => readS c (sd + 1)))
/-- FADDA (R227). -/
def execFadda (g : GReg) (sd : SReg) (h : HReg) (sa : SReg) (old : Bool) (scope : BitVec 3) (s : State) : Host.Outcome State Fault Refusal :=
  runSlot s (atomicOut 0x5A 10 g sd h sa scope old [] (fun c => readS c sd) (fun _ => 0))

/-! ### Fences (R228) -/

/-- FENCE (R228): at SYS it also waits for the RDMA requests that the operator's doorbells posted (R418). -/
def execFence (g : GReg) (scope : BitVec 3) (s : State) : Host.Outcome State Fault Refusal :=
  runSlot s (fun s id =>
    let c := ctxOf s id
    guarded .b 0x5B g c (fun o =>
      let sc := scopeOf scope.toNat
      fellBack (scope == 7)
        (if sc = 0 then o
         else { o with trap := lateTrap c sc, stall := !releaseReady s c.uid sc s.fresh || (sc = 6 && !doorsQuiet s (partOfCore s (id / 4)) c.uid), effects := [.release sc, .acquire sc] })))
/-- DRAIN (R228). -/
def execDrain (g : GReg) (scope : BitVec 3) (s : State) : Host.Outcome State Fault Refusal :=
  runSlot s (fun s id =>
    let c := ctxOf s id
    guarded .b 0x5C g c (fun o =>
      let sc := scopeOf scope.toNat
      fellBack (scope == 7) { o with trap := lateTrap c sc, stall := !drained s c.uid sc s.fresh }))

/-! ### Handles (R229 to R231, R407) -/

/-- A record that keeps the rules of R196. -/
def recordGood (t : Tensor) : Bool := t.vbase % 128 = 0 && decide (t.vbase + t.extent ≤ 2 ^ 52) && (decide (t.fmt < 15) || (decide (16 ≤ t.fmt) && decide (t.fmt ≤ 19))) && decide (t.rank < 4)

/-- Why a handle is not bound to a tensor of this device (R229, R362), or 0. -/
def bindCause (s : State) (part tid : Nat) : Nat :=
  match tensorOf s part tid with
  | none => 0x58
  | some t => if !recordGood t then 0x34 else if (slicesOn s part t.home).isEmpty then 0x57 else 0

/-- What HBIND binds handle `n` to (R229, R407): the handle, or its trap; one that another device's answer gives names the handle (R411), but for TENSOR_ABSENT. The extent of a tensor of another device is the turn's word, and its base that of the turn's record. -/
def bindTarget (s : State) (part n : Nat) (v : W64) : Except Trap Handle :=
  let tid := v.toNat % 2 ^ 20
  let f := bitsOf v.toNat 20 12
  if f = 0 || f = s.devnum + 1 && decide (f ≤ 192) then
    match bindCause s part tid with
    | 0 => .ok ⟨.tensor, tid, 0, 0, 0⟩
    | c => .error (idTrap c tid)
  else if 192 < f || (tfind (partOf s part).map (f - 1)).isNone then .error (trapOf 0x36 f)
  else
    let hk : Handle := ⟨.tensor, tid, f, s.sel.word.toNat, s.sel.ten.vbase⟩
    match farCause s part f with
    | 0 => .ok hk
    | c => .error (if c = 0x58 then idTrap c tid else accTrap c 1 n hk 0)

/-- HBIND is a reference that the tensor's state matters to (R372, R373, R384): an absent tensor is allocated, a dropped one waited for, and a state that forbids references fails. -/
def bindRefers (s : State) (part : Nat) (hk : Handle) : Bool :=
  hk.dev = 0 && (match tensorOf s part hk.tid with
    | some t => t.state = 0 || decide (5 ≤ t.state) || ((t.state = 3 || t.state = 4) && !managed s part t)
    | none => false)

/-- HBIND (R229): it waits while the tensor is DROPPED; the binding arrives under the scoreboard. -/
def execHbind (g : GReg) (h : HReg) (sa : SReg) (s : State) : Host.Outcome State Fault Refusal :=
  runSlot s (fun s id =>
    let c := ctxOf s id
    let part := partOfCore s (id / 4)
    let n := h.toNat
    guarded .b 0x5E g c (fun o =>
      let o := { o with reads := o.reads ++ [sItem sa], writes := [(8, n)] }
      match bindTarget s part n (readS c sa) with
      | .error t => { o with trap := some t }
      | .ok hk =>
        { o with accs := if bindRefers s part hk then [⟨n, hk, [], 0⟩] else [], effects := [.scoreboard { mkRemote s id 1 n 0 [] (.hbind n) with hk := hk }] }))

/-- A record word of an item of HINFO (R196, R230). -/
def recordItem (t : Tensor) (item : Nat) : Nat :=
  let sh (i : Nat) : Nat := (t.shape.getD i 0).toNat
  let st (i : Nat) : Nat := (t.stride.getD i 0).toNat
  if item = 2 then t.vbase
  else if item = 3 then t.xv.toNat * 2 ^ 16 + t.fmt % 32 * 2 ^ 8 + t.rank % 4
  else if item = 4 then sh 0 + sh 1 * 2 ^ 32
  else if item = 5 then sh 2 + sh 3 * 2 ^ 32
  else if item = 6 then st 0 + st 1 * 2 ^ 32
  else if item = 7 then st 2
  else if item = 8 then t.home % 4 * 2 ^ 24 + t.state % 16 * 2 ^ 20 + t.id % 2 ^ 20
  else if item = 9 then t.nextuse.toNat
  else 0

/-- The value of an item of HINFO (R230). An item of a record that was deleted after HBIND is a value the spec leaves open; that of a record of another device is the turn's word, but for the EXTENT and VBASE that the handle holds. -/
def hinfoValue (s : State) (id : Nat) (hk : Handle) (item : Nat) : W64 :=
  let part := partOfCore s (id / 4)
  if item = 0 then BitVec.ofNat 64 (hk.kind.code * 2 ^ 20 + (if hk.kind = .tensor then hk.tid % 2 ^ 20 else 0))
  else if 10 ≤ item then 0
  else if hk.kind != .tensor then (if item = 1 then BitVec.ofNat 64 ((extentOf s (id / 4) part hk).getD 0) else 0)
  else if hk.dev != 0 then (if item = 1 then BitVec.ofNat 64 hk.ext else if item = 2 then BitVec.ofNat 64 hk.base else s.sel.word)
  else
    match tensorOf s part hk.tid with
    | some t => if item = 1 then BitVec.ofNat 64 t.extent else BitVec.ofNat 64 (recordItem t item)
    | none => Config.freeWord s.fresh

/-- HINFO (R230). -/
def execHinfo (g : GReg) (sd : SReg) (h : HReg) (sa : SReg) (imm : BitVec 15) (s : State) : Host.Outcome State Fault Refusal :=
  runSlot s (fun s id =>
    let c := ctxOf s id
    guarded .b 0x5F g c (fun o =>
      let n := h.toNat
      let hk := readH c n
      let v := hinfoValue s id hk (offsetLS c sa imm.toNat 1)
      { o with reads := o.reads ++ [sItem sa, (8, n, n)], writes := scalarItems sd, effects := if hk.kind = .tensor then arriving s id sd v else scalarEffects 1 sd v }))

/-- An extra value of f4 codes that R107 allows. -/
def xvRepresentable (v : W16) : Bool :=
  let e := bitsOf v.toNat 7 8
  v.toNat % 2 ^ 15 = 0 || (v.toNat % 64 = 0 && decide (119 ≤ e) && decide (e ≤ 134))
/-- The extra value as it is latched (R107). -/
def latchXv (v : W16) : W16 := if xvRepresentable v then v else 0

/-- The first two checks of R217, of the instructions that act on a record (R231, R233). They have no offset of their own, and FOFFSET takes 0. (DESIGN CHOICE, log 72.) -/
def recordTrap (c : Ctx) (slot h : Nat) : Option Trap :=
  let hk := readH c h
  if hk.kind = .unbound then some (accTrap 0x23 slot h hk 0) else if hk.kind != .tensor then some (accTrap 0x2B slot h hk 0) else none

/-- A record of another device is reached as any remote access (R408, R411). -/
def recordAccess (c : Ctx) (h : Nat) : List Access := let hk := readH c h; if hk.kind = .tensor && hk.dev != 0 then [⟨h, hk, [], 0⟩] else []

/-- HSETXV (R231). -/
def execHsetxv (g : GReg) (h : HReg) (sa : SReg) (s : State) : Host.Outcome State Fault Refusal :=
  runSlot s (fun s id =>
    let c := ctxOf s id
    guarded .b 0x6B g c (fun o =>
      let n := h.toNat
      let v : W16 := (readS c sa).truncate 16
      fellBack (!xvRepresentable v)
        { o with reads := o.reads ++ [sItem sa, (8, n, n)], writes := [(8, n)], trap := recordTrap c 1 n, accs := recordAccess c n, effects := [.scoreboard (mkRemote s id 1 n 0 [] (.hsetxv n (latchXv v)))] }))

/-- TUSE (R233): the distance saturates at 32 bits, with WARN.SAT (R8). -/
def execTuse (g : GReg) (h : HReg) (sa : SReg) (imm : BitVec 15) (s : State) : Host.Outcome State Fault Refusal :=
  runSlot s (fun s id =>
    let c := ctxOf s id
    guarded .b 0x69 g c (fun o =>
      let n := h.toNat
      let d := (readS c sa).toNat + imm.toNat
      checked 0 (decide (2 ^ 32 ≤ d)) []
        { o with reads := o.reads ++ [sItem sa, (8, n, n)], trap := recordTrap c 1 n, accs := recordAccess c n,
                 effects := [.scoreboard (mkRemote s id 1 n 0 [] (.tuse (BitVec.ofNat 32 (min (2 ^ 32 - 1) d))))] }))

/-- The place a PREF would bring in: a resident tensor of this device, inside its extent, mapped and readable (R234). -/
def prefLoc (s : State) (part : Nat) (hk : Handle) (off : Nat) : Option Loc :=
  if hk.kind != .tensor || hk.dev != 0 then none
  else
    match tensorOf s part hk.tid with
    | none => none
    | some t =>
      if t.extent ≤ off || t.state = 0 || 5 ≤ t.state then none
      else
        match walk s part (t.vbase + off) with
        | .ok l => if leafAllows l 1 then some (leafLoc l (t.vbase + off)) else none
        | .error _ => none

/-- PREF (R234): it may bring the line into L1, and does nothing else. -/
def execPref (g : GReg) (h : HReg) (sa : SReg) (imm : BitVec 15) (s : State) : Host.Outcome State Fault Refusal :=
  runSlot s (fun s id =>
    let c := ctxOf s id
    guarded .b 0x6A g c (fun o =>
      let n := h.toNat
      { o with reads := o.reads ++ [sItem sa, (8, n, n)],
               effects := match prefLoc s (partOfCore s (id / 4)) (readH c n) (offsetLS c sa imm.toNat 128) with | some l => [.prefetch l] | none => [] }))

/-! ### Parameters (R232) -/

/-- MSET (R232). -/
def execMset (g : GReg) (ss : SReg) (m : MReg) (s : State) : Host.Outcome State Fault Refusal :=
  runSlot s (fun s id =>
    let c := ctxOf s id
    guarded .b 0x60 g c (fun o => { o with reads := o.reads ++ [sItem ss], writes := [(5, m.toNat)], effects := [.result 1 (.param m.toNat (readS c ss))] }))
/-- MGET (R232). -/
def execMget (g : GReg) (sd : SReg) (m : MReg) (s : State) : Host.Outcome State Fault Refusal :=
  runSlot s (fun s id =>
    let c := ctxOf s id
    guarded .b 0x61 g c (fun o => { o with reads := o.reads ++ [(5, m.toNat, m.toNat)], writes := scalarItems sd, effects := scalarEffects 1 sd (readM c m.toNat) }))

/-! ### Rings (R286) -/

def ringIndex (id ring : Nat) : Nat := id / 4 / 8 * 64 + ring
/-- RING_CONFIG: the ring is not in use (R286). -/
def ringTrap (s : State) (id ring : Nat) : Option Trap := if (ringOf s (ringIndex id ring)).cfg.getLsbD 63 then none else some (trapOf 0x60 ring)

/-- AWAITF (R286): it blocks until the threshold is met, then acquires at DEV. -/
def execAwaitf (g : GReg) (ring : BitVec 6) (th : BitVec 18) (s : State) : Host.Outcome State Fault Refusal :=
  runSlot s (fun s id =>
    guarded .b 0x62 g (ctxOf s id) (fun o =>
      let r := ringIndex id ring.toNat
      let x := ringOf s r
      { o with trap := ringTrap s id ring.toNat, block := if th.toNat ≤ (x.write - x.read).toNat then none else some (.ring r th.toNat), effects := [.acquire 4] }))

/-- A counter update (R286): held until its release condition holds. -/
def ringOut (opc : Nat) (push : Bool) (g : GReg) (ring : BitVec 6) (sa : SReg) (imm : BitVec 18) (s : State) (id : Nat) : SlotOut :=
  let c := ctxOf s id
  guarded .b opc g c (fun o =>
    { o with reads := o.reads ++ [sItem sa], trap := (ringTrap s id ring.toNat).or (lateTrap c 4),
             effects := [.scoreboard (mkRemote s id 1 0 0 [] (.ring (ringIndex id ring.toNat) push ((readS c sa).truncate 32 + imm.zeroExtend 32)))] })
/-- RELS (R286). -/
def execRels (g : GReg) (ring : BitVec 6) (sa : SReg) (imm : BitVec 18) (s : State) : Host.Outcome State Fault Refusal := runSlot s (ringOut 0x63 false g ring sa imm)
/-- RPUSH (R286). -/
def execRpush (g : GReg) (ring : BitVec 6) (sa : SReg) (imm : BitVec 18) (s : State) : Host.Outcome State Fault Refusal := runSlot s (ringOut 0x64 true g ring sa imm)

/-! ### Barriers (R178, R179) -/

/-- The group a slot names, or GROUP_NOT_MEMBER (R178). (DEDUCED, log 44.) -/
def barrierGroup (s : State) (id : Nat) (gs : BitVec 2) : Except Trap Nat :=
  let num := match opOf s (ctxOf s id).op with | some o => o.group.getD gs.toNat 0 | none => 0
  match groupSlot s id gs.toNat with
  | some n => if (groupOf s n).members.getLsbD (id / 4) then .ok n else .error (trapOf 0x61 (gs.toNat * 256 + num % 256))
  | none => .error (trapOf 0x61 (gs.toNat * 256 + num % 256))

/-- BARR (R179). -/
def execBarr (g : GReg) (gs : BitVec 2) (s : State) : Host.Outcome State Fault Refusal :=
  runSlot s (fun s id =>
    let c := ctxOf s id
    guarded .b 0x65 g c (fun o =>
      match barrierGroup s id gs with
      | .error t => { o with trap := some t }
      | .ok n =>
        let x := groupOf s n
        let sc := groupScope x
        { o with trap := lateTrap c sc, block := if x.arrived.getLsbD (id / 4) then some (.arrival n x.gen.toNat) else none,
                 stall := !releaseReady s c.uid sc s.fresh, effects := [.release sc, .arrive n] }))

/-- BARW (R179). -/
def execBarw (g : GReg) (gs : BitVec 2) (sa : SReg) (s : State) : Host.Outcome State Fault Refusal :=
  runSlot s (fun s id =>
    let c := ctxOf s id
    guarded .b 0x66 g c (fun o =>
      let o := { o with reads := o.reads ++ [sItem sa] }
      match barrierGroup s id gs with
      | .error t => { o with trap := some t }
      | .ok n =>
        let t := (readS c sa).toNat % 65536
        { o with block := if reached (groupOf s n).gen t then none else some (.reach n t), effects := [.acquire (groupScope (groupOf s n))] }))

/-- BART (R179): the test is made when the bundle issues, and its guard pair is interlocked. (DEDUCED, log 33.) -/
def execBart (g : GReg) (gs : BitVec 2) (pair : BitVec 3) (sa : SReg) (s : State) : Host.Outcome State Fault Refusal :=
  runSlot s (fun s id =>
    let c := ctxOf s id
    guarded .b 0x67 g c (fun o =>
      let o := { o with reads := o.reads ++ [sItem sa], writes := pairItems pair }
      match barrierGroup s id gs with
      | .error t => { o with trap := some t }
      | .ok n =>
        let r := reached (groupOf s n).gen ((readS c sa).toNat % 65536)
        fellBack (pair == 0)
          { o with effects := (if pair = 0 then [] else [.scoreboard (mkRemote s id 1 0 0 [] (.value [.guard (2 * pair.toNat) r, .guard (2 * pair.toNat + 1) (!r)]))])
                     ++ (if r then [.acquire (groupScope (groupOf s n))] else []) }))

/-! ### SPLIT (R194) -/

/-- SPLIT (R194): it completes at once when the code is the cluster's and no other request is under way; else it registers its request and blocks until the switch. -/
def execSplit (g : GReg) (code : BitVec 3) (s : State) : Host.Outcome State Fault Refusal :=
  runSlot s (fun s id =>
    let c := ctxOf s id
    guarded .b 0x68 g c (fun o =>
      if c.splitDone then { o with effects := [.splitTaken] }
      else if code.toNat = splitOf s (id / 32) && !(s.splits.any (fun r => r.cluster = id / 32)) then o
      else { o with block := some (.split code.toNat) }))

end Sys2Proof.Machine
end

