-- ==== Sys2Proof/Machine/MemEvents.lean ====
section
/-! DEFINITION. Accesses performed at their homes and results that arrive (R23, R213, R223 to R242, R358, R359, R411), ring counters (R285), barriers across devices (R181) and the split switch (R194). The event concerns the access at position `Select.idx` of those in flight. -/

namespace Sys2Proof.Machine

/-! ### The context an access belongs to -/

/-- The live context of a task. -/
def ctxOfUid (s : State) (uid : Nat) : Option Nat := (s.ctxs.find? (fun e => e.2.running && e.2.uid = uid)).map (·.1)

/-- Changes the context of a task, wherever it is kept (R247). -/
def modUid (s : State) (uid : Nat) (f : Ctx → Ctx) : State :=
  { s with
    ctxs := s.ctxs.map (fun e => if e.2.running && e.2.uid = uid then (e.1, f e.2) else e),
    saved := s.saved.map (fun x => if x.ctx.uid = uid then { x with ctx := f x.ctx } else x) }

/-- The core the task is on now, or was when it issued the access. -/
def coreNow (s : State) (r : Remote) : Nat := match ctxOfUid s r.uid with | some id => id / 4 | none => r.core

/-- The access is no longer in flight. -/
def dropRemote (s : State) (r : Remote) : State := { s with remotes := s.remotes.filter (fun e => e.id != r.id) }

/-! ### Order (R238, R240) -/

/-- An access that the access must follow: an earlier acquire of its context, or an earlier access of its context to one of its bytes through the same path, a read-only load left out (R220). (DEDUCED, log 10.) -/
def mustFollow (s : State) (r : Remote) : Bool :=
  s.remotes.any (fun e => e.uid = r.uid && decide (e.id < r.id) && (e.kind.acquires || (!e.kind.isRo && samePathByte s e r)))

/-- An earlier update of a tensor record by its context is on its way (R405). -/
def afterUpdate (s : State) (r : Remote) : Bool := s.remotes.any (fun e => e.uid = r.uid && decide (e.id < r.id) && e.kind.isUpdate)

/-- An earlier acquire of its context is still in flight. (DEDUCED, log 10.) -/
def afterAcquire (s : State) (r : Remote) : Bool := s.remotes.any (fun e => e.uid = r.uid && decide (e.id < r.id) && e.kind.acquires)

/-- A write to bytes of a tensor, by the host or for one of its commands, is held as any other (R213, R245, R336). -/
def heldTensor (s : State) (part tid off len : Nat) : Bool := match tensorPlaces s part tid off len 2 with | .ok segs => heldWrite s s.fresh segs | .error _ => false

/-! ### Loads (R203, R206, R220) -/

/-- The register a load writes, from its bytes (R87, R218, R220). -/
def loadResult (k : RKind) (data : List Byte) : List Result :=
  match k with
  | .load 0 n _ _ signed _ _ => if n = 0 then [] else [.scalar n (extendLoad data signed)]
  | .roLoad 0 n _ _ _ => if n = 0 then [] else [.scalar n (extendLoad data false)]
  | .load _ n _ lane _ splat _ => [laneResult n lane splat data]
  | .roLoad _ n _ lane splat => [laneResult n lane splat data]
  | _ => []
where
  laneResult (n lane : Nat) (splat : Bool) (data : List Byte) : Result :=
    if splat then .vec n (BitVec.allOnes 4096) (vectorOf data true)
    else .vec n (lanesMask (data.length / 4) <<< (32 * lane)) (vectorOf data false <<< (32 * lane))

/-- The first lane of the access's destination that it concerns. -/
def RKind.lane (k : RKind) : Nat :=
  match k with
  | .load _ _ _ lane _ _ _ => lane
  | .roLoad _ _ _ lane _ => lane
  | _ => 0

/-- A mark joins a context's marks; of the sectors of one vector load, whichever comes first, the mark of the lowest lane stays (R354, R358). -/
def Ctx.mark (c : Ctx) (m : RegMark) : Ctx :=
  let same (x : RegMark) : Bool := x.cls = m.cls && x.num = m.num
  if c.marks.any (fun x => same x && decide (x.lane ≤ m.lane)) then c else { c with marks := c.marks.filter (fun x => !same x) ++ [m] }

/-- A register whose load or atomic failed after issue is marked (R358). (DEDUCED, log 9.) -/
def markRemote (s : State) (r : Remote) (cause off : Nat) : State :=
  match r.kind.items with
  | [] => s
  | (cls, num) :: _ => modUid s r.uid (fun c => c.mark ⟨cls, num, accTrap cause r.slot r.h r.hk off, r.kind.lane⟩)

/-- Another piece of the same store is in flight. -/
def sameStore (r e : Remote) : Bool := e.id != r.id && e.uid = r.uid && e.id + r.piece = r.id + e.piece

/-- Of two failed pieces of one store, the first in the store's order. -/
def firstPiece (a : Option (Nat × Trap)) (b : Nat × Trap) : Nat × Trap := match a with | some x => if x.1 ≤ b.1 then x else b | none => b

/-- A store of which a piece has failed is one failure, of its first failing byte: while other pieces are in flight one of them carries it, and the last to go records it in the context, behind those recorded before (R359). (DESIGN CHOICE, log 88.) -/
def noteFailure (s : State) (r : Remote) (f : Nat × Trap) : State :=
  match s.remotes.find? (sameStore r) with
  | some e => { s with remotes := s.remotes.map (fun x => if x.id = e.id then { x with failed := some (firstPiece x.failed f) } else x) }
  | none => modUid s r.uid (fun c => if c.storeFail.isSome then { c with laterFails := c.laterFails ++ [(f.2, 5)] } else { c with storeFail := some (f.2, 5) })

/-- The failure of a store or atomic (R359). -/
def recordFailure (s : State) (r : Remote) (cause : Nat) : State := noteFailure s r (firstPiece r.failed (r.piece, accTrap cause r.slot r.h r.hk r.off))

/-- A piece of a store that succeeds passes on the failure it carries. -/
def passFailure (s : State) (r : Remote) : State := match r.failed with | some f => noteFailure s r f | none => s

/-- An acquire is performed (R240). -/
def finishAcquire (s : State) (r : Remote) (acq : Nat) : State := if acq = 0 then s else acquireAt s (coreNow s r) (acq - 1)

/-- The parts of a run of bytes that lie in one 128-byte line each. -/
def lineRuns (off len : Nat) : Nat → List (Nat × Nat)
  | 0 => []
  | n + 1 =>
    if len = 0 then []
    else
      let k := min len (128 - off % 128)
      (off, k) :: lineRuns (off + k) (len - k) n

/-- Requests for bytes of other devices, each within one line (R410): stores with their data, reads with their length. -/
def sendFar (s : State) (kind : Nat) (segs : List Seg) (data : List Byte) : State :=
  (segs.foldl (fun (acc : State × List Byte) g =>
    (match g.loc with
      | .far d t off => { acc.1 with sent := acc.1.sent ++ (lineRuns off g.len (g.len / 128 + 2)).map (fun p =>
          .remote kind d t p.1 (if kind = 4 then leBytes p.2 1 else (acc.2.drop (p.1 - off)).take p.2)) }
      | _ => acc.1, acc.2.drop g.len)) (s, data)).1

/-- The answer to a request of another device (R408, R411): its cause or 0, and its data. -/
def answerPeer (s : State) (q : PeerReq) (cause : Nat) (data : List Byte) : State := { s with sent := s.sent ++ [.answer q.dev q.part q.tid q.off cause data] }

/-- The result of a load reaches its register, or marks it (R23, R358); the record of a SPAWN is held for its bundle (R175). -/
def deliver (s : State) (r : Remote) (data : List Byte) (bad : Option (Nat × Nat)) : State :=
  match r.kind, bad with
  | .record, some (c, i) => modUid s r.uid (fun x => { x with spawned := some (c, r.off + i, []) })
  | .record, none => modUid s r.uid (fun x => { x with spawned := some (0, r.off, data) })
  | _, some (c, i) => markRemote s r c (r.off + i)
  | k, none => modUid s r.uid (fun c => (loadResult k data).foldl (fun c x => c.put x) c)

/-- A load returns (R203, R237, R358): its value is fixed, and a line read from its home enters L1; the home does not refill a line that a Lakebed operation is about to write (R245). -/
def arriveLoad (s : State) (r : Remote) (acq : Nat) : State :=
  let hit := s.sel.flag && allHit (coreOf s r.core).l1 r.segs
  match r.fixed with
  | some (data, bad) => dropRemote (finishAcquire (deliver (sendFar s 4 r.segs []) r data bad) r acq) r
  | none =>
    if !hit && heldFill s r.segs then s
    else
      let data := loadBytes s r hit
      let bad := loadPoison s r (if hit then some (coreOf s r.core).l1bad else none)
      let s := if hit then s else r.segs.foldl (fun s g => fillL1 s r.core g.loc) (sendFar s 4 r.segs [])
      dropRemote (finishAcquire (deliver s r data bad) r acq) r

/-- A read-only load returns (R206, R220): a miss fills the whole line. -/
def arriveRo (s : State) (r : Remote) : State :=
  let u := r.core / 8
  let hit := s.sel.flag && allHit (tget [] s.ro u) r.segs
  match r.fixed with
  | some (data, bad) => dropRemote (deliver (sendFar s 4 r.segs []) r data bad) r
  | none =>
    if !hit && heldFill s r.segs then s
    else
      let data := roBytes s r hit
      let bad := loadPoison s r (if hit then some (tget [] s.roBad u) else none)
      let s := if hit then s else r.segs.foldl (fun s g => fillRo s u g.loc) (sendFar s 4 r.segs [])
      dropRemote (deliver s r data bad) r

/-- Updates a tensor record at its home; a record of another device is updated there (R231, R233, R408). -/
def updateRecord (s : State) (r : Remote) (kind : Nat) (data : List Byte) (f : Tensor → Tensor) : State :=
  if r.hk.dev != 0 then { s with sent := s.sent ++ [.remote kind r.hk.dev r.hk.tid 0 data] }
  else match tensorOf s r.part r.hk.tid with
    | some t => setTensor s r.part (f t)
    | none => s

/-- INTERLOCKED_RESULT_ARRIVE (R23): a load returns its value, a value from outside the core's units arrives, a handle is bound, a record update is acknowledged, in its context's order (R405) and after its acquires, as a store (R231, R240, R408). (DEDUCED, log 10.) -/
def execInterlockedResultArrive (s : State) : Host.Outcome State Fault Refusal :=
  match nth s.remotes s.sel.idx with
  | none => .next s
  | some r =>
    match r.kind with
    | .load _ _ _ _ _ _ acq => .next (if mustFollow s r then s else arriveLoad s r acq)
    | .roLoad _ _ _ _ _ => .next (if afterAcquire s r then s else arriveRo s r)
    | .value rs => .next (dropRemote (modUid s r.uid (fun c => rs.foldl (fun c x => c.put x) c)) r)
    | .hbind h => .next (dropRemote (modUid (if r.hk.dev = 0 then keepCopy s (dieOfCore r.core) r.part r.hk.tid else { s with sent := s.sent ++ [.remote 5 r.hk.dev r.hk.tid 0 []] }) r.uid (fun c => { c with h := tset c.h h r.hk })) r)
    | .hsetxv _ xv => .next (if afterUpdate s r || afterAcquire s r then s else dropRemote (updateRecord s r 2 (leBytes xv.toNat 2) (fun t => { t with xv := xv })) r)
    | .tuse d => .next (if afterUpdate s r || (r.far && afterAcquire s r) then s else dropRemote (updateRecord s r 3 (leBytes d.toNat 4) (fun t => { t with nextuse := d })) r)
    | .record => .next (if mustFollow s r then s else arriveLoad s r 0)
    | _ => .next s

/-! ### Stores and atomics (R223, R224, R242) -/

/-- A copy of the line in the storing core's L1 takes the bytes its home now holds; a sector stored whole is good again (R203, R370). -/
def updateL1 (s : State) (core : Nat) (segs : List Seg) : State :=
  segs.foldl (fun s g =>
    match tfind (coreOf s core).l1 (g.loc.num / 128) with
    | some l =>
      let o := g.loc.num % 128
      modCore s core (fun k => { k with l1 := tset k.l1 (g.loc.num / 128) (l.take o ++ readLocs s 0 g.loc g.len ++ l.drop (o + g.len)),
                                        l1bad := k.l1bad.filter (fun b => !((storedWhole s core g.loc g.len).contains b)) })
    | none => s) s

/-- The virtual addresses an access in flight reaches meet a range. -/
def remoteMeets (s : State) (r : Remote) (lo hi : Nat) : Bool :=
  r.hk.kind = .tensor && r.hk.dev = 0 &&
    (match tensorOf s r.part r.hk.tid with | some t => r.ranges.any (fun p => meets lo hi (t.vbase + p.1) (t.vbase + p.1 + p.2)) | none => true)

/-- A write to a doorbell of the partition is observed by its port, with the launch number it carried (R417). -/
def noteDoors (s : State) (r : Remote) : State :=
  if (partOf s r.part).qps.isEmpty then s
  else
    modPart s r.part (fun p => { p with qps := p.qps.map (fun e =>
      match tensorOf s r.part e.2.tid, tensorBytes s r.part e.2.tid e.2.dbOff 4 with
      | some t, some l => if remoteMeets s r (t.vbase + e.2.dbOff) (t.vbase + e.2.dbOff + 4) then (e.1, { e.2 with doors := e.2.doors ++ [(BitVec.ofNat 32 (leNat l), r.launch, r.uid)] }.pruned) else e
      | _, _ => e) })

/-- The bytes of a plain store reach their home (R242); those of another device are sent there. -/
def performStore (s : State) (r : Remote) (data : List Byte) : State :=
  if r.hk.kind = .tensor && r.hk.dev != 0 then passFailure { s with sent := s.sent ++ [.remote 0 r.hk.dev r.hk.tid r.off data] } r
  else noteDoors (updateL1 (storeSegs (clearIncomp s (storedSegs s r.core r.segs)) r.core r.launch r.segs data) r.core r.segs) r

/-- Lines of tiers 1 to 3 that an operation wrote leave its core's L1 before its token is DONE (R243). -/
def dropWritten (s : State) (core : Nat) (segs : List Seg) : State :=
  modCore s core (fun k => { k with l1 := k.l1.filter (fun l => !(segs.any (fun g => meets (l.1 * 128) (l.1 * 128 + 128) g.loc.num (g.loc.num + g.len)))) })

/-- The core whose command a Lakebed kernel runs. -/
def callerOf (s : State) (kernel : Nat) : Option Nat :=
  s.lakes.findSome? (fun l => (((match l.2.run with | some k => [k] | none => []) ++ l.2.buf).find? (fun k => k.id = kernel)).bind (fun k => k.cmd.map (·.core)))

/-- A store of a kernel that a command runs: the lines it wrote leave the L1 of the core that issued the command (R243). -/
def dropCallerL1 (s : State) (r : Remote) : State := match callerOf s r.uid with | some c => dropWritten s c r.segs | none => s

/-- STORE_APPLY_AT_HOME (R242): held while an earlier access must be performed first or the page migrates. A Lakebed store acts without regard to tags, and waits where it would take more of the reserve than R336 allows; a flag follows every earlier store of its kernel (R320). The push of a SPAWN is a release at DEV (R175, R240). (DEDUCED, log 10.) -/
def execStoreApplyAtHome (s : State) : Host.Outcome State Fault Refusal :=
  match nth s.remotes s.sel.idx with
  | some r =>
    match r.kind with
    | .store data => .next (if mustFollow s r || heldWrite s r.id r.segs then s else dropRemote (performStore s r data) r)
    | .lake data flag =>
      let early := s.remotes.any (fun e => e.uid = r.uid && decide (e.id < r.id) && (flag || segsMeet e.segs r.segs))
      .next (if early || heldPage s r.id r.segs || dirtyFull s r.segs then s else dropRemote (dropCallerL1 (lakeWrite s r.segs data) r) r)
    | .spawn x t => .next (if !releaseReady s r.uid 4 r.id then s else dropRemote (pushHeld (killTags s r.part r.core 4) r.core x t) r)
    | _ => .next s
  | none => .next s

/-- STL_HELD_PERFORM (R223, R240, R242): the release condition holds; the release kills the core's tags, and then the store is applied. -/
def execStlHeldPerform (s : State) : Host.Outcome State Fault Refusal :=
  match nth s.remotes s.sel.idx with
  | some r =>
    match r.kind with
    | .stl data scope =>
      .next (if mustFollow s r || heldWrite s r.id r.segs || !releaseReady s r.uid scope r.id then s
             else dropRemote (performStore (killTags s r.part r.core scope) r data) r)
    | _ => .next s
  | none => .next s

/-- An atomic is performed at its home (R224, R370): on poison it writes nothing; its core's own copy of the line goes. -/
def performAtomic (s : State) (r : Remote) (fn : Nat) (v w : W64) (dest : Option Nat) : State :=
  let n := atomicSize fn
  let give (s : State) (old : W64) : State := match dest with | some d => modUid s r.uid (fun c => c.put (.scalar d old)) | none => s
  if r.hk.kind = .tensor && r.hk.dev != 0 then
    if s.sel.keep then markRemote s r 0x3A r.off
    else if ownerCause s.sel.num != 0 then recordFailure (markRemote s r (ownerCause s.sel.num) r.off) r (ownerCause s.sel.num)
    else give { s with sent := s.sent ++ [.remote 1 r.hk.dev r.hk.tid r.off (leBytes fn 1 ++ leBytes v.toNat 8 ++ leBytes w.toNat 8)] } (BitVec.ofNat 64 (s.sel.word.toNat % 2 ^ (8 * n)))
  else
    match firstPoison s r.segs with
    | some i => markRemote s r 0x2D (r.off + i)
    | none =>
      let old : W64 := BitVec.ofNat 64 (leNat (readSegs s r.launch r.segs))
      let s := match atomicNew fn old v w with | some x => writeSegs (clearIncomp s r.segs) r.launch r.segs (leBytes x.toNat n) | none => s
      let s := modCore s r.core (fun k => { k with l1 := r.segs.foldl (fun t g => tdel t (g.loc.num / 128)) k.l1, l1bad := k.l1bad.filter (fun b => !(r.segs.any (fun g => g.loc.num / 128 = b / 4))) })
      noteDoors (give s old) r

/-- ATOMIC_PERFORM_AT_HOME (R224, R240): with a scope other than CTX a release before its write and an acquire after its read. -/
def execAtomicPerformAtHome (s : State) : Host.Outcome State Fault Refusal :=
  match nth s.remotes s.sel.idx with
  | some r =>
    match r.kind with
    | .atomic fn v w dest scope =>
      .next (if mustFollow s r || heldWrite s r.id r.segs || (scope != 0 && !releaseReady s r.uid scope r.id) then s
             else
               let s := if scope = 0 then s else killTags s r.part r.core scope
               let s := performAtomic s r fn v w dest
               dropRemote (if scope = 0 then s else acquireAt s (coreNow s r) scope) r)
    | _ => .next s
  | none => .next s

/-- A request to another device fails after it issued (R358, R359, R411): loads and atomics mark their register, the bundle of a SPAWN meets the failure of its load, and stores, atomics and record updates are recorded. -/
def failRemote (s : State) (r : Remote) (cause : Nat) : State :=
  let s := if r.kind.isStore || r.kind.isUpdate then recordFailure s r cause else s
  dropRemote (if r.kind.isUpdate then s else deliver s r [] (some (cause, 0))) r

/-- DOMTMO has run since the access issued (R411). -/
def timedOut (s : State) (r : Remote) : Bool := decide (r.since + microseconds (partOf s r.part).domtmo.toNat ≤ s.cycle)

/-- REMOTE_STORE_FAILURE (R359, R411): the owner refuses the store or update, or fails it with a cause of its own; with `flag` the device of the domain does not answer within DOMTMO. -/
def execRemoteStoreFailure (s : State) : Host.Outcome State Fault Refusal :=
  match nth s.remotes s.sel.idx with
  | some r =>
    let why := if s.sel.flag then (if timedOut s r then 0x28 else 0) else if ownerCause s.sel.num = 0 then 0x29 else ownerCause s.sel.num
    .next (if r.far && (r.kind.isStore || r.kind.isUpdate) && why != 0 then failRemote s r why else s)
  | none => .next s

/-- REMOTE_ACCESS_TIMEOUT (R358, R411): no response within DOMTMO. -/
def execRemoteAccessTimeout (s : State) : Host.Outcome State Fault Refusal :=
  match nth s.remotes s.sel.idx with
  | some r =>
    .next (if r.far && (r.kind.isStore || r.kind.isLoad || r.kind.isUpdate) && timedOut s r then failRemote s r 0x28 else s)
  | none => .next s

/-! ### Rings (R244, R285) -/

/-- The ring that a copy names (R288). -/
def copyRing (o : EngineOp) : Nat := bitsOf (tget (0 : W64) o.m 6).toNat 0 6

/-- A copy whose increment goes to a ring (R287, R288). -/
def pushesRing (o : EngineOp) (ring : Nat) : Bool := decide (4 ≤ o.opc) && decide (o.opc ≤ 9) && o.x != 0 && o.core / 8 * 64 + copyRing o = ring

/-- An update of a ring that a context issued before number `upto` is on its way: of RELS, of RPUSH, or of a copy (R285). -/
def ringBefore (s : State) (uid ring upto : Nat) : Bool :=
  s.remotes.any (fun e => e.uid = uid && decide (e.id < upto) && (match e.kind with | .ring x _ _ => x = ring | _ => false))
  || (liveOps s ++ s.saved.flatMap (·.queued)).any (fun o => o.uid = uid && decide (o.id < upto) && pushesRing o ring)

/-- Adds to a counter of a ring; an overrun sets ERR (R285). -/
def addRing (s : State) (ring : Nat) (push : Bool) (n : W32) : State :=
  let r := ringOf s ring
  let r := if push then { r with write := r.write + n } else { r with read := r.read + n }
  let overrun := decide (2 ^ bitsOf r.cfg.toNat 51 4 < (r.write - r.read).toNat)
  setRing s ring (if overrun then { r with cfg := r.cfg ||| (1 <<< 39) } else r)

/-- RING_COUNTER_UPDATE (R244, R285): a release at DEV, in program order with the context's other updates of the ring. -/
def execRingCounterUpdate (s : State) : Host.Outcome State Fault Refusal :=
  match nth s.remotes s.sel.idx with
  | some r =>
    match r.kind with
    | .ring ring push n =>
      .next (if !releaseReady s r.uid 4 r.id || ringBefore s r.uid ring r.id then s
             else dropRemote (addRing (killTags s r.part r.core 4) ring push n) r)
    | _ => .next s
  | none => .next s

/-! ### Barriers across devices (R181) -/

/-- BARRIER_ARRIVAL_REMOTE (R181): the arrival of core `num` of device `die` at group `idx` reaches the device that keeps the entry. -/
def execBarrierArrivalRemote (s : State) : Host.Outcome State Fault Refusal :=
  let g := groupOf s s.sel.idx
  .next (if keepsGroup s g && s.sel.die != s.devnum && g.dmask.getLsbD s.sel.die && g.members.getLsbD s.sel.num then
      completeGroup (setGroup s s.sel.idx { g with far := tmod 0 g.far s.sel.die (fun a => a ||| BitVec.ofNat 256 (2 ^ s.sel.num)) }) s.sel.idx
    else s)

/-- GENERATION_BROADCAST (R181): the generation `num` of group `idx` is installed on a device that does not keep it. -/
def execGenerationBroadcast (s : State) : Host.Outcome State Fault Refusal :=
  let g := groupOf s s.sel.idx
  .next (if g.dmask != 0 && !keepsGroup s g then setGroup s s.sel.idx { g with gen := BitVec.ofNat 16 s.sel.num, arrived := 0 } else s)

/-! ### The split switch (R194) -/

/-- The granules of the cluster's cores in bytes [lo, hi) lose their contents and valid bits. -/
def emptyRegion (s : State) (cluster lo hi : Nat) : State :=
  let inKey (per k : Nat) (u : Nat) : Bool := k / per / 8 = cluster && decide (lo ≤ k % per * u) && decide (k % per * u < hi)
  { s with
    sram := s.sram.filter (fun e => !inKey 0x200000 e.1 1),
    granules := s.granules.filter (fun e => !inKey 16384 e.1 128),
    poison := s.poison.filter (fun e => !(decide (2 ^ 55 ≤ e.1) && inKey 65536 (e.1 - 2 ^ 55) 32)),
    tags := s.tags.filter (fun e => !(decide (2 ^ 55 ≤ e.1) && inKey 65536 (e.1 - 2 ^ 55) 32)) }

/-- An operation stays held for the requests that are left (R194). -/
def unhold (rest : List SplitReq) (o : EngineOp) : EngineOp := { o with held := o.held && rest.any (fun x => opTouches o x.cluster x.lo x.hi) }

/-- What an L1 keeps of its lines at a split code: none at code 4, else as many as there is room for (R193). (DESIGN CHOICE, log 11.) -/
def shrinkL1 (code : Nat) (l : Tab (List Byte)) : Tab (List Byte) := l.take ((Config.sramBytes - Config.share code) / 128)

/-- The split of the first request of a cluster takes effect: the region changes hands, the code is set, and operations held for it alone are released. (DEDUCED, log 61.) -/
def switchSplit (s : State) (r : SplitReq) : State :=
  let s := if r.old = r.code then s else emptyRegion s r.cluster r.lo r.hi
  let rest := s.splits.filter (fun x => x.uid != r.uid)
  let s := { s with splitCode := tset s.splitCode r.cluster r.code, splits := rest,
                    cores := s.cores.map (fun e => (e.1, { e.2 with l1 := if e.1 / 8 = r.cluster then shrinkL1 r.code e.2.l1 else e.2.l1, queue := e.2.queue.map (unhold rest) })),
                    colls := s.colls.map (fun i => { i with ops := i.ops.map (unhold rest) }) }
  modUid s r.uid (fun c => { c with splitDone := true })

/-- SPLIT_SWITCH (R194): the first request of cluster `idx`, once every token it waits for has left PEND. -/
def execSplitSwitch (s : State) : Host.Outcome State Fault Refusal :=
  match s.splits.find? (fun r => r.cluster = s.sel.idx) with
  | some r => .next (if r.waits.any (fun i => (liveOps s).any (fun o => o.id = i)) then s else switchSplit s r)
  | none => .next s

end Sys2Proof.Machine
end

