-- ==== Sys2Proof/Machine/Engines.lean ====
section
/-! DEFINITION. What the engines share: issuing an operation (R273, R274, R276), parameter words, window bounds (R195), fault records (R275), packed rows (R103), translation of an engine's bytes, and ending an operation. KJOIN (R282). -/

namespace Sys2Proof.Machine

/-! ### Issue (R232, R273 to R276) -/

/-- The groups an operator's slots name. -/
def slotGroups (s : State) (id : Nat) : List Nat := (List.range 4).filterMap (groupSlot s id)

/-- The operation as it issues: its inputs bound, its parameters and handle bindings captured (R232, R274, R287). -/
def captureOp (s : State) (id opc x : Nat) (kd ka kb kc : KReg) : EngineOp :=
  let c := ctxOf s id
  { id := 0, opc := opc, x := x, kd := kd.toNat, ins := [bindOf c ka.toNat, bindOf c kb.toNat, bindOf c kc.toNat], m := c.m, h := c.h, uid := c.uid,
    core := id / 4, part := partOfCore s (id / 4), op := c.op, launch := c.launch, dbgctl := c.dbgctl, cls := c.tclass, groups := slotGroups s id,
    held := false, issued := 0, kin := [ka.toNat, kb.toNat, kc.toNat] }

def EngineOp.param (o : EngineOp) (m : Nat) : W64 := tget 0 o.m m

/-- A handle as the operation captured it (R287). -/
def EngineOp.handle (o : EngineOp) (h : Nat) : Handle := if h = 0 then ⟨.scratch, 0, 0, 0, 0⟩ else if h = 1 then ⟨.cluster, 0, 0, 0, 0⟩ else tget .unbound o.h h

/-- The handles whose bindings an operation uses: a bundle waits for them under the scoreboard (R23, R229, R231). -/
def opHandles (o : EngineOp) : List Nat :=
  let w (m : Nat) : Nat := wordH (o.param m)
  let xv (m : Nat) : Nat := bitsOf (o.param m).toNat 36 4
  let all :=
    if o.opc = 1 then [w 1, w 2, xv 1, xv 2] ++ (if (o.param 0).getLsbD 8 then [w 4] else [])
    else if o.opc = 7 || o.opc = 8 then [w 1, w 2, w 4]
    else if o.opc = 9 then [w 2]
    else if 4 ≤ o.opc && o.opc ≤ 6 then [w 1, w 2]
    else if o.opc = 0x0D then [w 1, w 2] ++ (if o.x % 2 = 1 then [w 4] else [])
    else if o.opc = 0x0E then [w 1, w 2]
    else if 0x0F ≤ o.opc then List.range 16
    else []
  all.filter (fun h => 2 ≤ h)

/-- An engine instruction at issue (R273, R276): it blocks while its token is PEND and, where it takes an entry, while the core's queue is full. -/
def engineOut (opc x : Nat) (g : GReg) (kd ka kb kc : KReg) (join : Bool) (s : State) (id : Nat) : SlotOut :=
  let c := ctxOf s id
  guarded .d opc g c (fun o =>
    let e := captureOp s id opc x kd ka kb kc
    { o with
      reads := o.reads ++ (opHandles e).map (fun h => (8, h, h)), writes := if kd = 0 then [] else [(4, kd.toNat)],
      block := if (readK c kd.toNat).st == .pend then some (.token kd.toNat) else if !join && decide (32 ≤ (coreOf s (id / 4)).queue.length) then some .engineQueue else none,
      effects := [if join then .join e else .enqueue e] })

/-- KJOIN (R282). -/
def execKjoin (g : GReg) (kd ka kb kc : KReg) (s : State) : Host.Outcome State Fault Refusal := runSlot s (engineOut 0x03 0 g kd ka kb kc true)

/-! ### Faults of an operation (R195, R275) -/

/-- A bounds failure of an engine's bytes (R195, R275): the cause, and the first byte at or beyond the extent. A window's bytes inside the SRAM but beyond the extent are of the wrong role. (DEDUCED, log 15.) -/
def boundFault (s : State) (o : EngineOp) (h off len : Nat) : Option FaultRec :=
  let hk := o.handle h
  if len = 0 then none
  else
    match extentOf s o.core o.part hk with
    | none => some (o.faultAt 0x35 h off)
    | some ext =>
      if off + len ≤ ext then none
      else
        let sram := if h = 0 then Config.sramBytes else 8 * Config.sramBytes
        some (o.faultAt (if hk.kind != .tensor && off + len ≤ sram then 0x2B else 0x24) h (max off ext))

/-- The captured handle is unbound. -/
def unboundFault (o : EngineOp) (h : Nat) : Option FaultRec := if (o.handle h).kind = .unbound then some (o.faultAt 0x23 h 0) else none

/-- The operation's queue entry is freed. -/
def unqueue (s : State) (o : EngineOp) : State := modCore s o.core (fun k => { k with queue := k.queue.filter (fun q => q.id != o.id) })

/-- The unit of an opcode: 0 the matrix array, 1 the copy engine, 2 the stream engine, 3 collectives, 4 the Lakebed path. -/
def unitOf (opc : Nat) : Nat := if opc ≤ 2 then 0 else if opc ≤ 9 then 1 else if opc = 0x0D then 2 else if opc = 0x0E then 3 else 4

/-- The unit is offline after a hardware error (R362). -/
def unitOffline (s : State) (core opc : Nat) : Bool := tget false (coreOf s core).offline (unitOf opc)

/-- The operation of a list that was issued first. -/
def earliestOp (l : List EngineOp) : Option EngineOp := l.foldl (fun b o => match b with | some x => if o.issued < x.issued then some o else b | none => some o) none

/-- The earliest queued operation of a core that may start: ready, not held by a split (R194, R274, R276), and passing the engine's own rule. -/
def nextQueued (s : State) (core : Nat) (may : EngineOp → Bool) : Option EngineOp := earliestOp ((coreOf s core).queue.filter (fun o => o.ready && !o.held && may o))

/-! ### Packed rows (R103) -/

/-- Elements `first` to `first` + n − 1 of `w` bits of a packed row given from the byte that holds its first of them. -/
def unpackRow (w first n : Nat) (data : List Byte) : List Nat :=
  let x := leNat data / 2 ^ (first * w % 8)
  (List.range n).map (fun j => x / 2 ^ (w * j) % 2 ^ w)

/-- The first byte and the number of bytes that hold those elements. -/
def packedSpan (w first n : Nat) : Nat × Nat := (first * w / 8, (first * w + n * w + 7) / 8 - first * w / 8)

/-- The bytes of a packed row of elements; the bits beyond the last are zero (R103). -/
def packRow (w : Nat) (l : List Nat) : List Byte := leBytes (l.foldr (fun e a => e % 2 ^ w + 2 ^ w * a) 0) ((w * l.length + 7) / 8)

/-! ### An engine's bytes at their homes -/

/-- How the places of an engine's bytes are found: they are there, the operation waits, or it faults. -/
inductive Place where
  | ok (segs : List Seg)
  | wait
  | fault (r : FaultRec)
  deriving DecidableEq, Repr

/-- The places of bytes of a handle, with residency and translation (R289); windows need none, and bytes of another device lie there. -/
def placeOf (s : State) (o : EngineOp) (tlb h off len need : Nat) : State × Place :=
  let hk := o.handle h
  if hk.kind != .tensor then (s, .ok (windowSegs o.core hk.kind off len))
  else if hk.dev != 0 then
    if noRoute s o.part hk.dev = 0 then (s, .ok [⟨.far hk.dev hk.tid off, len⟩]) else (s, .fault (o.faultAt (noRoute s o.part hk.dev) h off))
  else
    match refTensor s o.part hk.tid o.op (some o.id) with
    | (s, .wait _) => (s, .wait)
    | (s, .fail c t) => (s, .fault (if c = 0x35 then o.faultAt 0x35 h off else plainFault c (t % 2 ^ 20)))
    | (s, .ok) =>
      match tensorOf s o.part hk.tid with
      | none => (s, .fault (o.faultAt 0x35 h off))
      | some t =>
        match translateRange s o.id tlb o.part (t.vbase + off) len need with
        | (s, .ok segs) => (s, .ok segs)
        | (s, .error (e, va)) => if e = .pending then (s, .wait) else (s, .fault { o.faultAt e.cause h (va - t.vbase) with detail := (if e.cause = 0x2C then e.level * 64 else 0) + 0x30 + h })

/-- Writes an engine's bytes under the writer tags of its core (R242, R290); those of another device are sent there, a line at a time (R410). -/
def engineStore (s : State) (o : EngineOp) (segs : List Seg) (data : List Byte) : State :=
  let s := clearIncomp s (storedSegs s o.core segs)
  let go := segs.foldl (fun (acc : State × List Byte) g =>
    (if g.loc.isFar then sendFar acc.1 0 [g] (acc.2.take g.len) else plainStore acc.1 o.core o.launch g.loc (acc.2.take g.len), acc.2.drop g.len)) (s, data)
  dropWritten go.1 o.core segs

/-- The bytes an engine reads; those of another device are the turn's input, from its byte `first` on. -/
def engineRead (s : State) (o : EngineOp) (first : Nat) (segs : List Seg) : List Byte :=
  segs.flatMap (fun g => if g.loc.isFar then (s.sel.data.drop first ++ List.replicate g.len 0).take g.len else readLocs s o.launch g.loc g.len)

/-- The 128-byte beats of tier-0 pages that a copy-engine operation moves add to their pages' counts; a line that two pieces of a row share counts once, with the first (R212, R291). (DESIGN CHOICE, log 64.) -/
def countBeats (s : State) (off : Nat) (segs : List Seg) : State :=
  segs.foldl (fun s g =>
    match g.loc with
    | .mem k =>
      let beats := (k + g.len + 127) / 128 - (if off = 0 then k / 128 else (k + 127) / 128)
      if keySpace k = 0 then { s with pageCount := tmod 0 s.pageCount (k / 65536) (fun n => min 65535 (n + beats)) } else s
    | _ => s) s

/-- What a copy's read leaves behind: its requests to another device, and its beats. -/
def readTraffic (s : State) (off : Nat) (segs : List Seg) : State := countBeats (sendFar s 4 segs []) off segs

/-- The offset in the segments of the first poisoned byte. -/
def enginePoison (s : State) (o : EngineOp) (h off : Nat) (segs : List Seg) : Option FaultRec := (firstPoison s segs).map (fun i => o.faultAt 0x2D h (off + i))

end Sys2Proof.Machine
end

