-- ==== Sys2Proof/Machine/Matrix.lean ====
section
/-! DEFINITION. The matrix engine: pairings (R248), parameters (R252 to R255, R260), the shipped routines (R258), micro-ops (R256, R257), summation (R117, R118), tiles and calls (R261 to R264), drains and the landing pool (R265, R266), narrowing (R269). -/

namespace Sys2Proof.Machine

/-! ### Pairings (R111, R248) -/

/-- The width an operand has once decoded: the padded significand of a float, the whole of an integer (R111). -/
def decodedWidth (code : Nat) : Nat := if code = 10 then 2 else if code = 11 then 4 else if code = 12 then 6 else if code = 13 then 8 else if code = 14 then 12 else (nfmtOf code).width

/-- Brick positions of a format code (R111, R248). -/
def bricks (code : Nat) : Nat := (decodedWidth code + 1) / 2

/-- A float pairing (R117). -/
def floatPair (a b : Nat) : Bool := !((nfmtOf a).isInt && (nfmtOf b).isInt)

/-- Products per cell and cycle (R248). -/
def pairWidth (a b : Nat) : Nat :=
  let k := 2 ^ Nat.log2 (64 / (bricks a * bricks b))
  if floatPair a b then min k 16 else k

/-! ### Parameters (R252 to R254) -/

def afmt (o : EngineOp) : Nat := bitsOf (o.param 0).toNat 0 4
def bfmt (o : EngineOp) : Nat := bitsOf (o.param 0).toNat 4 4
def spen (o : EngineOp) : Bool := (o.param 0).getLsbD 8
/-- N of 24. -/
def spn (o : EngineOp) : Nat := [6, 8, 12, 16].getD (bitsOf (o.param 0).toNat 9 2) 6
def accTile (o : EngineOp) : Nat := if o.opc = 2 then o.x % 4 else bitsOf (o.param 0).toNat 12 2
def accz (o : EngineOp) : Bool := (o.param 0).getLsbD 14
def dint (o : EngineOp) : Nat := bitsOf (o.param 0).toNat 16 16
def kLen (o : EngineOp) : Nat := bitsOf (o.param 3).toNat 0 32
def xvh (o : EngineOp) (m : Nat) : Nat := bitsOf (o.param m).toNat 36 4

/-- The words of the shipped routines (R258): 0 and 1; 2; 3; 4. -/
def shipped (r : Nat) : List W64 :=
  let mla : W64 := 1 <<< 59
  let mlb : W64 := 2 <<< 59
  let mlbT : W64 := (2 <<< 59) ||| 1
  let mstep : W64 := 3 <<< 59
  let drainC : W64 := (4 <<< 59) ||| 1
  let kleft : W64 := (5 <<< 59) ||| (1 <<< 57)
  let loop0 : W64 := 5 <<< 59
  let addA : W64 := (6 <<< 59) ||| (1 <<< 54)
  let addB : W64 := (6 <<< 59) ||| (1 <<< 56) ||| (2 <<< 54)
  let setEa : W64 := (6 <<< 59) ||| (3 <<< 56) ||| (1 <<< 53)
  let mend : W64 := 8 <<< 59
  if r ≤ 1 then [mla, mlb, mstep, kleft, drainC, mend]
  else if r = 2 then [mla, mlb, mstep, kleft, addA, addB, setEa, loop0, drainC, mend]
  else if r = 3 then [mla, mlbT, mstep, kleft, drainC, mend]
  else if r = 4 then [mla, mlb, mstep, kleft, drainC, addA, addB, setEa, loop0, mend]
  else []

/-- The entry of a routine: valid, with its reserved field clear (R257). -/
def routineOk (k : Core) (r : Nat) : Bool :=
  if r ≤ 4 then true else if r < 16 then false else (tget 0 k.rtable r).getLsbD 63 && bitsOf (tget 0 k.rtable r).toNat 10 53 = 0

/-- The next word of the running routine; none beyond the store (R257). -/
def microWord (s : State) (core : Nat) (r : McallRun) : Option W64 :=
  let k := coreOf s core
  if r.routine ≤ 4 then nth (shipped r.routine) r.pc
  else
    let a := (tget 0 k.rtable r.routine).toNat % 1024 + r.pc
    if a < 1024 then some (tget 0 k.store a) else none

/-- The address of the running routine's next word, when its sector of the store is poisoned (R362, R368). (DEDUCED, log 66.) -/
def badMicroWord (s : State) (core : Nat) (r : McallRun) : Option Nat :=
  let k := coreOf s core
  let a := (tget 0 k.rtable r.routine).toNat % 1024 + r.pc
  if 4 < r.routine && k.badStore.contains (a / 4) then some a else none

/-- The checks of an MCALL at its start, in the order of R260. (DEDUCED, log 29.) WINDOW_ROLE, HANDLE_UNBOUND and HANDLE_STALE concern no byte and record offset 0. (DESIGN CHOICE, log 72.) -/
def mcallCheck (s : State) (o : EngineOp) : Option FaultRec :=
  let k := coreOf s o.core
  let m0 := (o.param 0).toNat
  let bad (n : Nat) : Option FaultRec := some (plainFault 0x41 n)
  let t := tget Tile.free k.tiles (accTile o)
  let dh := ([1, 2] ++ (if spen o then [4] else [])).map (fun m => wordH (o.param m))
  if afmt o = 15 || bfmt o = 15 then bad 1
  else if bitsOf m0 32 32 != 0 || bitsOf m0 11 1 != 0 || bitsOf (o.param 3).toNat 32 32 != 0 || bitsOf (o.param 5).toNat 16 48 != 0
      || (spen o && bitsOf (o.param 4).toNat 36 4 != 0) || xvh o 1 = 1 || xvh o 2 = 1 then bad 2
  else if !routineOk k o.x then bad 3
  else if (spen o && kLen o % 24 != 0) || (o.x = 1 && !spen o) || ((o.x = 2 || o.x = 4) && bitsOf (o.param 6).toNat 0 32 = 0) then bad 4
  else if !accz o && t.kind != .empty && t.kind != (if floatPair (afmt o) (bfmt o) then .float else .int) then bad 5
  else
    match dh.find? (fun h => 2 ≤ h) with
    | some h => some (o.faultAt 0x2B h 0)
    | none =>
      match [xvh o 1, xvh o 2].find? (fun h => decide (2 ≤ h) && (o.handle h).kind = .unbound) with
      | some h => some (o.faultAt 0x23 h 0)
      | none => [(xvh o 1, afmt o), (xvh o 2, bfmt o)].findSome? (fun x =>
          if 2 ≤ x.1 && x.2 = 10 && (o.handle x.1).dev = 0 && (tensorOf s o.part (o.handle x.1).tid).isNone then some (o.faultAt 0x35 x.1 0) else none)

/-- The extra value an f4 operand takes, before R107's test (R254). That of a record of another device is the turn's: bits [15:0] of its word, and [31:16] for a B operand whose record is not A's. (DEDUCED, log 29.) -/
def xvOf (s : State) (o : EngineOp) (fmt m : Nat) : W16 :=
  let h := xvh o m
  let record (h : Nat) : Nat × Nat := ((o.handle h).dev, (o.handle h).tid)
  if h < 2 || fmt != 10 then 0
  else if (o.handle h).dev != 0 then (if m = 2 && record (xvh o 1) != record h then s.sel.word >>> 16 else s.sel.word).truncate 16
  else match tensorOf s o.part (o.handle h).tid with | some t => t.xv | none => 0

/-- The array runs a call narrow: its NOVR, or the alarm of its die (R269). -/
def runsNarrow (s : State) (o : EngineOp) : Bool := (o.param 0).getLsbD 15 || (tget Die.fresh s.dies (dieOfCore o.core)).alarm

/-- The sequencer as a call starts (R256). -/
def startRun (s : State) (o : EngineOp) : McallRun :=
  let iv := if dint o = 0 || dint o = 0xFFFF then none else some (if spen o then dint o * 192 * spn o / 24 else dint o * 192)
  { op := o, routine := o.x, pc := 0, ea := 0, ic := 0, ilen := iv, dn := 0, aoff := (o.param 1).truncate 32, boff := (o.param 2).truncate 32,
    moff := (o.param 4).truncate 32,
    ctr := [(0, (o.param 6).truncate 32), (1, ((o.param 6) >>> 32).truncate 32), (2, (o.param 7).truncate 32), (3, ((o.param 7) >>> 32).truncate 32)],
    xva := latchXv (xvOf s o (afmt o) 1), xvb := latchXv (xvOf s o (bfmt o) 2), endk := if spen o then kLen o * spn o / 24 else kLen o, steps := 0,
    stagedA := none, stagedB := none, codesA := [], codesB := [], metas := [], word := 0, clamped := false, narrow := runsNarrow s o, atStep := true, ended := false }

/-! ### MCALL and MZERO (R259 to R264) -/

/-- MCALL (R259, R260). -/
def execMcall (g : GReg) (kd ka kb kc : KReg) (n : BitVec 7) (s : State) : Host.Outcome State Fault Refusal := runSlot s (engineOut 0x01 n.toNat g kd ka kb kc false)
/-- MZERO (R259, R260). -/
def execMzero (g : GReg) (kd ka kb kc : KReg) (tile : BitVec 2) (s : State) : Host.Outcome State Fault Refusal := runSlot s (engineOut 0x02 tile.toNat g kd ka kb kc false)

/-- The operation may start on the free array (R264): its tile is free or its context's, and no earlier operation of the tile is queued. -/
def mayStart (s : State) (o : EngineOp) : Bool :=
  let k := coreOf s o.core
  let owner := (tget Tile.free k.tiles (accTile o)).owner
  (o.opc = 1 || o.opc = 2) && (owner.isNone || owner = some o.uid)
  && k.queue.all (fun q => !((q.opc = 1 || q.opc = 2) && accTile q = accTile o && decide (q.issued < o.issued)))

def setTile (s : State) (core t : Nat) (x : Tile) : State := modCore s core (fun k => { k with tiles := tset k.tiles t x })

/-- MATRIX_START (R260, R262, R264): the free array starts the earliest operation that may. An MZERO is done when the tile is empty. -/
def execMatrixStart (s : State) : Host.Outcome State Fault Refusal :=
  let core := s.sel.core
  if (coreOf s core).mcall.isSome then .next s
  else
    match nextQueued s core (mayStart s) with
    | none => .next s
    | some o =>
      match (coreOf s core).resumed.find? (fun r => r.op.id = o.id) with
      | some r => .next (modCore (unqueue s o) core (fun k => { k with mcall := some { r with narrow := runsNarrow s r.op }, resumed := k.resumed.filter (fun x => x.op.id != o.id) }))
      | none =>
      let s := unqueue s o
      let t := tget Tile.free (coreOf s core).tiles (accTile o)
      if unitOffline s core o.opc then .next (endOp s o.id (some (plainFault 0x46 o.opc)) 0)
      else if o.opc = 2 then .next (endOp (setTile s core (accTile o) { Tile.free with owner := some o.uid }) o.id none 0)
      else
        match mcallCheck s o with
        | some r => .next (endOp s o.id (some r) 0)
        | none =>
          let r := startRun s o
          let bad := [(afmt o, 1), (bfmt o, 2)].any (fun p => !xvRepresentable (xvOf s o p.1 p.2))
          let s := if bad then modUid s o.uid (fun c => { c with warnFallback := true }) else s
          let s := setTile s core (accTile o) (if accz o then { Tile.free with owner := some o.uid } else { t with owner := some o.uid })
          .next (modCore s core (fun k => { k with mcall := some r }))

/-- A running call ends at once with a fault (R260). Its drains that have not landed stay on their way to the pool and land later. (DESIGN CHOICE, log 73.) -/
def failMcall (s : State) (core : Nat) (r : FaultRec) : State :=
  match (coreOf s core).mcall with
  | some m => endOp (modCore s core (fun k => { k with mcall := none })) m.op.id (some r) 0
  | none => s

/-- The running call of a core after a micro-op: its sequencer goes to `pc`. -/
def goMicro (s : State) (core : Nat) (r : McallRun) (pc : Nat) : State := modCore s core (fun k => { k with mcall := some { r with pc := pc, steps := r.steps + 1 } })

/-- Runs a micro-op of the selected core's call. -/
def runMicro (s : State) (f : State → Nat → McallRun → State) : Host.Outcome State Fault Refusal :=
  match (coreOf s s.sel.core).mcall with
  | some r => .next (if r.ended then s else f s s.sel.core r)
  | none => .next s

/-- MICROOP_COUNT_EXPIRY (R257). -/
def execMicroopCountExpiry (s : State) : Host.Outcome State Fault Refusal :=
  runMicro s (fun s core r => if 2 ^ 32 ≤ r.steps then failMcall s core (plainFault 0x41 8) else s)

/-! ### Staging (R250, R255, R256) -/

/-- The size of the next step, the same in MLA, MLB and MSTEP (R256). -/
def stepSize (r : McallRun) : Nat :=
  let k := min (pairWidth (afmt r.op) (bfmt r.op)) (r.endk - r.ea)
  match r.ilen with
  | some n => min k (n - r.ic)
  | none => k

/-- Elements of a packed row of an operand window: their codes, or the fault of their first failing byte (R195, R250, R370). -/
def rowCodes (s : State) (o : EngineOp) (h base w first n : Nat) : Except FaultRec (List Nat) :=
  let (b, len) := packedSpan w first n
  match boundFault s o h (base + b) len with
  | some f => .error f
  | none =>
    let segs := windowSegs o.core (o.handle h).kind (base + b) len
    match enginePoison s o h (base + b) segs with
    | some f => .error f
    | none => .ok (unpackRow w first n (readSegs s o.launch segs))

/-- The codes of several rows, one after another. -/
def manyRows (f : Nat → Except FaultRec (List Nat)) (rows : List Nat) : Except FaultRec (List Nat) :=
  match rows with
  | [] => .ok []
  | i :: rest =>
    match f i with
    | .error e => .error e
    | .ok l =>
      match manyRows f rest with
      | .error e => .error e
      | .ok m => .ok (l ++ m)

/-- The groups the next step's elements lie in (R255). -/
def groupSpan (r : McallRun) (n : Nat) : Nat × Nat := (r.ea / spn r.op, (r.ea + n - 1) / spn r.op - r.ea / spn r.op + 1)

def popcount24 (m : Nat) : Nat := ((List.range 24).filter (fun q => m.testBit q)).length

/-- One row's metadata words, checked (R255). -/
def metaRow (s : State) (r : McallRun) (g n i : Nat) : Except FaultRec (List Nat) :=
  match rowCodes s r.op (wordH (r.op.param 4)) (r.moff.toNat + i * wordStride (r.op.param 4)) 32 g n with
  | .error e => .error e
  | .ok ws => if ws.any (fun w => decide (2 ^ 24 ≤ w) || popcount24 w != spn r.op) then .error (plainFault 0x41 9) else .ok ws

/-- One row of A: its metadata first, then its elements. -/
def stageRow (s : State) (r : McallRun) (n i : Nat) : Except FaultRec (List Nat × List Nat) :=
  let a := rowCodes s r.op (wordH (r.op.param 1)) (r.aoff.toNat + i * wordStride (r.op.param 1)) (nfmtOf (afmt r.op)).width r.ea n
  let (g, gn) := groupSpan r n
  match (if spen r.op then metaRow s r g gn i else .ok []) with
  | .error e => .error e
  | .ok ms => a.map (fun l => (ms, l))

/-- Several rows of A, row by row: where metadata and elements of several rows fail, the first row's failure is reported. (DESIGN CHOICE, log 73.) -/
def stageRows (s : State) (r : McallRun) (n : Nat) (rows : List Nat) : Except FaultRec (List Nat × List Nat) :=
  match rows with
  | [] => .ok ([], [])
  | i :: rest =>
    match stageRow s r n i with
    | .error e => .error e
    | .ok (m, a) =>
      match stageRows s r n rest with
      | .error e => .error e
      | .ok (ms, as) => .ok (m ++ ms, a ++ as)

/-- MLA (R256). -/
def execMla (s : State) : Host.Outcome State Fault Refusal :=
  runMicro s (fun s core r =>
    let n := stepSize r
    match (if n = 0 then .ok ([], []) else stageRows s r n (List.range 128)) with
    | .error e => failMcall s core e
    | .ok (ms, as) => goMicro s core { r with stagedA := some r.ea, codesA := as, metas := ms, atStep := false } (r.pc + 1))

/-- The K positions whose B rows the next step needs: the first and their number (R256). -/
def neededK (r : McallRun) (n : Nat) : Nat × Nat :=
  if n = 0 then (r.ea, 0)
  else if spen r.op then ((groupSpan r n).1 * 24, (groupSpan r n).2 * 24)
  else (r.ea, n)

/-- MLB (R256): the word's TRANS bit selects the layout. The staged codes are kept position by position, 64 to each. -/
def execMlb (s : State) : Host.Outcome State Fault Refusal :=
  runMicro s (fun s core r =>
    let (p, n) := neededK r (stepSize r)
    let h := wordH (r.op.param 2)
    let sb := wordStride (r.op.param 2)
    let w := (nfmtOf (bfmt r.op)).width
    let codes :=
      if n = 0 then .ok []
      else if r.word.getLsbD 0 then
        (manyRows (fun c => rowCodes s r.op h (r.boff.toNat + c * sb) w p n) (List.range 64)).map
          (fun l => (List.range n).flatMap (fun j => (List.range 64).map (fun c => l.getD (c * n + j) 0)))
      else manyRows (fun j => rowCodes s r.op h (r.boff.toNat + (p + j) * sb) w 0 64) (List.range n)
    match codes with
    | .error e => failMcall s core e
    | .ok l => goMicro s core { r with stagedB := some r.ea, codesB := l, atStep := false } (r.pc + 1))

/-! ### Steps (R117, R118) -/

/-- The (j + 1)-th set bit of a mask. -/
def nthSet (mask j : Nat) : Nat := ((List.range 24).filter (fun q => mask.testBit q)).getD j 0

/-- The place among the staged B positions of A element `j` of row `i` (R255). -/
def bPlace (r : McallRun) (n i j : Nat) : Nat :=
  if spen r.op then
    let (g, gn) := groupSpan r n
    let e := r.ea + j
    let gi := e / spn r.op - g
    24 * gi + nthSet (r.metas.getD (i * gn + gi) 0) (e % spn r.op)
  else j

/-- The default NaN of f32 (R117). -/
def nan32 : Nat := 0x7FC00000

/-- The exact sum of exact products; none where a NaN or an invalid operation is involved (R117). -/
def exactSum (ps : List (FVal × FVal)) : Option FVal :=
  match ps with
  | [] => some FVal.zero
  | [(a, b)] => FVal.mul a b
  | (a, b) :: rest => (FVal.mul a b).bind (fun p => (exactSum rest).bind (fun t => FVal.add false p t))

/-- One k-step of a float cell (R117). -/
def floatStep (acc : Nat) (ps : List (FVal × FVal)) : Nat :=
  let c := if ps.any (fun p => p.1.isNan || p.2.isNan) then nan32
    else match exactSum ps with
      | some v => (FFmt.f32.round .rne false v).1
      | none => nan32
  (FFmt.f32.arith .add .rne false acc c 0).code

/-- One k-step of an integer cell: the exact sum clamped to 48 bits (R118). -/
def intStep (acc : Int) (ps : List (Int × Int)) : Int × Bool := clampInt 48 true (ps.foldl (fun a p => a + p.1 * p.2) acc)

/-- An integer format's sign. -/
def signedFmt (code : Nat) : Bool := match nfmtOf code with | .int _ sg => sg | _ => true

/-- The pairs of codes a cell multiplies in a step. -/
def cellPairs (r : McallRun) (n i c : Nat) : List (Nat × Nat) :=
  (List.range n).map (fun j => (r.codesA.getD (i * n + j) 0, r.codesB.getD (bPlace r n i j * 64 + c) 0))

/-- The tile after a step of `n` > 0 products (R117, R118, R263), and whether an accumulator clamped. -/
def stepTile (r : McallRun) (n : Nat) (t : Tile) : Tile × Bool :=
  let fa := nfmtOf (afmt r.op)
  let fb := nfmtOf (bfmt r.op)
  let keys := List.range 8192
  if floatPair (afmt r.op) (bfmt r.op) then
    let xa := FFmt.bf16.decode r.xva.toNat
    let xb := FFmt.bf16.decode r.xvb.toNat
    let v := keys.map (fun k => (k, BitVec.ofNat 48 (floatStep (tget 0 t.vals k).toNat ((cellPairs r n (k / 64) (k % 64)).map (fun p => (fa.decode xa p.1, fb.decode xb p.2))))))
    ({ t with kind := .float, vals := v.filter (fun e => e.2 != 0) }, false)
  else
    let v := keys.map (fun k => (k, intStep (tget 0 t.vals k).toInt ((cellPairs r n (k / 64) (k % 64)).map (fun p => (intOf fa.width (signedFmt (afmt r.op)) p.1, intOf fb.width (signedFmt (bfmt r.op)) p.2)))))
    ({ t with kind := .int, vals := (v.filter (fun e => e.2.1 != 0)).map (fun e => (e.1, BitVec.ofInt 48 e.2.1)),
              clamps := ((keys.filter (fun k => tget false t.clamps k || (v.getD k (k, (0, false))).2.2)).map (fun k => (k, true))) },
     v.any (fun e => e.2.2))

/-! ### Drains (R119, R265, R266) -/

/-- The pool entry a drain makes of a tile; poison stays with its values (R119, R265, R370). -/
def drainEntry (r : McallRun) (t : Tile) : PoolEntry :=
  let tb := bitsOf (r.op.param 5).toNat 0 16
  let sat (k : Nat) : Bool := t.kind = .int && (tget false t.clamps k || (clampInt 32 true (tget 0 t.vals k).toInt).2)
  { uid := r.op.uid, xfer := (tb + r.dn) % 2 ^ 16,
    vals := t.vals.map (fun e => (e.1, if t.kind = .int then BitVec.ofInt 32 (clampInt 32 true e.2.toInt).1 else e.2.truncate 32)),
    sat := ((List.range 8192).filter sat).map (fun k => (k, true)), committed := 0, landed := false, bad := t.bad }

/-- Drains the call's tile into the pool, which has a free entry (R265). -/
def drainTile (s : State) (core : Nat) (r : McallRun) : State × McallRun :=
  let t := tget Tile.free (coreOf s core).tiles (accTile r.op)
  (modCore s core (fun k => { k with pool := k.pool ++ [drainEntry r t], tiles := tset k.tiles (accTile r.op) { Tile.free with owner := t.owner } }),
   { r with dn := r.dn + 1, ic := 0 })

/-- The pool has no free entry: the array stops (R266). -/
def poolFull (s : State) (core : Nat) : Bool := decide (4 ≤ (coreOf s core).pool.length)

/-- The drain that ends an interval, once the pool has an entry for it; until then the array stops (R266). -/
def finishInterval (s : State) (core : Nat) (r : McallRun) : State :=
  if poolFull s core then modCore s core (fun k => { k with mcall := some { r with draining := true } })
  else (let (s, r) := drainTile s core { r with draining := false }; goMicro s core r (r.pc + 1))

/-- MSTEP (R256): needs both stagings of this EA; a step that ends its interval drains, and one that meets a poisoned accumulator ends the call (R362). A step of another size than what is staged has no staging of its own. (DESIGN CHOICE, log 73.) -/
def execMstep (s : State) : Host.Outcome State Fault Refusal :=
  runMicro s (fun s core r =>
    let n := stepSize r
    if r.draining then finishInterval s core r
    else if r.stagedA != some r.ea || r.stagedB != some r.ea || r.codesA.length != 128 * n || r.codesB.length != 64 * (neededK r n).2 then failMcall s core (plainFault 0x41 6)
    else
      let r := { r with narrow := runsNarrow s r.op }
      let full := r.ilen = some (r.ic + n)
      let t := tget Tile.free (coreOf s core).tiles (accTile r.op)
      if n != 0 && !t.bad.isEmpty then failMcall s core (plainFault 0x4B (accTile r.op))
      else
        let (t', cl) := if n = 0 then (t, false) else stepTile r n t
        let s := setTile s core (accTile r.op) t'
        let r := { r with ea := r.ea + n, ic := r.ic + n, clamped := r.clamped || cl, atStep := true }
        if full then finishInterval s core r else goMicro s core r (r.pc + 1))

/-- MDRAIN (R256): the word's COND bit makes it conditional. -/
def execMdrain (s : State) : Host.Outcome State Fault Refusal :=
  runMicro s (fun s core r =>
    if !r.word.getLsbD 0 || (decide (0 < r.ic) && dint r.op != 0xFFFF) then
      if poolFull s core then s else (let (s, r) := drainTile s core r; goMicro s core r (r.pc + 1))
    else goMicro s core r (r.pc + 1))

/-- MLOOP (R256): on a counter, or while K is left. -/
def execMloop (kleft : Bool) (l : BitVec 2) (target : BitVec 10) (s : State) : Host.Outcome State Fault Refusal :=
  runMicro s (fun s core r =>
    if kleft then goMicro s core r (if r.ea < r.endk then target.toNat else r.pc + 1)
    else
      let v := tget 0 r.ctr l.toNat - 1
      goMicro s core { r with ctr := tset r.ctr l.toNat v } (if v = 0 then r.pc + 1 else target.toNat))

/-- MADV (R256): adds to or sets a base, the cursor or a counter. -/
def execMadv (dest : BitVec 3) (src : BitVec 2) (set : Bool) (imm : BitVec 32) (s : State) : Host.Outcome State Fault Refusal :=
  runMicro s (fun s core r =>
    let v : W32 := if src = 0 then imm else if src = 1 then (r.op.param 7).truncate 32 else ((r.op.param 7) >>> 32).truncate 32
    let upd (x : W32) : W32 := if set then v else x + v
    let ea : Int := if set then (if src = 0 then (v.toNat : Int) else v.toInt) else (r.ea : Int) + v.toInt
    match dest.toNat with
    | 0 => goMicro s core { r with aoff := upd r.aoff } (r.pc + 1)
    | 1 => goMicro s core { r with boff := upd r.boff } (r.pc + 1)
    | 2 => goMicro s core { r with moff := upd r.moff } (r.pc + 1)
    | 3 => if ea < 0 || (r.endk : Int) < ea then failMcall s core (plainFault 0x41 7) else goMicro s core { r with ea := ea.toNat } (r.pc + 1)
    | n => goMicro s core { r with ctr := tset r.ctr (n - 4) (upd (tget 0 r.ctr (n - 4))) } (r.pc + 1))

/-- Every drain of the context's calls has landed. -/
def drainsLanded (s : State) (core uid : Nat) : Bool := (coreOf s core).pool.all (fun e => e.landed || e.uid != uid)

/-- MSYNC (R256): staged reads are complete when their micro-op is; it waits for the call's drains. -/
def execMsync (s : State) : Host.Outcome State Fault Refusal :=
  runMicro s (fun s core r => if drainsLanded s core r.op.uid then goMicro s core r (r.pc + 1) else s)

/-- MEND (R256): the routine is over. -/
def execMend (s : State) : Host.Outcome State Fault Refusal :=
  runMicro s (fun s core r => modCore s core (fun k => { k with mcall := some { r with ended := true, steps := r.steps + 1 } }))

/-- DRAIN_LAND (R265): the earliest drain of the selected core that has not landed lands. -/
def execDrainLand (s : State) : Host.Outcome State Fault Refusal :=
  let k := coreOf s s.sel.core
  match (List.range k.pool.length).find? (fun i => match nth k.pool i with | some e => !e.landed | none => false) with
  | some i => .next (modCore s s.sel.core (fun k => { k with pool := match nth k.pool i with | some e => setNth k.pool i { e with landed := true } | none => k.pool }))
  | none => .next s

/-- MCALL_COMPLETE (R261): after MEND, once every drain has landed, the token is DONE, or faults with ACC_CLAMP where that check is enabled (R360). -/
def execMcallComplete (s : State) : Host.Outcome State Fault Refusal :=
  let core := s.sel.core
  match (coreOf s core).mcall with
  | some r =>
    if r.ended && drainsLanded s core r.op.uid then
      .next (endOp (modCore s core (fun k => { k with mcall := none })) r.op.id (if r.clamped && r.op.dbgctl.getLsbD 14 then some (plainFault 0x1E (accTile r.op)) else none) 0)
    else .next s
  | none => .next s

end Sys2Proof.Machine
end

