-- ==== Sys2Proof/Machine/Copies.lean ====
section
/-! DEFINITION. The copy engines: XCOPY, XLOAD, XSTORE, XGATHER, XSCATTER and XFILL (R287 to R291), their start, their moves and their end; ENGINE_TIMEOUT (R362). -/

namespace Sys2Proof.Machine

/-! ### Issue (R287) -/

/-- XCOPY (R287). -/
def execXcopy (g : GReg) (kd ka kb kc : KReg) (x : BitVec 4) (s : State) : Host.Outcome State Fault Refusal := runSlot s (engineOut 0x04 x.toNat g kd ka kb kc false)
/-- XLOAD (R287). -/
def execXload (g : GReg) (kd ka kb kc : KReg) (x : BitVec 4) (s : State) : Host.Outcome State Fault Refusal := runSlot s (engineOut 0x05 x.toNat g kd ka kb kc false)
/-- XSTORE (R287). -/
def execXstore (g : GReg) (kd ka kb kc : KReg) (x : BitVec 4) (s : State) : Host.Outcome State Fault Refusal := runSlot s (engineOut 0x06 x.toNat g kd ka kb kc false)
/-- XGATHER (R287). -/
def execXgather (g : GReg) (kd ka kb kc : KReg) (x : BitVec 4) (s : State) : Host.Outcome State Fault Refusal := runSlot s (engineOut 0x07 x.toNat g kd ka kb kc false)
/-- XSCATTER (R287). -/
def execXscatter (g : GReg) (kd ka kb kc : KReg) (x : BitVec 4) (s : State) : Host.Outcome State Fault Refusal := runSlot s (engineOut 0x08 x.toNat g kd ka kb kc false)
/-- XFILL (R287). -/
def execXfill (g : GReg) (kd ka kb kc : KReg) (x : BitVec 4) (s : State) : Host.Outcome State Fault Refusal := runSlot s (engineOut 0x09 x.toNat g kd ka kb kc false)

/-! ### Parameters (R288) -/

def copyLen (o : EngineOp) : Nat := bitsOf (o.param 3).toNat 0 32
def copyRows (o : EngineOp) : Nat := bitsOf (o.param 3).toNat 32 32
def srcH (o : EngineOp) : Nat := wordH (o.param 1)
def dstH (o : EngineOp) : Nat := wordH (o.param 2)
/-- The copy reads an index list. -/
def isIndexed (o : EngineOp) : Bool := o.opc = 7 || o.opc = 8

/-- The offset of row `r` of the source, of the destination (R287). -/
def srcOff (o : EngineOp) (idx : List Nat) (r : Nat) : Nat := wordOff (o.param 1) + (if o.opc = 7 then idx.getD r 0 else r) * wordStride (o.param 1)
def dstOff (o : EngineOp) (idx : List Nat) (r : Nat) : Nat := wordOff (o.param 2) + (if o.opc = 8 then idx.getD r 0 else r) * wordStride (o.param 2)

/-! ### The checks of a start (R289) -/

/-- Step 1: the number of a register with a nonzero reserved field. -/
def copyReserved (o : EngineOp) : Option Nat :=
  let rsv (m : Nat) : Bool := bitsOf (o.param m).toNat 36 4 != 0
  if o.opc != 9 && rsv 1 then some 1
  else if rsv 2 then some 2
  else if isIndexed o && (bitsOf (o.param 4).toNat 36 28 != 0 || decide (2 ≤ wordH (o.param 4))) then some 4
  else if o.x != 0 && bitsOf (o.param 6).toNat 6 58 != 0 then some 6
  else none

/-- Step 3: a handle of the wrong kind (R287, R408). -/
def copyRole (o : EngineOp) : Option Nat :=
  let tensorHere (h : Nat) : Bool := (o.handle h).kind = .tensor && (o.handle h).dev = 0
  let window (h : Nat) : Bool := decide (h ≤ 1)
  if o.opc = 5 then (if !tensorHere (srcH o) then some (srcH o) else if !window (dstH o) then some (dstH o) else none)
  else if o.opc = 6 then (if !window (srcH o) then some (srcH o) else if !tensorHere (dstH o) then some (dstH o) else none)
  else none

/-- The bytes of a destination row lie in the window of a ring (R289, step 4). -/
def inRing (o : EngineOp) (r : Ring) (off len : Nat) : Bool :=
  let c := r.cfg.toNat
  let base := bitsOf r.win.toNat 0 32
  let size := 2 ^ bitsOf c 51 4 * bitsOf c 40 11 * 32
  let inside (lo n : Nat) : Bool := decide (base ≤ lo) && decide (lo + n ≤ base + size)
  let hk := o.handle (dstH o)
  match bitsOf c 58 2, hk.kind with
  | 0, .scratch => o.core % 8 = bitsOf c 55 3 && inside off len
  | 0, .cluster => (clusterSegs o.core off len (len / 128 + 2)).all (fun g => match g.loc with | .scr k b => k % 8 = bitsOf c 55 3 && inside b g.len | _ => false)
  | 1, .cluster => inside off len
  | 1, .scratch => (List.range (len / 128 + 2)).all (fun i =>
      let b := if i = 0 then off else off / 128 * 128 + 128 * i
      let e := min (off + len) (off / 128 * 128 + 128 * (i + 1))
      decide (off + len ≤ b) || inside (b / 128 * 1024 + o.core % 8 * 128 + b % 128) (e - b))
  | 2, .tensor => hk.dev = 0 && hk.tid = bitsOf r.win.toNat 32 20 && inside off len
  | _, _ => false

/-- Step 5: alignment. A LEN that is no multiple of 128 is a failure of the source side, and the offset recorded is that of the side. (DESIGN CHOICE, log 72.) -/
def copyAlign (o : EngineOp) : Option FaultRec :=
  let odd (m : Nat) : Bool := wordOff (o.param m) % 128 != 0 || wordStride (o.param m) % 128 != 0
  if o.opc = 5 || o.opc = 6 then
    if odd 1 || copyLen o % 128 != 0 then some (o.faultAt 0x25 (srcH o) (wordOff (o.param 1)))
    else if odd 2 then some (o.faultAt 0x25 (dstH o) (wordOff (o.param 2)))
    else none
  else if isIndexed o && wordOff (o.param 4) % 4 != 0 then some (o.faultAt 0x25 (wordH (o.param 4)) (wordOff (o.param 4)))
  else none

/-- Some row's destination bytes lie outside the ring's window. -/
def outsideRing (s : State) (o : EngineOp) (idx : List Nat) : Bool :=
  let r := ringOf s (o.core / 8 * 64 + copyRing o)
  !r.cfg.getLsbD 63 || (copyLen o != 0 && (List.range (copyRows o)).any (fun i => !inRing o r (dstOff o idx i) (copyLen o)))

/-- Step 6: after the index list's own bounds, rows in rising order, of one row the source before the destination. (DESIGN CHOICE, log 72.) -/
def copyBounds (s : State) (o : EngineOp) (idx : List Nat) : Option FaultRec :=
  (List.range (copyRows o)).findSome? (fun r =>
    (if o.opc = 9 then none else boundFault s o (srcH o) (srcOff o idx r) (copyLen o)).or (boundFault s o (dstH o) (dstOff o idx r) (copyLen o)))

/-- The handles a copy uses. -/
def copyHandles (o : EngineOp) : List Nat := (if o.opc = 9 then [] else [srcH o]) ++ [dstH o]

/-- The index list, where it can be read (R289). -/
def readIndex (s : State) (o : EngineOp) : Except FaultRec (List Nat) :=
  if !isIndexed o then .ok []
  else
    let h := wordH (o.param 4)
    let off := wordOff (o.param 4)
    let n := copyRows o
    match boundFault s o h off (4 * n) with
    | some f => .error f
    | none =>
      let segs := windowSegs o.core (o.handle h).kind off (4 * n)
      match enginePoison s o h off segs with
      | some f => .error f
      | none => let l := readSegs s o.launch segs; .ok ((List.range n).map (fun i => leNat ((l.drop (4 * i)).take 4)))

/-- The checks of R289 in their order: the fault, or the index list. HANDLE_UNBOUND and WINDOW_ROLE concern no byte, and their record's offset is 0. (DESIGN CHOICE, log 72.) -/
def copyCheck (s : State) (o : EngineOp) : Except FaultRec (List Nat) :=
  match copyReserved o with
  | some m => .error (plainFault 0x04 m)
  | none =>
    match (copyHandles o).findSome? (unboundFault o) with
    | some f => .error f
    | none =>
      match copyRole o with
      | some h => .error (o.faultAt 0x2B h 0)
      | none =>
        let idx := readIndex s o
        let early := match idx with | .ok l => l | .error _ => []
        if o.x != 0 && (if o.opc != 8 || idx.toOption.isSome then outsideRing s o early else !(ringOf s (o.core / 8 * 64 + copyRing o)).cfg.getLsbD 63) then .error (plainFault 0x60 (copyRing o))
        else
          match copyAlign o with
          | some f => .error f
          | none =>
            match idx with
            | .error f => .error f
            | .ok l => match copyBounds s o l with | some f => .error f | none => .ok l

/-- COPY_START (R276, R289): the earliest ready copy of the selected core, while fewer than eight are in progress. -/
def execCopyStart (s : State) : Host.Outcome State Fault Refusal :=
  let core := s.sel.core
  if 8 ≤ (coreOf s core).copies.length then .next s
  else
    match nextQueued s core (fun o => unitOf o.opc = 1 && decide (4 ≤ o.opc)) with
    | none => .next s
    | some o =>
      let s := unqueue s o
      if unitOffline s core o.opc then .next (endOp s o.id (some (plainFault 0x46 o.opc)) 0)
      else
        match copyCheck s o with
        | .error f => .next (endOp s o.id (some f) 0)
        | .ok idx =>
          let rows := if copyLen o = 0 then [] else (List.range (copyRows o)).map (fun r => (r, 0, copyLen o))
          .next (modCore s core (fun k => { k with copies := k.copies ++ [⟨o, idx, rows, none, arithAt s (dieOfCore core), [], s.cycle⟩] }))

/-! ### Moves (R290) -/

/-- A copy's progress replaces the run it came from. -/
def setCopy (s : State) (core : Nat) (r : CopyRun) : State := modCore s core (fun k => { k with copies := k.copies.map (fun x => if x.op.id = r.op.id then r else x) })

/-- The copy ends. -/
def endCopy (s : State) (o : EngineOp) (f : Option FaultRec) : State :=
  endOp (modCore s o.core (fun k => { k with copies := k.copies.filter (fun x => x.op.id != o.id) })) o.id f 0

/-- How a move goes: it is done, it waits, or the copy faults. -/
inductive Moved where
  | done
  | wait
  | fault (f : FaultRec)
  deriving DecidableEq, Repr

/-- A fault of bytes on another device, as the turn reports it (R411): the owner's cause, poison, or no response once DOMTMO has run since the copy last moved. (DEDUCED, log 53.) -/
def farFault (s : State) (r : CopyRun) (h off : Nat) (segs : List Seg) : Option FaultRec :=
  let c := s.sel.word.toNat % 128
  let late := decide (r.moved + microseconds (partOf s r.op.part).domtmo.toNat ≤ s.cycle)
  if segs.any (·.loc.isFar) && (ownerCause c != 0 || c = 0x3A || (c = 0x28 && late)) then some (r.op.faultAt c h off) else none

/-- A copy has made progress (R362). -/
def CopyRun.stamp (r : CopyRun) (s : State) : CopyRun := { r with since := arithAt s (dieOfCore r.op.core), moved := s.cycle }

/-- Bytes [off, off + len) of a row's source, read at their homes; a line that a Lakebed operation has flushed is not read before its write (R245). -/
def readSource (s : State) (r : CopyRun) (row off len : Nat) : State × Except (Option FaultRec) (List Byte) :=
  let o := r.op
  let a := srcOff o r.idx row + off
  match placeOf s o (o.core / 8) (srcH o) a len 1 with
  | (s, .wait) => (s, .error none)
  | (s, .fault f) => (s, .error (some f))
  | (s, .ok segs) =>
    if heldFill s segs then (s, .error none)
    else
      match (farFault s r (srcH o) a segs).or (enginePoison s o (srcH o) a segs) with
      | some f => (s, .error (some f))
      | none => (readTraffic s off segs, .ok (engineRead s o (row * copyLen o + off) segs))

/-- The first byte of its row's source that a piece reads: where pieces share a sector of the source, it is read whole, once (R241). -/
def sourceStart (r : CopyRun) (row off : Nat) : Nat := off - min off ((srcOff r.op r.idx row + off) % 32)

/-- The parts of its row's source in which a piece is read: first byte, length, and whether the part is a sector that another piece shares (R241). -/
def sourceParts (r : CopyRun) (row off len : Nat) : List (Nat × Nat × Bool) :=
  let a := srcOff r.op r.idx row
  let stop := off + len
  let lo := sourceStart r row off
  let last := sourceStart r row stop
  let hi := if (a + stop) % 32 = 0 then stop else min (copyLen r.op) (last + 32 - (a + last) % 32)
  let from' := if lo < off then min (copyLen r.op) (lo + 32 - (a + lo) % 32) else off
  let to' := if stop < hi then last else stop
  (if lo < off then [(lo, from' - lo, true)] else []) ++ (if from' < to' then [(from', to' - from', false)] else []) ++ (if stop < hi && decide (from' ≤ last) then [(last, hi - last, true)] else [])

/-- The bytes of the parts, in order; a shared sector is kept for the pieces that share it. -/
def readParts (s : State) (r : CopyRun) (row : Nat) : List (Nat × Nat × Bool) → State × Except (Option FaultRec) (CopyRun × List Byte)
  | [] => (s, .ok (r, []))
  | (off, len, shared) :: rest =>
    let kept := if shared then (r.cache.find? (fun e => e.1 = row && e.2.1 = off)).map (·.2.2) else none
    match (match kept with | some l => (s, Except.ok l) | none => readSource s r row off len) with
    | (s, .error e) => (s, .error e)
    | (s, .ok l) =>
      match readParts s (if shared && kept.isNone then { r with cache := r.cache ++ [(row, off, l)] } else r) row rest with
      | (s, .error e) => (s, .error e)
      | (s, .ok (r, data)) => (s, .ok (r, l ++ data))

/-- The source bytes of a piece, and the run with the shared sectors it has read. -/
def sourceBytes (s : State) (r : CopyRun) (row off len : Nat) : State × Except (Option FaultRec) (CopyRun × List Byte) :=
  let o := r.op
  if o.opc = 9 then (s, .ok (r, (List.range len).map (fun j => BitVec.ofNat 8 ((o.param 5).toNat / 2 ^ (8 * ((off + j) % 8))))))
  else
    match r.snap with
    | some l => (s, .ok (r, ((((l.find? (fun e => e.1 = row)).map (·.2)).getD []).drop off).take len))
    | none =>
      match readParts s r row (sourceParts r row off len) with
      | (s, .error e) => (s, .error e)
      | (s, .ok (r, data)) => (s, .ok (r, (data.drop (off - sourceStart r row off)).take len))

/-- What moving a piece of a row writes: the places of its destination and its source bytes. -/
def readPiece (s : State) (r : CopyRun) (p : Nat × Nat × Nat) : State × Except (Option FaultRec) (CopyRun × List Seg × List Byte) :=
  let o := r.op
  let b := dstOff o r.idx p.1 + p.2.1
  match sourceBytes s r p.1 p.2.1 p.2.2 with
  | (s, .error e) => (s, .error e)
  | (s, .ok (r, data)) =>
    match placeOf s o (o.core / 8) (dstH o) b p.2.2 2 with
    | (s, .wait) => (s, .error none)
    | (s, .fault f) => (s, .error (some f))
    | (s, .ok segs) =>
      match farFault s r (dstH o) b segs with
      | some f => (s, .error (some f))
      | none => (s, .ok (r, segs, data))

/-- What moving several pieces writes, in their order. -/
def readPieces (s : State) (r : CopyRun) : List (Nat × Nat × Nat) → State × Except (Option FaultRec) (CopyRun × List (List Seg × List Byte))
  | [] => (s, .ok (r, []))
  | p :: ps =>
    match readPiece s r p with
    | (s, .error e) => (s, .error e)
    | (s, .ok (r, w)) =>
      match readPieces s r ps with
      | (s, .error e) => (s, .error e)
      | (s, .ok (r, ws)) => (s, .ok (r, w :: ws))

/-- The bytes of a copy reach one of its places, and count as beats where an XSTORE moves them (R291). -/
def storePiece (s : State) (o : EngineOp) (w : List Seg × List Byte) : State := if o.opc = 6 then countBeats (engineStore s o w.1 w.2) 1 w.1 else engineStore s o w.1 w.2

/-- Moves pieces together: their source bytes to their destinations, under the writer tags, rows in rising order (R242, R290). A write to a page under migration is held (R213). -/
def movePieces (s : State) (r : CopyRun) (ps : List (Nat × Nat × Nat)) : State × CopyRun × Moved :=
  match readPieces s r ps with
  | (s, .error none) => (s, r, .wait)
  | (s, .error (some f)) => (s, r, .fault f)
  | (s, .ok (r', ws)) => if heldWrite s s.fresh (ws.flatMap (·.1)) then (s, r, .wait) else (ws.foldl (fun s w => storePiece s r.op w) s, r', .done)

/-- Two pieces write to one 32-byte sector of the destination. -/
def shareSector (r : CopyRun) (p q : Nat × Nat × Nat) : Bool :=
  let lo (x : Nat × Nat × Nat) : Nat := dstOff r.op r.idx x.1 + x.2.1
  meets (lo p / 32) ((lo p + p.2.2 + 31) / 32) (lo q / 32) ((lo q + q.2.2 + 31) / 32)

/-- The pieces that move in one go with those taken, since a sector of the destination reads entirely old or entirely new (R241); and the pieces left. -/
def withMates (r : CopyRun) (taken left : List (Nat × Nat × Nat)) : Nat → List (Nat × Nat × Nat) × List (Nat × Nat × Nat)
  | 0 => (taken, left)
  | n + 1 =>
    match left.partition (fun p => taken.any (shareSector r p)) with
    | ([], _) => (taken, left)
    | (more, rest) => withMates r (taken ++ more) rest n

/-- The pieces that move with one, in the order of the pieces left, and the others. -/
def moveGroup (r : CopyRun) (p : Nat × Nat × Nat) : List (Nat × Nat × Nat) × List (Nat × Nat × Nat) :=
  let g := withMates r [p] (r.left.filter (· != p)) r.left.length
  (r.left.filter g.1.contains, g.2)

/-- Source and destination of the copy share bytes (R290). -/
def selfOverlap (s : State) (o : EngineOp) (idx : List Nat) : Bool :=
  if o.opc = 9 then false
  else
    let a := o.handle (srcH o)
    let b := o.handle (dstH o)
    let rows := List.range (copyRows o)
    if a.kind = .tensor && b.kind = .tensor then
      let base (h : Handle) : Nat := match tensorOf s o.part h.tid with | some t => t.vbase | none => 0
      a.dev = b.dev && rows.any (fun r => rows.any (fun q =>
        meets (base a + srcOff o idx r) (base a + srcOff o idx r + copyLen o) (base b + dstOff o idx q) (base b + dstOff o idx q + copyLen o)))
    else if a.kind = .tensor || b.kind = .tensor then false
    else rows.any (fun r => rows.any (fun q => segsMeet (windowSegs o.core a.kind (srcOff o idx r) (copyLen o)) (windowSegs o.core b.kind (dstOff o idx q) (copyLen o))))

/-- The source rows of an overlapping copy, read before it writes. -/
def takeSnap (s : State) (r : CopyRun) (rows : List Nat) (acc : List (Nat × List Byte)) : State × Except (Option FaultRec) (List (Nat × List Byte)) :=
  match rows with
  | [] => (s, .ok acc)
  | i :: rest =>
    match readSource s r i 0 (copyLen r.op) with
    | (s, .error e) => (s, .error e)
    | (s, .ok l) => takeSnap s r rest (acc ++ [(i, l)])

/-- A run that may move: an overlapping copy first reads its whole source. (DEDUCED, log 31.) -/
def prepareCopy (s : State) (r : CopyRun) : State × Except (Option FaultRec) CopyRun :=
  if r.snap.isSome || !selfOverlap s r.op r.idx then (s, .ok r)
  else
    match takeSnap s r (List.range (copyRows r.op)) [] with
    | (s, .ok l) => let r := { r with snap := some l }.stamp s; (setCopy s r.op.core r, .ok r)
    | (s, .error e) => (s, .error e)

/-- Moves the pieces that are left, in order, until some wait or fault. -/
def moveAll (s : State) (r : CopyRun) : Nat → State × Moved
  | 0 => (s, .done)
  | n + 1 =>
    match r.left with
    | [] => (s, .done)
    | p :: _ =>
      let g := moveGroup r p
      match movePieces s r g.1 with
      | (s, r, .done) => let r := { r with left := g.2 }.stamp s; moveAll (setCopy s r.op.core r) r n
      | (s, _, x) => (s, x)

/-- The increment of a copy that is done, and its end (R291), after the updates of the ring that its context issued before it (R285): a ring disabled meanwhile faults the token (R362). -/
def finishCopy (s : State) (o : EngineOp) : State :=
  let ring := o.core / 8 * 64 + copyRing o
  if o.x = 0 then endCopy s o none
  else if ringBefore s o.uid ring o.id then s
  else if (ringOf s ring).cfg.getLsbD 63 then endCopy (addRing (killTags s o.part o.core 4) ring true (BitVec.ofNat 32 o.x)) o none
  else endCopy s o (some (plainFault 0x48 (copyRing o)))

/-- A piece split where the destination meets a sector boundary, after about `n` bytes; a sector of the source that is cut is read once for both parts (R241). -/
def splitPiece (r : CopyRun) (i n : Nat) : CopyRun :=
  match nth r.left i with
  | none => r
  | some (row, off, len) =>
    let d := dstOff r.op r.idx row + off
    let cut := (d + n) / 32 * 32 - d
    if cut = 0 || len ≤ cut then r else { r with left := r.left.take i ++ [(row, off, cut), (row, off + cut, len - cut)] ++ r.left.drop (i + 1) }

/-- One move of a copy, as the turn selects it: a piece is split, or moved with those that share a sector with it. -/
def stepCopy (s : State) (r : CopyRun) (i : Nat) : State :=
  if s.sel.flag then setCopy s r.op.core (splitPiece r i s.sel.die)
  else
    match prepareCopy s r with
    | (s, .error none) => s
    | (s, .error (some f)) => endCopy s r.op (some f)
    | (s, .ok r) =>
      match nth r.left i with
      | none => s
      | some p =>
        let g := moveGroup r p
        match movePieces s r g.1 with
        | (s, r, .done) => setCopy s r.op.core ({ r with left := g.2 }.stamp s)
        | (s, _, .wait) => s
        | (s, r, .fault f) => endCopy s r.op (some f)

/-- COPY_COMPLETE (R290, R291): copy `idx` of the selected core moves all it has left and finishes, or, with `keep`, makes one move of piece `num`. -/
def execCopyComplete (s : State) : Host.Outcome State Fault Refusal :=
  match nth (coreOf s s.sel.core).copies s.sel.idx with
  | none => .next s
  | some r =>
    if s.sel.keep then .next (stepCopy s r s.sel.num)
    else
      match prepareCopy s r with
      | (s, .error none) => .next s
      | (s, .error (some f)) => .next (endCopy s r.op (some f))
      | (s, .ok r) =>
        match moveAll s r r.left.length with
        | (s, .done) => .next (finishCopy s r.op)
        | (s, .wait) => .next s
        | (s, .fault f) => .next (endCopy s r.op (some f))


/-- ENGINE_TIMEOUT (R362): copy `idx` of the selected core has made no progress for 2^32 arithmetic cycles. (DEDUCED, log 30.) -/
def execEngineTimeout (s : State) : Host.Outcome State Fault Refusal :=
  match nth (coreOf s s.sel.core).copies s.sel.idx with
  | none => .next s
  | some r =>
    .next (if r.since + 2 ^ 32 ≤ arithAt s (dieOfCore s.sel.core) then
        endCopy s r.op (some (r.op.faultAt 0x49 (if r.op.opc = 9 then dstH r.op else srcH r.op) 0))
      else s)

end Sys2Proof.Machine
end

