-- ==== Sys2Proof/Machine/Reduce.lean ====
section
/-! DEFINITION. The pairwise tree in rank or buffer order, by format and function, that collectives and NMRED share (R122, R301, R330). -/

namespace Sys2Proof.Machine

/-- One level of the tree: nodes 2i and 2i + 1 combine, an unpaired last node passes up. -/
def pairNodes {α : Type} (f : α → α → α) (l : List α) : List α :=
  match l with
  | a :: b :: r => f a b :: pairNodes f r
  | l => l

/-- The root of the tree; as many levels as there are nodes are enough. -/
def treeRoot {α : Type} (f : α → α → α) (l : List α) : Nat → List α
  | 0 => l
  | n + 1 => treeRoot f (pairNodes f l) n

/-- The bytes of an element of the formats 13 bf16, 16 f32, 17 i32. -/
def redBytes (fmt : Nat) : Nat := if fmt = 13 then 2 else 4

/-- An addition of two f32 values (R122). Of two NaN the first, quieted, is the sum; the rule names none. (DESIGN CHOICE, log 71.) -/
def addF32 (a b : Nat) : Nat := (FFmt.f32.arith .add .rne false a b 0).code

/-- The tree over codes of a format: function 0 add, 1 min, 2 max; the result's code, and whether an integer sum was clamped (R122, R301). -/
def redTree (fmt fn : Nat) (l : List Nat) : Nat × Bool :=
  let root (f : Nat → Nat → Nat) (l : List Nat) : Nat := (treeRoot f l l.length).headD 0
  if fmt = 17 then
    let xs := l.map (intOf 32 true)
    if fn = 0 then (let r := clampInt 32 true xs.sum; (intCode 32 r.1, r.2))
    else (root (fun a b => if (decide (intOf 32 true a ≤ intOf 32 true b)) == (fn = 1) then a else b) l, false)
  else if fn = 0 then
    if fmt = 13 then
      let up := l.map (fun c => (convertCode (.ieee .bf16) (.ieee .f32) .rne false false c).code)
      ((convertCode (.ieee .f32) (.ieee .bf16) .rne false false (root addF32 up)).code, false)
    else (root addF32 l, false)
  else (root (fun a b => (if fmt = 13 then FFmt.bf16 else FFmt.f32).minMax (fn = 2) a b) l, false)

/-- Element codes of a run of bytes. -/
def elemCodes (w : Nat) (data : List Byte) (n : Nat) : List Nat := (List.range n).map (fun i => leNat ((data.drop (w * i)).take w))

/-- The trees of elements `first` to `first` + n − 1 of the sources: their bytes, and whether any was clamped. -/
def redElems (fmt fn : Nat) (sources : List (List Byte)) (first n : Nat) : List Byte × Bool :=
  let w := redBytes fmt
  let cols := sources.map (fun d => elemCodes w (d.drop (w * first)) n)
  let rs := (List.range n).map (fun e => redTree fmt fn (cols.map (fun c => c.getD e 0)))
  (rs.flatMap (fun r => leBytes r.1 w), rs.any (·.2))

end Sys2Proof.Machine
end

