-- ==== Sys2Proof/Machine/Lakebed.lean ====
section
/-! DEFINITION. Lakebed cores: hand-over and dispatch (R306 to R311), extent accesses (R319 to R321), the fixed commands NMRED and NMIRED (R330, R331), pre-emption and parking (R309, R337). Each event concerns the Lakebed core or the compute core `Select.core`. -/

namespace Sys2Proof.Machine

/-! ### Issue (R307) -/

/-- NMCALL (R307). -/
def execNmcall (g : GReg) (kd ka kb kc : KReg) (n : BitVec 8) (s : State) : Host.Outcome State Fault Refusal := runSlot s (engineOut 0x0F n.toNat g kd ka kb kc false)
/-- NMRED (R307). -/
def execNmred (g : GReg) (kd ka kb kc : KReg) (s : State) : Host.Outcome State Fault Refusal := runSlot s (engineOut 0x10 0 g kd ka kb kc false)
/-- NMIRED (R307). -/
def execNmired (g : GReg) (kd ka kb kc : KReg) (s : State) : Host.Outcome State Fault Refusal := runSlot s (engineOut 0x11 0 g kd ka kb kc false)

/-! ### Kernels -/

/-- Cycles of the 1.4 GHz Lakebed clock in a stretch of the 940 MHz reference (R436). -/
def lakeCycles (dt : Nat) : Nat := dt * 1400 / 940

/-- The slice that owns a Lakebed core (R303), and its partition. -/
def lakeSlice (i : Nat) : Nat := i / 8 * 4 + i % 8 / 2
def partOfLake (s : State) (i : Nat) : Nat := partOfSlice s (lakeSlice i)

/-- The Lakebed cores of a partition, rising. -/
def lakesOf (s : State) (part : Nat) : List Nat := (List.range 64).filter (fun i => hasSlice (partOf s part) (lakeSlice i))

def setRun (s : State) (i : Nat) (k : Option Kernel) : State := setLake s i { lakeOf s i with run := k }

/-- Entries of the command buffer taken; the running kernel keeps its own (R303). (DEDUCED, log 23.) -/
def lakeLoad (l : Lake) : Nat := l.buf.length + (if l.run.isSome then 1 else 0)
/-- A Lakebed core can take one more entry (R307). -/
def lakeRoom (s : State) (i : Nat) : Bool := decide (lakeLoad (lakeOf s i) < 16)

/-- An entry of the kernel table as it is loaded: its start word, when it is valid (R304). -/
def kernelEntry (s : State) (i n : Nat) : Option Nat :=
  let w := (tget 0 (lakeOf s i).ktable n).toNat
  if w.testBit 63 && bitsOf w 14 49 = 0 && decide (w % 2 ^ 14 < 12288) then some (w % 2 ^ 14) else none

/-- Stores of the kernel that are not performed yet. (DESIGN CHOICE, log 25.) -/
def pendingStores (s : State) (k : Kernel) : Bool := s.remotes.any (fun r => r.uid = k.id)

/-- One task of an operator has ended; the last one ends the operator (R183). -/
def taskEnded (s : State) (op : Nat) : State :=
  modOp s op (fun o => if o.phase = .running then { o with live := o.live - 1, phase := if o.live ≤ 1 then .ending else .running } else o)

/-- The kernel leaves its core, and its command's token or its operator takes the outcome (R311). -/
def endKernel (s : State) (i : Nat) (k : Kernel) (f : Option FaultRec) (aux : Nat) : State :=
  let l := lakeOf s i
  let s := { setLake s i { l with run := if (l.run.map (·.id)) = some k.id then none else l.run, buf := l.buf.filter (fun x => x.id != k.id) } with fresh := s.fresh + 1 }
  match k.cmd, f with
  | some o, f => endOp s o.id f aux
  | none, some f => failOp s k.op f.cause f.detail
  | none, none => taskEnded s k.op

/-- The fault record of a program kernel (R311): the PC, the extent or 0xF for local SRAM, the handle bound to it, the offset. Where no access is concerned, the extent, handle and offset are not given. (DESIGN CHOICE, log 26.) -/
def programFault (s : State) (k : Kernel) (cause : Nat) (ext : Option Nat) (off : Nat) : FaultRec :=
  match ext with
  | none =>
    let w := (Config.freeWord s.fresh).toNat
    ⟨cause, k.pc.toNat + w % 16 * 2 ^ 14, w / 16 % 16, .unbound, 0, w / 256, 0⟩
  | some e =>
    let x := tget Extent.unbound k.e e
    if e = 15 then ⟨cause, k.pc.toNat + 15 * 2 ^ 14, 0, .scratch, 0, off, 0⟩
    else ⟨cause, k.pc.toNat + e * 2 ^ 14, x.handle, if x.valid then .tensor else .unbound, x.tid, off, 0⟩

/-- The fault record of a kernel of either kind: a firmware kernel's takes the engine form (R311). (DESIGN CHOICE, log 26.) -/
def kernelFault (s : State) (k : Kernel) (cause ext h off : Nat) : FaultRec :=
  match k.cmd with
  | some o => if k.fw = 0 then programFault s k cause (some ext) off else o.faultAt cause h off
  | none => programFault s k cause (some ext) off

/-- The record of a failure of the Weir: the tensor's id stands in the detail (R379, R388). (DESIGN CHOICE, log 26.) -/
def FaultRec.ofTensor (f : FaultRec) (tid : Nat) : FaultRec := { f with detail := tid % 2 ^ 20 }

/-- The kernel that runs on a Lakebed core, for a fault of its own. -/
def lakeFault (s : State) (i cause : Nat) : State :=
  match (lakeOf s i).run with
  | some k => endKernel s i k (some (programFault s k cause none 0)) 0
  | none => s

/-! ### Parking and pre-emption (R309, R321, R337) -/

/-- Cycles the kernel has run since its dispatch; a kernel that goes on after a pre-emption counts from what its slot held (R309, R337). (DEDUCED, log 24.) -/
def cyclesRun (s : State) (k : Kernel) : Nat := k.ran + lakeCycles (s.cycle - k.since)

/-- The key of byte `o` of the save space of a Lakebed core (R305). -/
def saveKey (i o : Nat) : Nat := reserveKey (lakeSlice i) 0 + 0x4000000 + o / 2048 * 4096 + i % 2 * 2048 + o % 2048

/-- Bytes go to the save space of a Lakebed core from offset `o` on, 2048 at a time where they cross to the other core's part. -/
def saveBytes (s : State) (i o : Nat) (data : List Byte) : State :=
  let n := 2048 - o % 2048
  let s := { s with mem := cellsSet s.mem (saveKey i o) (data.take n) }
  if data.length ≤ n then s else { s with mem := cellsSet s.mem (saveKey i (o + n)) (data.drop n) }

/-- The command record of a saved kernel: its kind (0 NMCALL, 1 NMRED, 2 NMIRED, 3 a task of an operator), the issuing core and context, the token number (R337). (DESIGN CHOICE, log 46.) -/
def commandRecord (s : State) (k : Kernel) : List Byte :=
  match k.cmd with
  | some o => [BitVec.ofNat 8 k.fw] ++ leBytes o.core 2 ++ [BitVec.ofNat 8 (((ctxOfUid s o.uid).getD 0) % 4), BitVec.ofNat 8 o.kd] ++ List.replicate 3 0 ++ leBytes o.uid 8 ++ leBytes o.id 8 ++ List.replicate 40 0
  | none => 3 :: List.replicate 63 0

/-- The first 2048 bytes of a kernel's slot (R337). -/
def kernelImage (s : State) (k : Kernel) (parked : Bool) : List Byte :=
  (List.range 16).flatMap (fun j => leBytes (tget 0 k.q j).toNat 8)
  ++ (List.range 16).flatMap (fun j => leBytes (tget 0 k.w j).toNat 64)
  ++ leBytes 0xFFFF 2 ++ [1, 2, 3].flatMap (fun j => leBytes (tget 0 k.z j).toNat 2)
  ++ leBytes (k.pc.toNat + (if parked then 2 ^ 14 else 0) + k.cls % 4 * 2 ^ 16) 8 ++ leBytes k.arrival 8 ++ leBytes (cyclesRun s k) 8
  ++ (List.range 8).flatMap (fun j => let x := tget Extent.unbound k.e j; leBytes ((if x.valid then 2 ^ 31 else 0) + x.tid % 2 ^ 20) 8 ++ leBytes x.vbase 8 ++ leBytes x.extent 8 ++ leBytes x.handle 8)
  ++ commandRecord s k ++ List.replicate 32 0
  ++ leBytes (k.sram.foldl (fun n g => n ||| 2 ^ g.1) 0) 512

/-- A free slot of a Lakebed core's save space (R337). -/
def freeSlot (l : Lake) : Nat := ((List.range 16).find? (fun n => l.buf.all (fun k => k.slot != some n))).getD 0

/-- The kernel is saved: its image and its valid granules go to a slot of the save space (R305, R337), and it goes back to the buffer. An operating-system instruction in progress is abandoned (R325). -/
def saveKernel (s : State) (i : Nat) (k : Kernel) (parked : Option (Block × Nat × Nat × Nat)) : State :=
  let l := lakeOf s i
  let n := freeSlot l
  let s' := k.sram.foldl (fun s g => saveBytes s i (n * 0x81000 + 0x1000 + 128 * g.1) g.2) (saveBytes s i (n * 0x81000) (kernelImage s k parked.isSome))
  setLake s' i { l with preq := false, run := none, buf := l.buf ++ [{ k with ran := cyclesRun s k, parked := parked, slot := some n, reads := if k.fw = 0 then [] else k.reads }] }

/-- A field of a block of bytes. -/
def fieldAt (l : List Byte) (off n : Nat) : Nat := leNat ((l.drop off).take n)

/-- The kernel as its slot holds it: every field of the image, and the valid granules of local SRAM (R337). -/
def restoreKernel (s : State) (i : Nat) (k : Kernel) (n : Nat) : Kernel :=
  let at' (o : Nat) : Nat := saveKey i (n * 0x81000 + o)
  let img := cellsGet s.mem (at' 0) 2048
  { k with
    fw := if k.cmd.isSome then fieldAt img 0x5A0 1 else k.fw,
    cmd := k.cmd.map (fun o => { o with core := fieldAt img 0x5A1 2, kd := fieldAt img 0x5A4 1, uid := fieldAt img 0x5A8 8, id := fieldAt img 0x5B0 8 }),
    q := (List.range 16).map (fun j => (j, BitVec.ofNat 64 (fieldAt img (8 * j) 8))),
    w := (List.range 16).map (fun j => (j, BitVec.ofNat 512 (fieldAt img (0x80 + 64 * j) 64))),
    z := [1, 2, 3].map (fun j => (j, BitVec.ofNat 16 (fieldAt img (0x480 + 2 * j) 2))),
    pc := BitVec.ofNat 14 (fieldAt img 0x488 2), cls := fieldAt img 0x48A 1 % 4, arrival := fieldAt img 0x490 8, ran := fieldAt img 0x498 8,
    e := (List.range 8).map (fun j =>
      let o := 0x4A0 + 32 * j
      (j, ⟨(fieldAt img o 4).testBit 31, fieldAt img o 4 % 2 ^ 20, fieldAt img (o + 8) 8, fieldAt img (o + 16) 8, fieldAt img (o + 24) 1⟩)),
    sram := ((List.range 4096).filter (fun g => (fieldAt img (0x600 + g / 8) 1).testBit (g % 8))).map (fun g => (g, cellsGet s.mem (at' (0x1000 + 128 * g)) 128)) }

/-- What an agent that is no context waits for is over: a recompute, an action of the Weir, a page-fault report. -/
def waitOver (s : State) (b : Block) : Bool :=
  match b with
  | .suspended p t => !(s.recomputes.any (fun r => r.part = p && r.tid = t))
  | .held p t => !(s.acts.any (fun a => a.part = p)) && !(match tensorOf s p t with | some x => x.busy | none => false)
  | .report p q => !(s.reports.any (fun r => r.part = p && r.seq = q))
  | _ => true

/-- What a parked kernel waits for is over. -/
def kernelReady (s : State) (k : Kernel) : Bool := match k.parked with | some (b, _) => waitOver s b | none => true

/-- The ready kernel that starts next: highest class, then earliest arrival (R309). -/
def nextKernel (s : State) (i : Nat) : Option Kernel :=
  ((lakeOf s i).buf.filter (kernelReady s)).foldl (fun b k =>
    match b with
    | none => some k
    | some x => some (if x.cls < k.cls || (x.cls = k.cls && (k.arrival < x.arrival || (k.arrival = x.arrival && k.id < x.id))) then k else x)) none

/-- A ready kernel of a class above `c` waits, or of the same class where `eq` says so. -/
def classWaits (s : State) (i c : Nat) (eq : Bool) : Bool := (lakeOf s i).buf.any (fun k => kernelReady s k && (decide (c < k.cls) || (eq && k.cls = c)))

/-- The kernels parked on a wait that has failed end with its cause, and with the failing tensor in the detail where one is named (R321, R366, R388). -/
def failKernels (s : State) (hit : Block → Bool) (cause inner : Nat) (tid : Option Nat) : State :=
  let all := s.lakes.flatMap (fun e => e.2.buf.filterMap (fun k => match k.parked with | some (b, x, h, off) => if hit b then some (e.1, k, x, h, off) else none | none => none))
  all.foldl (fun s r => let (i, k, x, h, off) := r; 
    let f := kernelFault s k cause x h (if cause = 0x54 then inner else off)
    endKernel s i k (some (match tid with | some t => f.ofTensor t | none => f)) 0) s

/-! ### Extent accesses (R319 to R321) -/

/-- Why an access does not go on: the kernel waits for a store of its own, parks, or ends. -/
inductive LStop where
  | wait
  | park (b : Block) (ext h off : Nat)
  | fault (f : FaultRec)

/-- A result, or a stop. -/
abbrev LRes (α : Type) := State × Except LStop α

/-- Goes on from a result; `σ` is the state, or what a firmware kernel keeps with it. -/
def LRes.andThen {σ α β : Type} (r : σ × Except LStop α) (f : σ → α → σ × Except LStop β) : σ × Except LStop β :=
  match r with
  | (s, .ok a) => f s a
  | (s, .error e) => (s, .error e)

/-- Something of a list, in order, with every result. -/
def LRes.each {σ α β : Type} (f : σ → α → σ × Except LStop β) (s : σ) (l : List α) : σ × Except LStop (List β) :=
  match l with
  | [] => (s, .ok [])
  | a :: r => LRes.andThen (f s a) (fun s b => LRes.andThen (LRes.each f s r) (fun s bs => (s, .ok (b :: bs))))

/-- The places of bytes of a tensor for a kernel: residency, then the core's own TLB and walks, for which it waits (R321, R364). -/
def lakePlace (s : State) (i : Nat) (k : Kernel) (ext h tid vbase off len need : Nat) : LRes (List Seg) :=
  let fail (s : State) (c o : Nat) : LRes (List Seg) := (s, .error (.fault (kernelFault s k c ext h o)))
  match refTensor (retriedBy s k.id) k.part tid k.op none with
  | (s, .wait b) => (s, .error (.park b ext h off))
  | (s, .fail c t) => if c = 0x35 then fail s c off else (s, .error (.fault ((kernelFault s k c ext h off).ofTensor t)))
  | (s, .ok) =>
    match translateRange s k.id (64 + i) k.part (vbase + off) len need with
    | (s, .error (e, va)) =>
      if e = .pending then (s, .error .wait)
      else if e.cause = 0x20 && serviced s k.part then
        match joinReport s k.part va tid 4 with
        | some (seq, s) => (s, .error (.park (.report k.part seq) ext h (va - vbase)))
        | none => fail s 0x2F (va - vbase)
      else fail s e.cause (va - vbase)
    | (s, .ok segs) => (s, .ok segs)

/-- Reads bytes of a tensor at their homes, after a snoop-flush (R319); an earlier store of the kernel to one of them comes first. (DESIGN CHOICE, log 25.) -/
def lakeRead (s : State) (i : Nat) (k : Kernel) (ext h tid vbase off len : Nat) : LRes (List Byte) :=
  LRes.andThen (lakePlace s i k ext h tid vbase off len 1) (fun s segs =>
    if s.remotes.any (fun r => r.uid = k.id && segsMeet r.segs segs) then (s, .error .wait)
    else
      let s := snoopFlush s segs
      match firstPoison s segs with
      | some n => (s, .error (.fault (kernelFault s k 0x2D ext h (off + n))))
      | none => (s, .ok (readSegs s 0 segs)))

/-- The launch number of the operator a kernel runs for (R184, R191). -/
def kernelLaunch (s : State) (k : Kernel) : Nat :=
  match k.cmd with
  | some o => o.launch
  | none => match opOf s k.op with | some o => o.launch | none => 0

/-- Issues a store to bytes whose places are known: its lines are flushed now (R245), and it is performed at its home later (R320). (DESIGN CHOICE, log 25.) -/
def lakeIssue (s : State) (i : Nat) (k : Kernel) (h tid off : Nat) (segs : List Seg) (data : List Byte) (flag : Bool) : State :=
  let (n, s) := takeFresh (snoopFlush s segs)
  { s with remotes := s.remotes ++ [⟨n, k.id, i, k.part, kernelLaunch s k, .lake data flag, 0, h, ⟨.tensor, tid, 0, 0, 0⟩, off, [(off, data.length)], segs, s.cycle, none, false, 0, none⟩] }

/-- The pieces of a run of bytes that lie in one 32-byte sector each (R241). -/
def sectorRuns (off len : Nat) : Nat → List (Nat × Nat)
  | 0 => []
  | n + 1 =>
    if len = 0 then []
    else
      let k := min len (32 - off % 32)
      (off, k) :: sectorRuns (off + k) (len - k) n

/-- Issues a store sector by sector (R241). -/
def lakeStore (s : State) (i : Nat) (k : Kernel) (h tid off : Nat) (segs : List Seg) (data : List Byte) : State :=
  (sectorRuns off data.length (data.length / 32 + 2)).foldl (fun s p => lakeIssue s i k h tid p.1 (subRun segs (p.1 - off) p.2) ((data.drop (p.1 - off)).take p.2) false) s
where
  /-- The places of bytes `a` to `a` + n − 1 of a run. -/
  subRun (segs : List Seg) (a n : Nat) : List Seg :=
    match segs with
    | [] => []
    | g :: r => if n = 0 then [] else if g.len ≤ a then subRun r (a - g.len) n else ⟨g.loc.next a, min n (g.len - a)⟩ :: subRun r 0 (n - min n (g.len - a))

/-! ### Hand-over (R306 to R308) -/

/-- The handles a command names outside its parameter block (R307). -/
def commandHandles (o : EngineOp) : List Nat :=
  if o.opc = 0x0F then (List.range 8).filterMap (fun j => let h := bitsOf (o.param 2).toNat (4 * j) 4; if h = 0 then none else some h) else [wordH (o.param 2)]

/-- The checks of R307, in order. -/
def commandCheck (s : State) (o : EngineOp) : Option FaultRec :=
  let m1 := (o.param 1).toNat
  let m2 := (o.param 2).toNat
  let hs := commandHandles o
  if bitsOf m1 6 58 != 0 then some (plainFault 0x04 1)
  else if (if o.opc = 0x0F then bitsOf m2 32 32 != 0 else bitsOf m2 36 28 != 0) then some (plainFault 0x04 2)
  else if !(lakesOf s o.part).contains (m1 % 64) then some (plainFault 0x04 1)
  else if o.opc = 0x0F && (kernelEntry s (m1 % 64) o.x).isNone then some (plainFault 0x04 0x10)
  else
    match hs.findSome? (unboundFault o) with
    | some f => some f
    | none =>
      match hs.find? (fun h => decide (h ≤ 1) || (o.handle h).dev != 0) with
      | some h => some (o.faultAt 0x2B h 0)
      | none =>
        if o.opc = 0x0F then none
        else if wordOff (o.param 2) % 8 != 0 then some (o.faultAt 0x25 (wordH (o.param 2)) (wordOff (o.param 2)))
        else boundFault s o (wordH (o.param 2)) (wordOff (o.param 2)) (if o.opc = 0x10 then 320 else 64)

/-- A kernel that joins a command buffer, before its dispatch. -/
def newKernel (s : State) (part op cls : Nat) : Kernel :=
  { id := 0, entry := 0, start := 0, fw := 0, cls := cls, arrival := lakeCycles s.cycle, cmd := none, op := op, part := part, index := 0, param := 0, ran := 0, since := 0,
    dispatched := false, parked := none, fin := none, q := [], w := [], z := [], e := [], pc := 0, sram := [] }

/-- A kernel joins the buffer of a Lakebed core. -/
def joinBuffer (s : State) (i : Nat) (k : Kernel) : State :=
  let (n, s) := takeFresh s
  setLake s i { lakeOf s i with buf := (lakeOf s i).buf ++ [{ k with id := n }] }

/-- The earliest command of a core, among those to each Lakebed core, that is ready and finds room: number `n` of them. -/
def nextCommand (s : State) (core n : Nat) : Option EngineOp :=
  let cmds := (coreOf s core).queue.filter (fun o => unitOf o.opc = 4)
  let target (o : EngineOp) : Nat := (o.param 1).toNat % 64
  nth (cmds.filter (fun o => o.ready && !o.held && !(cmds.any (fun p => p.id < o.id && target p = target o)) && lakeRoom s (target o))) n

/-- LAKEBED_COMMAND_HANDOVER (R307): command `idx` of those of the selected compute core that may be handed over. -/
def execLakebedCommandHandover (s : State) : Host.Outcome State Fault Refusal :=
  match nextCommand s s.sel.core s.sel.idx with
  | none => .next s
  | some o =>
    let s := unqueue s o
    let i := (o.param 1).toNat % 64
    if unitOffline s o.core o.opc then .next (endOp s o.id (some (plainFault 0x46 o.opc)) 0)
    else
      match commandCheck s o with
      | some f => .next (endOp s o.id (some f) 0)
      | none =>
        .next (joinBuffer s i { newKernel s o.part o.op o.cls with
          entry := o.x, fw := o.opc - 0x0F, cmd := some o, start := if o.opc = 0x0F then (kernelEntry s i o.x).getD 0 else 12288 })

/-- The Lakebed core of task `i` of an operator (R308). -/
def taskLake (s : State) (o : Operator) (i : Nat) : Nat :=
  let all := lakesOf s o.part
  let some' := (List.range all.length).filterMap (fun j => if o.affmask.testBit j then all[j]? else none)
  let sel := if some'.isEmpty then all else some'
  sel.getD (i % sel.length) 0

/-- LAKEBED_TASK_HANDOVER (R308): the next task of operator `num`, where its core's buffer has room; an entry that is not valid fails the operator with LAKEBED_ENTRY (R362). -/
def execLakebedTaskHandover (s : State) : Host.Outcome State Fault Refusal :=
  match opOf s s.sel.num with
  | none => .next s
  | some o =>
    if !(o.kind && o.phase = .running && decide (o.handed < o.tasks)) then .next s
    else
      let i := taskLake s o o.handed
      let n := o.entry.toNat % 256
      if !lakeRoom s i then .next s
      else
        match kernelEntry s i n with
        | none => .next (failOp s s.sel.num 0x0F n)
        | some w =>
          let s := modOp s s.sel.num (fun o => { o with handed := o.handed + 1 })
          .next (joinBuffer s i { newKernel s o.part s.sel.num o.prio with entry := n, start := w, index := o.handed, param := o.param })

/-! ### Dispatch and resumption (R309, R310) -/

/-- An extent bound to a tensor: its record is read at dispatch (R312). One that has been deleted by then binds an empty extent. (DESIGN CHOICE, log 92.) -/
def bindExtent (s : State) (part tid h : Nat) : Extent :=
  match tensorOf s part tid with
  | some t => ⟨true, tid, t.vbase, t.extent, h⟩
  | none => ⟨true, tid, 0, 0, h⟩

/-- The extents of a kernel (R307, R308). -/
def kernelExtents (s : State) (k : Kernel) : Tab Extent :=
  match k.cmd with
  | some o =>
    if k.fw != 0 then []
    else (List.range 8).filterMap (fun j => let h := bitsOf (o.param 2).toNat (4 * j) 4; if h = 0 then none else some (j, bindExtent s k.part (o.handle h).tid h))
  | none =>
    match opOf s k.op with
    | some o => (List.range 8).filterMap (fun j => match o.args[j]? with | some a => if a.1 = 0 then none else some (j, bindExtent s k.part a.2 0) | none => none)
    | none => []

/-- The state a kernel receives at dispatch (R310). -/
def dispatchKernel (s : State) (k : Kernel) : Kernel :=
  let q : Tab W64 := match k.cmd with
    | some o => if k.fw = 0 then [(1, o.param 3), (2, o.param 4), (3, BitVec.ofNat 64 o.core)] else [(3, BitVec.ofNat 64 o.core)]
    | none => [(1, BitVec.ofNat 64 k.index), (2, BitVec.ofNat 64 k.param), (3, 0xFFFF)]
  { k with dispatched := true, q := q, w := [], z := [], e := kernelExtents s k, pc := BitVec.ofNat 14 k.start, sram := [], ran := 0 }

/-- Starts a kernel of the buffer, or resumes one from its slot (R337). (DEDUCED, log 24.) -/
def startKernel (s : State) (i : Nat) (k : Kernel) : State :=
  let l := lakeOf s i
  let k := if !k.dispatched then dispatchKernel s k else match k.slot with | some n => restoreKernel s i k n | none => k
  setLake s i { l with preq := false, run := some { k with parked := none, slot := none, since := s.cycle }, buf := l.buf.filter (fun x => x.id != k.id) }

/-- LAKEBED_KERNEL_START (R309): a free Lakebed core starts its next kernel, unless the Wellhead keeps it for a partition change. -/
def execLakebedKernelStart (s : State) : Host.Outcome State Fault Refusal :=
  let i := s.sel.core
  if (lakeOf s i).run.isSome then .next s
  else
    match nextKernel s i with
    | some k => .next (startKernel s i k)
    | none => .next s

/-- LAKEBED_WATCHDOG (R309, R440): the running kernel has run 2^34 Lakebed cycles since its last start; the health block counts the event. (DEDUCED, log 24.) -/
def execLakebedWatchdog (s : State) : Host.Outcome State Fault Refusal :=
  match (lakeOf s s.sel.core).run with
  | some k => .next (if 2 ^ 34 ≤ cyclesRun s k then endKernel (countHealth s 0x018) s.sel.core k (some (if k.fw = 0 then programFault s k 0x7F none 0 else plainFault 0x7F 0)) 0 else s)
  | none => .next s

/-- The running kernel has to leave its core: a higher class waits, or the Wellhead asks (R309). -/
def mustYield (s : State) (i : Nat) (k : Kernel) : Bool := (lakeOf s i).preq || classWaits s i k.cls false

/-! ### The fixed commands (R330, R331) -/

/-- A range named in a parameter block: its tensor id and VBASE, once its handle, alignment and bounds are right. -/
def fwRange (s : State) (o : EngineOp) (h off len align : Nat) : Except FaultRec (Nat × Nat) :=
  let hk := o.handle h
  if hk.kind = .unbound then .error (o.faultAt 0x23 h off)
  else if h ≤ 1 || hk.dev != 0 then .error (o.faultAt 0x2B h off)
  else if off % align != 0 then .error (o.faultAt 0x25 h off)
  else
    match boundFault s o h off len with
    | some f => .error f
    | none =>
      match tensorOf s o.part hk.tid with
      | some t => .ok (hk.tid, t.vbase)
      | none => .error (o.faultAt 0x35 h off)

/-- A kernel at work on something that takes many accesses: the machine, what it did before it waited or parked and has not gone past yet, and all it has done: the bytes of a read, nothing for a store. One that goes on does nothing again (R321, R345), and needs no more of its TLB than one access does. (DEDUCED, log 27.) -/
structure FwRun where
  s : State
  old : List (List Byte)
  got : List (List Byte)

/-- A step of a firmware kernel that reads nothing. -/
def FwRun.lift {α : Type} (r : FwRun) (f : State → LRes α) : FwRun × Except LStop α := let x := f r.s; ({ r with s := x.1 }, x.2)

/-- A check whose failure ends the kernel. -/
def fwNeed {α : Type} (r : FwRun) (x : Except FaultRec α) : FwRun × Except LStop α := match x with | .ok a => (r, .ok a) | .error f => (r, .error (.fault f))

/-- Does an access, unless it is done already. -/
def fwOnce (r : FwRun) (access : FwRun → FwRun × Except LStop (List Byte)) : FwRun × Except LStop (List Byte) :=
  match r.old with
  | d :: rest => ({ r with old := rest, got := r.got ++ [d] }, .ok d)
  | [] => LRes.andThen (access r) (fun r d => ({ r with got := r.got ++ [d] }, .ok d))

/-- Reads a range named in a parameter block, in pieces of at most 64 KiB. -/
def fwRead (r : FwRun) (i : Nat) (k : Kernel) (o : EngineOp) (h off len align : Nat) : FwRun × Except LStop (List Byte) :=
  LRes.andThen (LRes.each (fun r p => fwOnce r (fun r =>
    LRes.andThen (fwNeed r (fwRange r.s o h off len align)) (fun r x => r.lift (fun s => lakeRead s i k 0 h x.1 x.2 p.1 p.2)))) r (pieces off len)) (fun r ds => (r, .ok ds.flatten))


/-- Two ranges of addresses meet without being the same. -/
def crossing (a b len : Nat) : Bool := a != b && meets a (a + len) b (b + len)

/-- The destination of a fixed command is written, in pieces of at most 64 KiB, each of which is performed before the next issues; then its flag (R330). -/
def fwStores (r : FwRun) (i : Nat) (k : Kernel) (o : EngineOp) (dh doff : Nat) (data : List Byte) (fh foff fval : Nat) (aux : Nat) : FwRun × Except LStop Nat :=
  LRes.andThen (LRes.each (fun r p => fwOnce r (fun r =>
    LRes.andThen (fwNeed r (fwRange r.s o dh doff data.length 1)) (fun r d =>
    LRes.andThen (r.lift (fun s => lakePlace s i k 0 dh d.1 d.2 p.1 p.2 2)) (fun r segs =>
      ({ r with s := lakeStore r.s i k dh d.1 p.1 segs ((data.drop (p.1 - doff)).take p.2), got := r.got ++ [[]] }, .error .wait))))) r (pieces doff data.length)) (fun r _ =>
  if fh = 0 then (r, .ok aux)
  else
    LRes.andThen (fwNeed r (fwRange r.s o fh foff 4 4)) (fun r f =>
    LRes.andThen (r.lift (fun s => lakePlace s i k 0 fh f.1 f.2 foff 4 2)) (fun r segs => r.lift (fun s => (lakeIssue s i k fh f.1 foff segs (leBytes fval 4) true, .ok aux)))))

/-- NMRED's kernel (R330): its block, its checks, its sums, its stores; the AUX of its token. (DEDUCED, log 27.) Bits [7:4] of a buffer entry's first byte count as reserved. (DESIGN CHOICE, log 91.) -/
def runNmred (s : FwRun) (i : Nat) (k : Kernel) (o : EngineOp) : FwRun × Except LStop Nat :=
  LRes.andThen (fwRead s i k o (wordH (o.param 2)) (wordOff (o.param 2)) 320 8) (fun s b =>
    let w0 := fieldAt b 0 4
    let n := w0 % 256
    let code := bitsOf w0 8 2
    let count := fieldAt b 4 4
    let w8 := fieldAt b 8 4
    let fh := bitsOf w8 4 4
    let entry (j : Nat) : List Byte := (b.drop (64 + 16 * j)).take 16
    let bad := bitsOf w0 10 22 != 0 || n = 0 || decide (16 < n) || code = 3 || count = 0 || decide (2 ^ 28 < count) || bitsOf w8 8 24 != 0 || fieldAt b 12 4 != 0
      || fieldAt b 0x24 28 != 0 || (List.range (min n 16)).any (fun j => decide (16 ≤ fieldAt (entry j) 0 8))
    if bad then (s, .error (.fault (plainFault 0x04 0x11)))
    else
      let fmt := if code = 0 then 16 else if code = 1 then 13 else 17
      let len := count * redBytes fmt
      let srcs := (List.range n).map (fun j => (fieldAt (entry j) 0 8 % 16, fieldAt (entry j) 8 8))
      let doff := fieldAt b 0x10 8
      let foff := fieldAt b 0x18 8
      LRes.andThen (LRes.each (fun s r => fwNeed s (fwRange s.s o r.1 r.2 len (redBytes fmt))) s srcs) (fun s rs =>
      LRes.andThen (fwNeed s (fwRange s.s o (w8 % 16) doff len (redBytes fmt))) (fun s d =>
      LRes.andThen (if fh = 0 then (s, .ok (0, 0)) else fwNeed s (fwRange s.s o fh foff 4 4)) (fun s _ =>
        if (rs.zip srcs).any (fun x => crossing (x.1.2 + x.2.2) (d.2 + doff) len) then (s, .error (.fault (plainFault 0x04 0x12)))
        else
          LRes.andThen (LRes.each (fun s r => fwRead s i k o r.1 r.2 len 1) s srcs) (fun s data =>
            let r := redElems fmt 0 data 0 count
            fwStores s i k o (w8 % 16) doff r.1 (if (clampFault o r.2).isSome then 0 else fh) foff (fieldAt b 0x20 4) (if r.2 then 1 else 0))))))

/-- A bag: its row indices and weights (R331). -/
structure Bag where
  idx : List Nat
  weights : List Nat
  deriving DecidableEq, Repr

/-- A bag without weights weighs every row 1.0 (R123). -/
def bagOf (m : Nat) (weighted : Bool) (body : List Byte) : Bag :=
  ⟨elemCodes 4 body m, if weighted then elemCodes 4 (body.drop (4 * m)) m else List.replicate m 0x3F800000⟩

/-- One element of a bag's row: fused multiply-adds in bag order from −0; +0 for an empty bag (R123). Of several NaN operands of a step the weight's comes first, then the row's, then the sum's; the rule names none. (DESIGN CHOICE, log 71.) -/
def bagElem (weights vals : List Nat) : Nat :=
  if vals.isEmpty then 0 else (weights.zip vals).foldl (fun acc p => (FFmt.f32.arith .fma .rne false p.1 p.2 acc).code) 0x80000000

/-- A row's elements as f32 codes. -/
def bagCodes (bf16 : Bool) (data : List Byte) (n : Nat) : List Nat :=
  if bf16 then (elemCodes 2 data n).map (fun c => (convertCode (.ieee .bf16) (.ieee .f32) .rne false false c).code) else elemCodes 4 data n

/-- The f32 row of a bag, from its rows. -/
def bagRow (weights : List Nat) (rows : List (List Nat)) (n : Nat) : List Byte :=
  (List.range n).flatMap (fun j => leBytes (bagElem weights (rows.map (fun r => r.getD j 0))) 4)

/-- The bags of a list, from offset `off` on (R331). -/
def fwBags (s : FwRun) (i : Nat) (k : Kernel) (o : EngineOp) (h off : Nat) : Nat → FwRun × Except LStop (List Bag)
  | 0 => (s, .ok [])
  | n + 1 =>
    LRes.andThen (fwRead s i k o h off 4 4) (fun s w =>
      let hd := leNat w
      let m := hd % 2 ^ 16
      let len := 4 * m * (if hd.testBit 16 then 2 else 1)
      if 2 ^ 17 ≤ hd then (s, .error (.fault (plainFault 0x04 0x13)))
      else
        LRes.andThen (if len = 0 then (s, .ok []) else fwRead s i k o h (off + 4) len 4) (fun s body =>
        LRes.andThen (fwBags s i k o h (off + 4 + len) n) (fun s rest => (s, .ok (bagOf m (hd.testBit 16) body :: rest)))))

/-- NMIRED's kernel (R331). (DEDUCED, log 27.) The bits of word 0x08 that the table does not name count as reserved. (DESIGN CHOICE, log 91.) -/
def runNmired (s : FwRun) (i : Nat) (k : Kernel) (o : EngineOp) : FwRun × Except LStop Nat :=
  LRes.andThen (fwRead s i k o (wordH (o.param 2)) (wordOff (o.param 2)) 64 8) (fun s b =>
    let w0 := fieldAt b 0 4
    let bags := w0 % 2 ^ 16
    let rfmt := bitsOf w0 16 2
    let rowlen := fieldAt b 4 4
    let hw := fieldAt b 8 4
    let th := hw % 16
    let ih := bitsOf hw 4 4
    let dh := bitsOf hw 8 4
    let fh := bitsOf hw 12 4
    let toff := fieldAt b 0x10 8
    let stride := fieldAt b 0x18 8
    let ioff := fieldAt b 0x20 8
    let doff := fieldAt b 0x28 8
    let foff := fieldAt b 0x30 8
    let size := if rfmt = 1 then 2 else 4
    if bitsOf w0 18 14 != 0 || decide (2 ≤ rfmt) || bags = 0 || rowlen = 0 || decide (4096 < rowlen) || bitsOf hw 16 16 != 0 || fieldAt b 0xC 4 != 0 || fieldAt b 0x3C 4 != 0 then
      (s, .error (.fault (plainFault 0x04 0x11)))
    else if (toff % size != 0 || stride % size != 0) then (s, .error (.fault (o.faultAt 0x25 th toff)))
    else
      LRes.andThen (fwNeed s (fwRange s.s o ih ioff 4 4)) (fun s _ =>
      LRes.andThen (fwNeed s (fwRange s.s o dh doff (4 * rowlen * bags) 4)) (fun s _ =>
      LRes.andThen (if fh = 0 then (s, .ok (0, 0)) else fwNeed s (fwRange s.s o fh foff 4 4)) (fun s _ =>
      LRes.andThen (fwBags s i k o ih ioff bags) (fun s list =>
      LRes.andThen (LRes.each (fun s r => fwNeed s (fwRange s.s o th (toff + r * stride) (rowlen * size) size)) s (list.flatMap (·.idx))) (fun s _ =>
      LRes.andThen (LRes.each (fun s (bag : Bag) =>
          LRes.andThen (LRes.each (fun s r => fwRead s i k o th (toff + r * stride) (rowlen * size) size) s bag.idx) (fun s rows =>
            (s, .ok (bagRow bag.weights (rows.map (fun d => bagCodes (rfmt = 1) d rowlen)) rowlen)))) s list) (fun s out =>
        fwStores s i k o dh doff (out.flatMap id) fh foff (fieldAt b 0x38 4) 0)))))))

/-- The turn of a firmware kernel, once the stores it has issued are performed: it reads, checks and issues stores, and at last its token becomes DONE (R330). One that waits or parks keeps what it has done. -/
def fwTurn (s : State) (i : Nat) (k : Kernel) : State :=
  if pendingStores s k then s
  else
  match k.fin, k.cmd with
  | some aux, cmd => endKernel s i k (cmd.bind (fun o => clampFault o (k.fw = 1 && aux = 1))) aux
  | none, none => s
  | none, some o =>
    match (if k.fw = 1 then runNmred ⟨s, k.reads, []⟩ i k o else runNmired ⟨s, k.reads, []⟩ i k o) with
    | (r, .ok aux) => setRun r.s i (some { k with fin := some aux })
    | (r, .error .wait) => setRun r.s i (some { k with reads := r.got })
    | (r, .error (.park b e h off)) => saveKernel r.s i { k with reads := r.got } (some (b, e, h, off))
    | (r, .error (.fault f)) => endKernel r.s i k (some f) 0

end Sys2Proof.Machine
end

