-- ==== Sys2Proof/Machine/Admission.lean ====
section
/-! DEFINITION. Operators: submission (R415), admission (R161 to R166, R308), co-resident launches (R166), task pops and resumption (R173, R174, R397), segment copies (R168, R169), completion (R183 to R185) and the host's rings (R414). -/

namespace Sys2Proof.Machine

/-! ### Completion records (R185, R414, R415) -/

/-- A completion record (R185). -/
def completionBytes (seq : W64) (stream cause : Nat) (failed : Bool) (time : Nat) : List Byte :=
  leBytes seq.toNat 8 ++ leBytes (stream % 256 * 256 + (if failed then 128 + cause % 128 else 0)) 4 ++ leBytes 0 4 ++ leBytes time 8 ++ leBytes 0 8

/-- A completion record joins the partition's completion ring. -/
def postCompletion (s : State) (part : Nat) (seq : W64) (stream : Nat) (fail : Option Nat) : State :=
  enqueueRecord s part 0 (completionBytes seq stream (fail.getD 0) fail.isSome s.cycle)

/-- The record's WAIT field as it is written (R367): the waiters joined to its report so far. -/
def withWaiters (s : State) (part ring : Nat) (data : List Byte) : List Byte :=
  if ring = 1 then
    match s.reports.find? (fun r => r.part = part && r.seq = leNat ((data.drop 12).take 2)) with
    | some r => setNth data 11 (BitVec.ofNat 8 (min 255 r.waiters))
    | none => data
  else data

/-- The ring has room for its next record (R414): record n is written only when n − consumer < count. -/
def ringRoom (s : State) (part : Nat) (r : HostRing) : Bool :=
  match tensorBytes s part r.ctid r.coff 8 with
  | some l => decide ((BitVec.ofNat 64 r.written - BitVec.ofNat 64 (leNat l)).toNat < r.count)
  | none => false

/-- A window of the completion ring has run out (R185). -/
def windowOver (s : State) (p : Partition) : Bool := match p.window with | some (since, _, _) => decide (since + microseconds p.wincoal.toNat ≤ s.cycle) | none => false

/-- Record `n` of ring `i` of a partition goes to its place in host memory, under the ring's key (R414). -/
def sendRecord (s : State) (part i : Nat) (r : HostRing) (n : Nat) (imm : Option Nat) (data : List Byte) : State :=
  { s with sent := s.sent ++ [.record part i r.qp n (r.addr + 32 * (n % r.count)) r.key imm data] }

/-- RING_RECORD_WRITE (R414, R185): the next waiting record of ring `idx` of partition `part` is written. Completion records follow WINCOAL; the others carry an immediate, whose value is not given. (DESIGN CHOICE, log 26.) -/
def execRingRecordWrite (s : State) : Host.Outcome State Fault Refusal :=
  let part := s.sel.part
  let p := partOf s part
  match nth p.rings s.sel.idx with
  | none => .next s
  | some r =>
    match r.waiting with
    | [] => .next s
    | data :: rest =>
      if !ringRoom s part r || (s.sel.idx = 0 && windowOver s p) then .next s
      else
        let data := withWaiters s part s.sel.idx data
        let s := touchTensor s part r.ctid r.coff 8
        let p := { p with rings := setNth p.rings s.sel.idx { r with written := r.written + 1, waiting := rest } }
        if s.sel.idx = 0 && p.wincoal != 0 then
          let n := match p.window with | some (_, n, _) => n + 1 | none => 1
          let since := match p.window with | some (t, _, _) => t | none => s.cycle
          .next (sendRecord (setPart s part { p with window := some (since, n, data) }) part 0 r r.written none data)
        else
          .next { sendRecord (setPart s part p) part s.sel.idx r r.written (some ((Config.freeWord s.fresh).toNat % 2 ^ 32)) data with fresh := s.fresh + 1 }

/-- COMPLETION_WINDOW_CLOSE (R185): the last record of the window is rewritten, its immediate the number of records in the window. -/
def execCompletionWindowClose (s : State) : Host.Outcome State Fault Refusal :=
  let p := partOf s s.sel.part
  match p.window, nth p.rings 0 with
  | some (_, n, data), some r =>
    .next (if windowOver s p then sendRecord (setPart s s.sel.part { p with window := none }) s.sel.part 0 r (r.written - 1) (some n) data else s)
  | _, _ => .next s

/-! ### Submission (R161, R415) -/

/-- A field of a record. -/
def recField (l : List Byte) (off n : Nat) : Nat := leNat ((l.drop off).take n)

/-- An operator from its record (R161), waiting for admission. -/
def parseOperator (part stream : Nat) (l : List Byte) : Operator :=
  let w0 := recField l 0 4
  { part := part, stream := stream, phase := .waiting, bytes := l, kind := w0.testBit 0, pchk := w0.testBit 16, gvalid := bitsOf w0 12 4, cores := w0.testBit 3,
    prio := bitsOf w0 1 2, tasks := recField l 4 4, entry := BitVec.ofNat 18 (recField l 8 4), ktab := recField l 0xC 4 % 2 ^ 20, affmask := recField l 0x10 4,
    param := recField l 0x14 4, fv := (recField l 0x18 4).testBit 20, frame := recField l 0x18 4 % 2 ^ 20, fstride := recField l 0x1C 4,
    group := (List.range 4).map (fun i => recField l (0x20 + i) 1), useten := recField l 0x24 4 % 2 ^ 20, useidx := recField l 0x28 4, usecnt := recField l 0x2C 4 % 2 ^ 16,
    args := (List.range (min 16 (bitsOf w0 4 5))).map (fun i => let a := recField l (0x30 + 4 * i) 4; (bitsOf a 20 2, a % 2 ^ 20)),
    seq := BitVec.ofNat 64 (recField l 0x70 8), launch := 0, base := [], live := 0, handed := 0, admitted := none, fail := none, weir := none, replay := none, bounds := none }

/-- An operator joins its stream. -/
def submitRecord (s : State) (part stream : Nat) (replay : Option (Nat × Nat)) (l : List Byte) : State :=
  let (id, s) := takeFresh s
  setOp s id { parseOperator part stream l with replay := replay }

def setStreamOf (s : State) (part i : Nat) (f : Stream → Stream) : State := modPart s part (fun p => { p with streams := tmod .fresh p.streams i f })

/-- A submission word is taken (R415). (PRESUMED, log 42.) -/
def takeSubmission (s : State) (part : Nat) (v : W64) : State :=
  let p := partOf s part
  let i := bitsOf v.toNat 48 8
  let tail : W32 := v.truncate 32
  if 64 ≤ i then postCompletion s part 0 i (some 0x6C)
  else
    let st := tget .fresh p.streams i
    let n := (tail - st.head).toNat
    let bad (s : State) : State := postCompletion (setStreamOf s part i (fun x => { x with tail := tail, stopped := true })) part 0 i (some 0x6B)
    if 1024 < n || bitsOf v.toNat 32 16 != 0 || bitsOf v.toNat 56 8 != 0 then bad s
    else
      let offs := (List.range n).map (fun j => i * 131072 + 128 * ((st.head.toNat + j) % 1024))
      let recs := offs.map (fun o => tensorBytes s part p.submission o 128)
      if recs.any (·.isNone) then bad s
      else recs.foldl (fun s r => submitRecord s part i none (r.getD [])) (setStreamOf (touchAll s part p.submission offs 128) part i (fun x => { x with head := tail, tail := tail }))

/-- SUBMISSION_WORD_WRITE (R415): an RDMA write of the value `word` to the submission word of partition `part` is performed and taken. -/
def execSubmissionWordWrite (s : State) : Host.Outcome State Fault Refusal :=
  let part := s.sel.part
  if !(partOf s part).live || heldTensor s part (partOf s part).submission 0x800000 8 then .next s
  else .next (takeSubmission (tensorStore s part (partOf s part).submission 0x800000 (leBytes s.sel.word.toNat 8)) part s.sel.word)

/-! ### Rules of a record (R163, R165, R308) -/

/-- The byte offset of the first field of an operator record that breaks a rule. (DEDUCED, log 41; DEDUCED, log 44.) -/
def operatorBad (p : Partition) (o : Operator) : Option Nat :=
  let l := o.bytes
  let w0 := recField l 0 4
  let narg := bitsOf w0 4 5
  let argBad (i : Nat) : Bool :=
    let a := recField l (0x30 + 4 * i) 4
    bitsOf a 22 10 != 0 || (!o.kind && decide (i < narg) && bitsOf a 20 2 = 0) || (o.kind && decide (8 ≤ i) && bitsOf a 20 2 != 0)
  if bitsOf w0 17 15 != 0 || bitsOf w0 9 3 != 0 || 16 < narg || (o.kind && o.gvalid != 0) then some 0
  else if o.tasks = 0 then some 4
  else if bitsOf (recField l 8 4) 18 14 != 0 || (o.kind && bitsOf (recField l 8 4) 8 10 != 0) then some 8
  else if bitsOf (recField l 0xC 4) 20 12 != 0 then some 0xC
  else if bitsOf (recField l 0x18 4) 21 11 != 0 then some 0x18
  else if (List.range 4).any (fun i => o.gvalid.testBit i && !(decide (p.groupLo ≤ o.group.getD i 0) && decide (o.group.getD i 0 < p.groupHi))) then some 0x20
  else if bitsOf (recField l 0x24 4) 20 12 != 0 then some 0x24
  else if bitsOf (recField l 0x2C 4) 16 16 != 0 then some 0x2C
  else
    match (List.range 16).find? argBad with
    | some i => some (0x30 + 4 * i)
    | none => if recField l 0x78 8 != 0 then some 0x78 else none

/-- The cores of a partition. -/
def coreMask (p : Partition) : Nat := ((List.range 32).map (fun i => if hasSlice p i then 255 * 2 ^ (8 * i) else 0)).sum

/-- A group entry from its definition record (R165); none when the record breaks a rule or is not reached. -/
def groupRecord (s : State) (part n : Nat) : Option Group :=
  match tensorBytes s part (partOf s part).groupTensor (64 * n) 64 with
  | none => none
  | some l =>
    let m := recField l 0 32
    if m = 0 || m &&& coreMask (partOf s part) != m || 2 ≤ recField l 32 1 || recField l 33 7 != 0 then none
    else some { Group.none with members := BitVec.ofNat 256 m, mc := recField l 32 1 = 1, dmask := BitVec.ofNat 192 (recField l 40 24), loaded := true }

/-- The groups an operator's slots name. -/
def opGroups (o : Operator) : List Nat := (List.range 4).filterMap (fun i => if o.gvalid.testBit i then some (o.group.getD i 0) else none)

/-- An operator that counts as running (R164). -/
def opActive (o : Operator) : Bool := o.phase = .running || (o.phase = .ending && o.admitted.isSome)

/-- Some running operator of the partition uses the group. -/
def groupUsed (s : State) (part n : Nat) : Bool := s.ops.any (fun e => e.2.part = part && opActive e.2 && (opGroups e.2).contains n)

/-- Loads the groups of an operator that no running operator uses (R164 step 1). -/
def loadGroups (s : State) (o : Operator) : State :=
  (opGroups o).foldl (fun s n =>
    if groupUsed s o.part n then s
    else
      let s := touchTensor s o.part (partOf s o.part).groupTensor (64 * n) 64
      match groupRecord s o.part n with
      | some g => setGroup { s with colls := s.colls.filter (fun i => i.group != n) } n g
      | none => s) s

/-! ### The order of a stream (R162) -/

def readSet (o : Operator) : List Nat := o.args.filterMap (fun a => if a.1 % 2 = 1 then some a.2 else none)
def writeSet (o : Operator) : List Nat := o.args.filterMap (fun a => if 2 ≤ a.1 then some a.2 else none)
/-- The tensors an operator's arguments name, each once. -/
def argTensors (o : Operator) : List Nat := (o.args.filterMap (fun a => if a.1 = 0 then none else some a.2)).eraseDups

/-- An earlier operator of the stream that has not retired holds the operator back (R162). -/
def heldBack (s : State) (id : Nat) (o : Operator) : Bool :=
  s.ops.any (fun e => decide (e.1 < id) && e.2.part = o.part && e.2.stream = o.stream && e.2.weir.isNone && e.2.phase != .retired
    && ((writeSet e.2).any (fun t => (readSet o).contains t || (writeSet o).contains t) || (readSet e.2).any (fun t => (writeSet o).contains t)))

/-! ### References at admission (R163, R197, R373, R376, R384) -/

/-- A spilled or compressed tensor goes back to a resident place that has free frames (R373). -/
def startFill (s : State) (part : Nat) (t : Tensor) : State :=
  let go (tier dest : Nat) : State := match takeFrames s (slicesOn s part t.home) tier t.pages with | some (fs, s) => startAct s part t 4 dest fs | none => s
  if t.pages ≤ freeOn s part t.home 0 then go 0 1 else if t.pages ≤ freeOn s part t.home 1 then go 1 2 else s

/-- One argument of an operator is referenced at its admission: reads of a dropped tensor and writes of an absent one as any reference; a spilled or compressed one is brought back where it can be. -/
def admitArg (s : State) (id part : Nat) (a : Nat × Nat) : State × RefRes :=
  match tensorOf s part a.2 with
  | none => (s, .fail 0x58 a.2)
  | some t =>
    if (slicesOn s part t.home).isEmpty then (s, .fail 0x57 a.2)
    else if 6 ≤ t.state then (s, .fail 0x56 a.2)
    else if t.busy then (s, .wait (.held part a.2))
    else if t.state = 3 || t.state = 4 then
      if managed s part t then (startFill s part t, .ok) else (s, .fail 0x56 a.2)
    else if (t.state = 5 && a.1 % 2 = 1) || (t.state = 0 && 2 ≤ a.1) then refTensor s part a.2 0 (some id)
    else (s, .ok)

/-- Takes argument tensors one after another (R163). -/
def admitEach (s : State) (id part : Nat) (l : List (Nat × Nat)) : State × RefRes :=
  match l with
  | [] => (s, .ok)
  | a :: r =>
    if a.1 = 0 then admitEach s id part r
    else
      match admitArg s id part a with
      | (s, .ok) => admitEach s id part r
      | x => x

/-- Takes an operator's argument tensors at its admission (R163); one that waited has retried now, and holds no output of a recompute any more (R376). -/
def admitArgs (s : State) (id part : Nat) (l : List (Nat × Nat)) : State × RefRes :=
  admitEach { s with retry := s.retry.filter (fun r => !(r.1 = part && r.2.2 = id)) } id part l

/-- The first entry of an operator's use-list slice that lies outside its tensor (R375). -/
def useListBad (s : State) (o : Operator) : Option Nat :=
  if o.usecnt = 0 then none
  else
    let room := match tensorOf s o.part o.useten with | some t => t.extent / 8 | none => 0
    if o.useidx + o.usecnt ≤ room then none else some (max o.useidx room)

/-- Applies an operator's use list (R375). (DEDUCED, log 41.) -/
def applyUseList (s : State) (o : Operator) : State :=
  (List.range o.usecnt).foldl (fun s i =>
    match tensorBytes s o.part o.useten (8 * (o.useidx + i)) 8 with
    | none => s
    | some l =>
      let s := touchTensor s o.part o.useten (8 * (o.useidx + i)) 8
      if bitsOf (recField l 0 4) 20 12 != 0 then s
      else
        match tensorOf s o.part (recField l 0 4 % 2 ^ 20) with
        | some t => setTensor s o.part { t with nextuse := BitVec.ofNat 32 (recField l 4 4) }
        | none => s) s

/-! ### Admission (R163 to R166) -/

/-- Loads the Lakebed image into every Lakebed core of the partition (R304). The words of the firmware kernels read 0, and an image that cannot be read is all 0. (DESIGN CHOICE, log 93.) -/
def loadImage (s : State) (part : Nat) : State :=
  let p := partOf s part
  let data := (tensorBytes s part p.image 0 51200).getD []
  let table : Tab W64 := (List.range 256).map (fun n => (n, BitVec.ofNat 64 (recField data (8 * n) 8)))
  let store : Tab W32 := (List.range 12288).map (fun w => (w, BitVec.ofNat 32 (recField data (2048 + 4 * w) 4)))
  (lakesOf s part).foldl (fun s i => setLake s i { lakeOf s i with ktable := table, istore := store, badStore := [] }) (setPart (touchTensor s part p.image 0 51200) part { p with imageLoaded := true })

/-- The operator names something that leaves the partition (R400). -/
def namesLeaving (s : State) (o : Operator) : Bool :=
  let p := partOf s o.part
  match p.resize with
  | none => false
  | some (w, _) =>
    let leaving := p.slices &&& ~~~w
    let inMask (c : Nat) : Bool := leaving.getLsbD c
    if o.kind then (List.range (lakesOf s o.part).length).any (fun j => (o.affmask = 0 || o.affmask.testBit j) && inMask (lakeSlice ((lakesOf s o.part).getD j 0)))
    else (List.range 32).any (fun c => inMask c && (o.affmask.testBit c || (opGroups o).any (fun n =>
      match groupRecord s o.part n with | some g => (List.range 8).any (fun i => g.members.getLsbD (8 * c + i)) | none => false)))

/-- The clusters an operator's initial tasks may run on (R166, R170); a mask that names no cluster of the partition names all of them for a co-resident operator too. (DESIGN CHOICE, log 90.) -/
def allowedClusters (p : Partition) (o : Operator) : List Nat := (List.range 32).filter (fun c => (affinityMask p { TaskRec.none with aff := o.affmask }).testBit c)

/-- Initial task `i` of an operator (R164 step 3). -/
def initialTask (id : Nat) (o : Operator) (i : Nat) : TaskRec :=
  { TaskRec.none with entry := o.entry, prio := o.prio, cls := o.prio, aff := o.affmask, fv := o.fv, ftid := if o.fv then o.frame else 0,
                      foff := if o.fv then i * o.fstride % 2 ^ 32 else 0, arg0 := i, arg1 := o.param, op := id }

/-- Pushes the initial tasks from number `i` on; a push that no queue takes fails the operator. -/
def pushInitial (s : State) (id : Nat) (o : Operator) (i : Nat) : Nat → State
  | 0 => s
  | n + 1 =>
    match pushTask s o.part none i (initialTask id o i) with
    | some s => pushInitial s id o (i + 1) n
    | none => failOp s id 0x65 (pushTarget (partOf s o.part) none i (initialTask id o i))

/-- The launch of an admitted operator (R164). A Lakebed operator's tasks are handed over later (R308); a co-resident one waits for its contexts (R166). -/
def launchOp (s : State) (id : Nat) (o : Operator) : State :=
  let s := if (partOf s o.part).imageLoaded then s else loadImage s o.part
  let s := applyUseList s o
  let s := (argTensors o).foldl (fun s t => pinTensor s o.part t true) s
  let s := loadGroups s o
  let (launch, s) := takeLaunch s o.part
  let base := (List.range 4).map (fun i => if o.gvalid.testBit i then (groupOf s (o.group.getD i 0)).gen.toNat else 0)
  let o := { o with phase := .running, launch := launch, base := base, live := o.tasks, admitted := some s.cycle }
  let s := setOp s id o
  if o.kind then s
  else if o.cores then (if 32 * (allowedClusters (partOf s o.part) o).length < o.tasks then failOp s id 0x64 0 else s)
  else pushInitial s id o 0 o.tasks

/-- OPERATOR_ADMIT (R162 to R165, R375, R376): the waiting operator `num` is examined. (DESIGN CHOICE, log 5; DEDUCED, log 41.) -/
def execOperatorAdmit (s : State) : Host.Outcome State Fault Refusal :=
  let id := s.sel.num
  match opOf s id with
  | none => .next s
  | some o =>
    let p := partOf s o.part
    if o.phase != .waiting || !p.live || p.checkpoint || (tget Stream.fresh p.streams o.stream).stopped || namesLeaving s o then .next s
    else
      match operatorBad p o with
      | some f => .next (failOp s id 0x62 f)
      | none =>
        if heldBack s id o then .next s
        else if (opGroups o).any (fun n => !groupUsed s o.part n && (groupRecord s o.part n).isNone) then .next (failOp s id 0x62 0x20)
        else
          match o.args.find? (fun a => a.1 != 0 && (tensorOf s o.part a.2).isNone) with
          | some a => .next (failOp s id 0x58 a.2)
          | none =>
            match useListBad s o with
            | some i => .next (failOp s id 0x53 (i % 2 ^ 16))
            | none =>
              if (argTensors o).any (fun t => match tensorOf s o.part t with | some x => decide (65535 ≤ pinCount s o.part x) | none => false) then .next s
              else
                match admitArgs s id o.part o.args with
                | (s, .wait _) => .next s
                | (s, .fail c t) => .next (failOp s id c t)
                | (s, .ok) => .next (launchOp s id o)

/-! ### Tasks start (R9, R166, R170, R174) -/

/-- A context takes a task (R9): its registers, DBGCTL at the partition's debug value (R361), the task's launch and class, and an acquire at DEV for what its pusher released (R175, R176). It is ready, and its turn comes in the cyclic order (R158). (DEDUCED, log 43.) -/
def startTask (s : State) (id : Nat) (t : TaskRec) : State :=
  let (uid, s) := takeFresh s
  let o := opOf s t.op
  let core := id / 4
  let regs : List (Nat × Nat) := [(1, t.arg0), (2, t.arg1), (3, if t.fv then t.ftid else 0), (4, if t.fv then t.foff else 0), (5, core), (6, id % 4)]
  let c := { Ctx.idle with
    running := true, uid := uid, pc := t.entry, s := regs.foldl (fun r e => tset r e.1 (BitVec.ofNat 64 e.2)) [],
    pendchk := (match o with | some o => o.pchk && !o.kind && o.weir.isNone | none => false), task := t, op := t.op,
    launch := (match o with | some o => o.launch | none => 0), tclass := t.cls, since := arithAt s (dieOfCore core), block := some .turn, dbgctl := (partOf s (partOfCore s core)).dbg &&& 0x00FEFFFE }
  acquireAt (setCtx s id c) core 4

/-- Contexts reserved for an operator, in increasing core and context number (R166). -/
def reservedFor (s : State) (op : Nat) : List Nat := (s.ctxs.filter (fun e => e.2.reserved = some op && !e.2.running)).map (·.1)

/-- A co-resident operator that still has to start. -/
def unstarted (o : Operator) : Bool := o.cores && !o.kind && o.phase = .running && o.handed = 0

/-- CORESIDENT_LAUNCH (R166): once TASKS contexts are reserved, all initial tasks of operator `num` start at once. -/
def execCoresidentLaunch (s : State) : Host.Outcome State Fault Refusal :=
  match opOf s s.sel.num with
  | none => .next s
  | some o =>
    let ids := reservedFor s s.sel.num
    if !(unstarted o && ids.length = o.tasks) then .next s
    else
      let s := modOp s s.sel.num (fun o => { o with handed := o.tasks })
      .next ((ids.zip (List.range o.tasks)).foldl (fun s p => modCtx (startTask s p.1 (initialTask s.sel.num o p.2)) p.1 (fun c => { c with reserved := some s.sel.num })) s)

/-- The groups of the running contexts of a core other than one (R174, R178). -/
def coreGroups (s : State) (core x : Nat) : List Nat :=
  ((List.range 4).flatMap (fun y =>
    let c := ctxOf s (ctxId core y)
    if y = x || !c.running then [] else match opOf s c.op with | some o => opGroups o | none => []))

/-- The record may run on the context (R174). -/
def eligible (s : State) (core x : Nat) (t : TaskRec) : Bool :=
  let p := partOf s (partOfCore s core)
  match affinityCore p t with
  | some c => c = core
  | none =>
    (affinityMask p t).testBit (core / 8)
    && decide ((coreGroups s core x ++ (match opOf s t.op with | some o => opGroups o | none => [])).eraseDups.length ≤ 4)

/-- Aging of a die's queues (R173). -/
def applyAging (s : State) (die : Nat) : State :=
  { s with queues := s.queues.map (fun e =>
      if e.1 / 16 != die then e
      else
        let age := (partOf s (partOfSlice s (e.1 / 16 * 8 + e.1 % 16 / 2))).ageq.toNat
        (e.1, e.2.map (fun t => if age != 0 && t.cls < 3 && !t.promoted && decide (age * 1024 ≤ arithAt s die - t.pushed) then { t with cls := t.cls + 1, promoted := true } else t))) }

/-- The record of a queue that a context takes: the earliest pushed of the class that is eligible (R174); of several pushed at one time the one queued first. (DESIGN CHOICE, log 84.) -/
def bestRecord (s : State) (core x cls : Nat) (l : List TaskRec) : Option (Nat × TaskRec) :=
  let all := (List.range l.length).filterMap (fun i => match l[i]? with | some t => if t.cls = cls && eligible s core x t then some (i, t) else none | none => none)
  all.foldl (fun b r => match b with | none => some r | some y => some (if r.2.pushed < y.2.pushed then r else y)) none

/-- The rotation of a die's queues for a class starts here, per partition (R174). -/
def rrKey (part die cls : Nat) : Nat := (part * 4 + die) * 4 + cls

/-- A context takes a queued record of one class, if one is eligible (R174). -/
def takeRecord (s : State) (core x cls : Nat) : Option State :=
  let part := partOfCore s core
  let p := partOf s part
  let die := dieOfCore core
  let start := tget 0 s.rr (rrKey part die cls)
  let found := (List.range 16).findSome? (fun i =>
    let q := (start + i) % 16
    if queueOwned p (die * 16 + q) then (bestRecord s core x cls (tget [] s.queues (die * 16 + q))).map (fun r => (q, r.1, r.2)) else none)
  found.map (fun r =>
    let key := die * 16 + r.1
    startTask { s with rr := tset s.rr (rrKey part die cls) ((r.1 + 1) % 16), queues := tset s.queues key (dropNth (tget [] s.queues key) r.2.1) } (ctxId core x) r.2.2)

/-! ### Resumption (R397) -/

/-- The tiles that the saved tasks of a core held are free and differ, and the pool has the entries they held free, all together (R397). -/
def resumable (s : State) (core : Nat) (l : List Saved) : Bool :=
  let k := coreOf s core
  let tiles := l.flatMap (fun x => x.tiles.map (·.1))
  tiles.all (fun t => (tget Tile.free k.tiles t).owner.isNone && (tiles.filter (fun u => u = t)).length = 1) && decide (k.pool.length + (l.map (fun x => x.pool.length)).sum ≤ 4)

/-- A saved task goes on in a context of its core (R397); its operations keep their numbers, and so their places before the context's later ones. How they rank against what other contexts issued meanwhile no rule states. (DESIGN CHOICE, log 74.) -/
def resumeSaved (s : State) (id : Nat) (x : Saved) : State :=
  let c := { x.ctx with block := some .turn, preq := none, since := arithAt s (dieOfCore x.core), five := false, spawned := none }
  let runs := match x.mcall with | some r => [r] | none => []
  let s := modCore s x.core (fun k => { k with
    tiles := x.tiles.foldl (fun t e => tset t e.1 e.2) k.tiles, pool := k.pool ++ x.pool, queue := k.queue ++ runs.map (·.op) ++ x.queued, resumed := k.resumed ++ runs })
  let s := { s with saved := s.saved.filter (fun y => y.ctx.uid != x.ctx.uid) }
  setCtx (modPart s x.part (fun p => { p with saveAreas := p.saveAreas ++ [x.area] })) id c

/-- The idle contexts of a core that are free for any task. -/
def idleContexts (s : State) (core : Nat) : List Nat := (List.range 4).filter (fun y => let c := ctxOf s (ctxId core y); !c.running && c.reserved.isNone)

/-- The saved initial tasks of a co-resident operator, all of which resume together (R166). -/
def savedTogether (s : State) (x : Saved) : List Saved := if x.ctx.reserved.isSome then s.saved.filter (fun y => y.ctx.reserved = x.ctx.reserved) else [x]

/-- All of them can go on at once, with context `x` of core `core` among those they take. -/
def togetherReady (s : State) (l : List Saved) : Bool :=
  l.all (fun y => let here := l.filter (fun z => z.core = y.core); resumable s y.core here && decide (here.length ≤ (idleContexts s y.core).length))
  && !(s.ctxs.any (fun e => e.2.running && e.2.reserved.isSome && l.any (fun y => y.ctx.reserved = e.2.reserved)))

/-- Resumes saved tasks in turn, each in the lowest idle context of its core, the first in context `first`. -/
def resumeAll (s : State) (first : Nat) (l : List Saved) : State :=
  match l with
  | [] => s
  | x :: r => r.foldl (fun s y => match idleContexts s y.core with | i :: _ => resumeSaved s (ctxId y.core i) y | [] => s) (resumeSaved s first x)

/-- A saved task of the class that the context may resume. (DEDUCED, log 43.) -/
def takeSaved (s : State) (core x cls : Nat) : Option State :=
  (s.saved.find? (fun y => y.core = core && y.cls = cls && togetherReady s (savedTogether s y))).map (fun y =>
    resumeAll s (ctxId core x) (y :: (savedTogether s y).filter (fun z => z.ctx.uid != y.ctx.uid)))

/-- A co-resident operator that waits for a context such as this one (R166); of several the one with the lowest number. (DESIGN CHOICE, log 84.) -/
def wantsContext (s : State) (core : Nat) : Option Nat :=
  (s.ops.find? (fun e => e.2.part = partOfCore s core && unstarted e.2 && (allowedClusters (partOf s e.2.part) e.2).contains (core / 8)
    && decide ((reservedFor s e.1).length < e.2.tasks))).map (·.1)

/-- The context may be served: it is idle, kept for no co-resident operator, and its core belongs to a partition (R174). -/
def servable (s : State) (die n : Nat) : Bool :=
  let core := die * 64 + n / 4
  let c := ctxOf s (ctxId core (n % 4))
  !c.running && c.reserved.isNone && decide (partOfCore s core < 8)

/-- The idle context of a die that is served next: the first in cyclic order of core id and then context number after the one served last (R174). -/
def nextServed (s : State) (die : Nat) : Option Nat :=
  ((List.range 256).map (fun i => (tget 255 s.served die + 1 + i) % 256)).find? (servable s die)

/-- TASK_POP (R166, R173, R174, R397): the idle context of die `die` whose turn it is, is reserved, resumes a saved task or takes a queued one, or stays idle. A core that is leaving its partition resumes its saved tasks and takes no others (R400). A context is reserved when its turn comes, whatever its number; the initial tasks then go to the reserved contexts in rising order. (DESIGN CHOICE, log 90.) -/
def execTaskPop (s : State) : Host.Outcome State Fault Refusal :=
  let die := s.sel.die % 4
  match nextServed s die with
  | none => .next s
  | some n =>
    let core := die * 64 + n / 4
    let x := n % 4
    let s := { s with served := tset s.served die n }
    let takes := (taking (partOf s (partOfCore s core))).getLsbD (core / 8)
    match if takes then wantsContext s core else none with
    | some op => .next (modCtx s (ctxId core x) (fun c => { c with reserved := some op }))
    | none =>
      let s := applyAging s die
      .next (([3, 2, 1, 0].findSome? (fun cls => (takeSaved s core x cls).or (if takes then takeRecord s core x cls else none))).getD s)

/-! ### Segment copies (R168, R169) -/

/-- A segment copy ends in a failure: the contexts blocked on it meet the cause (R362). -/
def failSegment (s : State) (core : Nat) (y : SegCopy) (cause inner : Nat) : State :=
  let s := modCore s core (fun k => { k with copying := k.copying.filter (fun z => z != y) })
  { s with ctxs := s.ctxs.map (fun e =>
      if e.1 / 4 = core && e.2.block = some (.segment y.ktab y.seg) then (e.1, { e.2 with pendFail := some (cause, 0, y.seg, inner) }) else e) }

/-- The bundles of a segment from its bytes. -/
def bundlesOf (l : List Byte) (n : Nat) : List (BitVec 128) := (List.range n).map (fun i => BitVec.ofNat 128 (leNat ((l.drop (16 * i)).take 16)))

/-- A segment's bytes arrive, wait or fail. -/
inductive SegRes where
  | code (l : List (BitVec 128))
  | wait (b : Block)
  | fail (cause inner : Nat)

/-- Reads a segment for a copy (R95, R167): from pages with X only; a page that is not present is served where the service runs (R366). (DESIGN CHOICE, log 40.) -/
def readSegment (s : State) (core : Nat) (y : SegCopy) : State × SegRes :=
  match tableMissing s y.part y.ktab y.seg, segEntry s y.part y.ktab y.seg with
  | some va, _ =>
    match joinReport s y.part va y.ktab 2 with
    | some (seq, s) => (s, .wait (.report y.part seq))
    | none => (s, .fail 0x0B 0x2F)
  | none, .error t => (s, .fail t.cause (t.detail / 64))
  | none, .ok (tid, off, n) =>
    match tensorOf s y.part tid with
    | none => (s, .fail 0x0B 0x58)
    | some t =>
      if t.busy then (s, .wait (.held y.part tid))
      else if t.extent < off + 16 * n then (s, .fail 0x0B 0x24)
      else
        match translateRange s ((y.seg + 1) * 2 ^ 64 + y.uid) (core / 8) y.part (t.vbase + off) (16 * n) 4 with
        | (s, .error (e, va)) =>
          if e = .pending then (s, .wait (.walk (core / 8) (va / 65536 * 4 + 4)))
          else if e.cause = 0x20 && serviced s y.part then
            match joinReport s y.part va tid 2 with
            | some (seq, s) => (s, .wait (.report y.part seq))
            | none => (s, .fail 0x0B 0x2F)
          else if e = .denied then (s, .fail 0x0A 0)
          else (s, .fail 0x0B e.cause)
        | (s, .ok segs) =>
          if heldFill s segs then (s, .wait .turn)
          else if (firstPoison s segs).isSome then (s, .fail 0x0B 0x2D)
          else (s, .code (bundlesOf (readSegs s 0 segs) n))

/-- SEGMENT_COPY_LAND (R169): copy `idx` under way to core `core` lands, or fails. -/
def execSegmentCopyLand (s : State) : Host.Outcome State Fault Refusal :=
  let core := s.sel.core
  match nth (coreOf s core).copying s.sel.idx with
  | none => .next s
  | some y =>
    let waits := match y.wait with | some (.report p q) => s.reports.any (fun r => r.part = p && r.seq = q) | _ => false
    if waits then .next s
    else
      match readSegment s core y with
      | (s, .wait b) => .next (modCore s core (fun k => { k with copying := setNth k.copying s.sel.idx { y with wait := some b } }))
      | (s, .fail c i) => .next (failSegment s core y c i)
      | (s, .code l) =>
        .next (modCore s core (fun k => { k with
          order := k.order + 1, copying := dropNth k.copying s.sel.idx, frames := tset k.frames y.frame { ktab := y.ktab, seg := y.seg, code := l, order := k.order + 1 } }))

/-! ### The end of an operator (R183, R184) -/

/-- The partition that owns the home of a sector; 8 when none does. -/
def partOfSector (s : State) (k : Nat) : Nat :=
  let n := k * 32
  if 2 ^ 62 ≤ n then 8 else if 2 ^ 60 ≤ n then partOfCore s ((n - 2 ^ 60) / 0x200000) else partOfSlice s (keySlice (n % 2 ^ 58))

/-- An access of the operator's tasks is outstanding at its home. -/
def storesOut (s : State) (o : Operator) : Bool :=
  s.remotes.any (fun r => r.part = o.part && r.launch = o.launch && (r.kind.isStore || (match r.kind with | .lake _ _ => true | _ => false)))

/-- The operator's requests to queue pairs: reliable ones are acknowledged, datagrams handed over (R183). -/
def sendsOut (s : State) (id : Nat) (o : Operator) : Bool := !rdmaQuiet s o.part id

/-- What is left of an operator on the cores goes: contexts halted under R25 (R355), its reservations. -/
def clearHalted (s : State) (id : Nat) : State :=
  (s.ctxs.filter (fun e => e.2.running && e.2.op = id)).foldl (fun s e => dropCtx (abandonColls s e.2.uid) e.1) s

/-- The operator retires (R183): tags die (R242), read-only caches are cleared (R206), its pins go (R376). (DEDUCED, log 63.) -/
def retireOp (s : State) (id : Nat) (o : Operator) : State :=
  let s := clearHalted s id
  let s := if o.admitted.isSome then (argTensors o).foldl (fun s t => pinTensor s o.part t false) s else s
  let s := { s with tags := s.tags.filter (fun e => partOfSector s e.1 != o.part),
                    ro := s.ro.filter (fun e => !(hasSlice (partOf s o.part) e.1)) }
  setOp s id { o with phase := .retired }

/-- OPERATOR_COMPLETE (R183, R185): operator `num`, whose last task has ended or which has failed, retires and its record is posted. -/
def execOperatorComplete (s : State) : Host.Outcome State Fault Refusal :=
  match opOf s s.sel.num with
  | none => .next s
  | some o =>
    if o.phase != .ending || o.weir.isSome || storesOut s o || sendsOut s s.sel.num o then .next s
    else .next (postCompletion (retireOp s s.sel.num o) o.part o.seq o.stream (o.fail.map (·.1)))

/-- OPERATOR_DEADLINE (R362): operator `num` has run beyond the partition's deadline, in µs; 0 is no deadline. (DEDUCED, log 41.) -/
def execOperatorDeadline (s : State) : Host.Outcome State Fault Refusal :=
  match opOf s s.sel.num with
  | none => .next s
  | some o =>
    let d := (partOf s o.part).deadline
    match o.admitted with
    | some t => .next (if o.phase = .running && d != 0 && decide (t + microseconds d < s.cycle) then failOp s s.sel.num 0x67 0 else s)
    | none => .next s

end Sys2Proof.Machine
end

