-- ==== Sys2Proof/Machine/Streams.lean ====
section
/-! DEFINITION. The stream engine: TSTREAM, its start, its chunks, parking and its end (R296 to R298). -/

namespace Sys2Proof.Machine

/-- TSTREAM (R296). -/
def execTstream (g : GReg) (kd ka kb kc : KReg) (x : BitVec 4) (s : State) : Host.Outcome State Fault Refusal := runSlot s (engineOut 0x0D x.toNat g kd ka kb kc false)

/-! ### The start (R296) -/

def hasSect (o : EngineOp) : Bool := o.x % 2 = 1
def chunksOf (o : EngineOp) : Nat := (o.param 3).toNat
def listH (o : EngineOp) : Nat := wordH (o.param 4)

/-- Steps 1 to 5 of R289 as R296 takes them. -/
def streamFields (o : EngineOp) : Option FaultRec :=
  let rsv (m lo n : Nat) : Bool := bitsOf (o.param m).toNat lo n != 0
  if rsv 1 36 4 then some (plainFault 0x04 1)
  else if rsv 2 36 4 then some (plainFault 0x04 2)
  else if chunksOf o = 0 || decide (65536 < chunksOf o) then some (plainFault 0x04 3)
  else if hasSect o && (rsv 4 36 28 || decide (2 ≤ listH o)) then some (plainFault 0x04 4)
  else
    match ([srcH o, dstH o] ++ (if hasSect o then [listH o] else [])).findSome? (unboundFault o) with
    | some f => some f
    | none =>
      if (o.handle (srcH o)).kind != .tensor || (o.handle (srcH o)).dev != 0 then some (o.faultAt 0x2B (srcH o) 0)
      else if (o.handle (dstH o)).kind = .tensor && (o.handle (dstH o)).dev != 0 then some (o.faultAt 0x2B (dstH o) 0)
      else if wordOff (o.param 1) % 512 != 0 then some (o.faultAt 0x25 (srcH o) (wordOff (o.param 1)))
      else if hasSect o && wordOff (o.param 4) % 2 != 0 then some (o.faultAt 0x25 (listH o) (wordOff (o.param 4)))
      else none

/-- Step 6 of R289, chunk by chunk: its source, its destination, its mask word. (DEDUCED, log 36.) -/
def streamBounds (s : State) (o : EngineOp) : Option FaultRec :=
  (List.range (chunksOf o)).findSome? (fun i =>
    ((boundFault s o (srcH o) (wordOff (o.param 1) + 512 * i) 512).or (boundFault s o (dstH o) (wordOff (o.param 2) + 512 * i) 512)).or
      (if hasSect o then boundFault s o (listH o) (wordOff (o.param 4) + 2 * i) 2 else none))

/-- The sector masks of the chunks (R296). -/
def readMasks (s : State) (o : EngineOp) : Except FaultRec (List Nat) :=
  if !hasSect o then .ok []
  else
    let off := wordOff (o.param 4)
    let n := chunksOf o
    let segs := windowSegs o.core (o.handle (listH o)).kind off (2 * n)
    match enginePoison s o (listH o) off segs with
    | some f => .error f
    | none => let l := readSegs s o.launch segs; .ok ((List.range n).map (fun i => leNat ((l.drop (2 * i)).take 2)))

/-- The earliest ready stream of a core starts: its checks, then its run. -/
def startStream (s : State) (core : Nat) : State :=
  match nextQueued s core (fun o => unitOf o.opc = 2) with
  | none => s
  | some o =>
    let s := unqueue s o
    if unitOffline s core o.opc then endOp s o.id (some (plainFault 0x46 o.opc)) 0
    else
      match (streamFields o).or (streamBounds s o) with
      | some f => endOp s o.id (some f) 0
      | none =>
        match readMasks s o with
        | .error f => endOp s o.id (some f) 0
        | .ok masks => { s with streams := s.streams ++ [⟨o, dieOfCore core, masks, List.range (chunksOf o), [], none⟩] }

/-! ### Chunks (R297, R298) -/

def setStream (s : State) (r : StreamRun) : State := { s with streams := s.streams.map (fun x => if x.op.id = r.op.id then r else x) }

/-- The stream's token takes its outcome. -/
def endStream (s : State) (o : EngineOp) (f : Option FaultRec) (aux : Nat) : State :=
  endOp { s with streams := s.streams.filter (fun x => x.op.id != o.id) } o.id f aux

/-- The UNIT of a location's storage (R439). -/
def unitOfLoc (l : Loc) : Nat :=
  match l with
  | .scr core _ => dieOfCore core
  | .far _ _ _ => 0
  | .mem k | .comp k => if keySpace k = 0 then 0x60 + keyDie k else if keySpace k = 2 then 0x90 + keyDie k else 0x70 + keyStack k

/-- The chunk's selected sectors. -/
def chunkSectors (r : StreamRun) (i : Nat) : List Nat := (List.range 16).filter (fun j => !hasSect r.op || (r.masks.getD i 0).testBit j)

/-- The part of segments from byte `from'` on, `n` bytes. -/
def subSegs (segs : List Seg) (from' n : Nat) : List Seg :=
  match segs with
  | [] => []
  | g :: r =>
    if n = 0 then []
    else if g.len ≤ from' then subSegs r (from' - g.len) n
    else
      let k := min n (g.len - from')
      ⟨g.loc.next from', k⟩ :: subSegs r 0 (n - k)

/-- How a chunk goes. -/
inductive ChunkRes where
  | written (s : State)
  | failed
  | wait
  | fault (f : FaultRec) (page : Bool)

/-- Chunk `i` of a stream: its places, its bytes, its writes under the writer tags (R297). With SECT the whole chunk is translated, the sectors that the mask leaves out with it. (DESIGN CHOICE, log 76.) -/
def doChunk (s : State) (r : StreamRun) (i : Nat) : State × ChunkRes :=
  let o := r.op
  let a := wordOff (o.param 1) + 512 * i
  let b := wordOff (o.param 2) + 512 * i
  match placeOf s o (32 + r.die) (srcH o) a 512 1 with
  | (s, .wait) => (s, .wait)
  | (s, .fault f) => if f.cause = 0x33 then (s, if (chunkSectors r i).isEmpty then .written s else .failed) else (s, .fault f (f.cause = 0x20))
  | (s, .ok src) =>
    match placeOf s o (32 + r.die) (dstH o) b 512 2 with
    | (s, .wait) => (s, .wait)
    | (s, .fault f) => (s, .fault f (f.cause = 0x20))
    | (s, .ok dst) =>
      let js := chunkSectors r i
      if js.any (fun j => (firstPoison s (subSegs src (32 * j) 32)).isSome) then (s, .failed)
      else if heldWrite s s.fresh dst || heldFill s src then (s, .wait)
      else
          let data := js.map (fun j => (j, readSegs s o.launch (subSegs src (32 * j) 32)))
          (s, .written (data.foldl (fun s e => engineStore s o (subSegs dst (32 * e.1) 32) e.2) s))

/-- The end of a stream whose chunks are all written or failed (R297). -/
def finishStream (s : State) (r : StreamRun) : State :=
  match r.failed with
  | [] => endStream s r.op none 0
  | i :: l => endStream s r.op (some { r.op.faultAt 0x44 (srcH r.op) (wordOff (r.op.param 1) + 512 * l.foldl min i) with aux := l.foldl min i % 65536 }) 0

/-- A page fault parks the stream: NOPARK is 0 and a fault service runs (R298). -/
def parks (s : State) (o : EngineOp) : Bool := !o.x.testBit 1 && serviced s o.part

/-- PAGE_NOT_PRESENT for a stream (R298): it parks in a slot of its die, or its token faults. -/
def parkStream (s : State) (r : StreamRun) (f : FaultRec) : State :=
  let o := r.op
  if !parks s o then endStream s o (some f) 0
  else if 16 ≤ (s.streams.filter (fun x => x.die = r.die && x.parked.isSome)).length then endStream s o (some (o.faultAt 0x45 f.handle f.offset)) 0
  else
    match tensorOf s o.part (o.handle f.handle).tid with
    | none => endStream s o (some (o.faultAt 0x35 f.handle f.offset)) 0
    | some t =>
      match joinReport s o.part (t.vbase + f.offset) t.id 3 with
      | none => endStream s o (some (o.faultAt 0x2F f.handle f.offset)) 0
      | some (seq, s) => setStream s { r with parked := some (seq, f.handle, f.offset) }

/-- One chunk of a stream; true when the stream goes on. -/
def stepStream (s : State) (r : StreamRun) (i : Nat) : State × Bool :=
  match doChunk s r i with
  | (_, .written s) => (setStream s { r with left := r.left.filter (· != i) }, true)
  | (s, .failed) => (setStream s { r with left := r.left.filter (· != i), failed := r.failed ++ [i] }, true)
  | (s, .wait) => (s, false)
  | (s, .fault f page) => (if !page then endStream s r.op (some f) 0 else if parks s r.op && r.left.any (· < i) then s else parkStream s r f, false)

/-- The chunks of a stream in order, until it ends, waits or parks. -/
def runStream (s : State) (id : Nat) (l : List Nat) : State :=
  match s.streams.find? (fun x => x.op.id = id) with
  | none => s
  | some r =>
    match l with
    | [] => finishStream s r
    | i :: rest =>
      match stepStream s r i with
      | (s, true) => runStream s id rest
      | (s, false) => s

/-- STREAM_COMPLETE (R297): with `flag`, the selected core's earliest ready stream starts; with `keep`, stream `idx` handles chunk `num`; otherwise it handles all it has left and finishes. -/
def execStreamComplete (s : State) : Host.Outcome State Fault Refusal :=
  if s.sel.flag then .next (startStream s s.sel.core)
  else
    match nth s.streams s.sel.idx with
    | none => .next s
    | some r =>
      if r.parked.isSome then .next s
      else if s.sel.keep then .next (if r.left.contains s.sel.num then (stepStream s r s.sel.num).1 else s)
      else .next (runStream s r.op.id r.left)

/-- A report resolves (R298): the streams parked on it resume, or their tokens take the failure. -/
def resolveStreams (s : State) (part seq : Nat) (fail : Option Nat) : State :=
  (s.streams.filter (fun r => r.op.part = part && (match r.parked with | some (q, _, _) => q = seq | none => false))).foldl (fun s r =>
    match fail, r.parked with
    | some c, some (_, h, off) => endStream s r.op (some (r.op.faultAt c h off)) 0
    | _, _ => setStream s { r with parked := none }) s

end Sys2Proof.Machine
end

