-- ==== Sys2Proof/Machine/Faults.lean ====
section
/-! DEFINITION. Walks that complete (R364), page-fault reports that resolve (R366), and the host commands' ring: its word, its order, and the end of a command (R415, R416). -/

namespace Sys2Proof.Machine

/-! ### Walks (R363, R364) -/

/-- The die of a TLB (R363): of a cluster, of a stream engine, of a Lakebed core. -/
def tlbDie (tlb : Nat) : Nat := if tlb < 32 then tlb / 8 else if tlb < 64 then tlb - 32 else (tlb - 64) / 16

/-- The first walks of each die run; the others queue (R364). -/
def walkRuns (s : State) (i : Nat) (w : Walk) : Bool := decide (((s.walks.take i).filter (fun x => tlbDie x.tlb = tlbDie w.tlb)).length < 256)

/-- The tensor of a partition whose range covers an address, for a report; 0 when none does. -/
def tensorAt (s : State) (part va : Nat) : Nat :=
  ((s.tensors.find? (fun e => e.1 / 0x100000 = part && decide (e.2.vbase ≤ va) && decide (va < e.2.vbase + e.2.extent))).map (fun e => e.2.id)).getD 0

/-- The address a miss is reported at: its own where it is the first of the walk, else its page. -/
def missVa (w : Walk) (j : WalkJoin) : Nat := if w.va / 65536 = j.unit then w.va else j.unit * 65536

/-- The contexts whose miss a walk answers. -/
def walkWaiters (s : State) (w : Walk) (j : WalkJoin) : List Nat :=
  (s.ctxs.filter (fun e => e.2.running && e.2.block = some (.walk w.tlb (j.unit * 4 + j.need)))).map (·.1)

/-- A miss whose walk failed: an engine, kernel or segment copy meets that failure when it goes on, each its own; for a context a missing page is served where the service runs (R366), and any other failure is met by the bundle (R201). -/
def failMiss (s : State) (w : Walk) (j : WalkJoin) (e : WalkFail) : State :=
  if j.who != 0 then { s with answered := s.answered ++ [⟨w.tlb, w.part, j.unit, j.who, e.cause, e.level⟩] }
  else
    (walkWaiters s w j).foldl (fun s id =>
      let meet (s : State) (cause : Nat) : State := modCtx s id (fun c => { c with pendFail := some (cause, 0, j.unit, e.level) })
      if e.cause = 0x20 && serviced s w.part then
        match joinReport s w.part (missVa w j) (tensorAt s w.part (missVa w j)) (if j.need.testBit 1 then 1 else 0) with
        | some (seq, s) => modCtx s id (fun c => { c with block := some (.report w.part seq) })
        | none => meet s 0x2F
      else meet s e.cause) s

/-- One miss is answered: its leaf enters the TLB once it passed every check, with A set (R363). -/
def answerMiss (s : State) (w : Walk) (j : WalkJoin) : State :=
  match walk s w.part (missVa w j) with
  | .error e => failMiss s w j e
  | .ok l =>
    if !leafAllows l j.need then failMiss s w j .denied
    else
      let (s, l) := setAD s l (j.need.testBit 1)
      tlbAdd s w.tlb w.part l

/-- WALK_COMPLETE (R364): walk `idx` ends, and answers every miss that joined it. (DESIGN CHOICE, log 5; DEDUCED, log 14.) -/
def execWalkComplete (s : State) : Host.Outcome State Fault Refusal :=
  match nth s.walks s.sel.idx with
  | none => .next s
  | some w => .next (if walkRuns s s.sel.idx w then w.joined.foldl (fun s j => answerMiss s w j) { s with walks := dropNth s.walks s.sel.idx } else s)

/-! ### Reports (R366) -/

/-- A report is over: its record, where it is not written yet, keeps the waiters it had (R367). -/
def dropReport (s : State) (part seq : Nat) : State :=
  let s := modPart s part (fun p => { p with rings := match nth p.rings 1 with
    | some r => setNth p.rings 1 { r with waiting := r.waiting.map (fun d => if leNat ((d.drop 12).take 2) = seq then withWaiters s part 1 d else d) }
    | none => p.rings })
  { s with reports := s.reports.filter (fun r => !(r.part = part && r.seq = seq)) }

/-- Requests of other devices that wait here meet a failure (R409, R411). -/
def failPeers (s : State) (hit : Block → Bool) (cause : Nat) : State := { s with peers := s.peers.map (fun p => if hit p.wait then { p with fail := some cause } else p) }

/-- A report fails its waiters (R366): contexts, streams, kernels and segment copies. -/
def failReport (s : State) (r : Report) (cause : Nat) : State :=
  let b : Block := .report r.part r.seq
  let s := dropReport s r.part r.seq
  let s := { s with ctxs := s.ctxs.map (fun e => if e.2.running && e.2.block = some b then (e.1, { e.2 with pendFail := some (cause, 0, r.va / 65536, 0) }) else e) }
  let s := failPeers (failKernels (resolveStreams s r.part r.seq (some cause)) (fun x => x = b) cause 0 none) (fun x => x = b) cause
  (s.cores.flatMap (fun e => (e.2.copying.filter (fun y => y.wait = some b)).map (fun y => (e.1, y)))).foldl (fun s x => failSegment s x.1 x.2 0x0B cause) s

/-- FAULT_TIMEOUT (R366): report `idx` has not been answered within FLTTMO. -/
def execFaultTimeout (s : State) : Host.Outcome State Fault Refusal :=
  match nth s.reports s.sel.idx with
  | none => .next s
  | some r => .next (if serviced s r.part && decide (r.since + microseconds (partOf s r.part).flttmo.toNat ≤ s.cycle) then failReport s r 0x31 else s)

/-! ### Host commands (R415, R416) -/

/-- A command record (R416). -/
def parseCommand (l : List Byte) : Command :=
  { code := recField l 0 1, bad := recField l 1 1 != 0, a16 := recField l 2 2, a32 := recField l 4 4, a64 := recField l 8 8, b64 := recField l 16 8,
    seq := BitVec.ofNat 64 (recField l 24 8), phase := 0 }

/-- A command that no step performs: an unknown CODE, or a reserved field that is not 0 (R416). -/
def Command.unknown (c : Command) : Bool := c.bad || c.code = 0 || decide (14 < c.code)

/-- The commands at the head of the ring that fail as they are reached. -/
def skipUnknown (s : State) (part : Nat) : Nat → State
  | 0 => s
  | n + 1 =>
    match tget [] s.commands part with
    | c :: r => if c.unknown then skipUnknown (postCompletion { s with commands := tset s.commands part r } part c.seq 0xFE (some 0x6B)) part n else s
    | [] => s

/-- The command in progress leaves its ring, and with it the commands after it that fail as they are reached. -/
def dropCommand (s : State) (part : Nat) : State :=
  let rest := (tget [] s.commands part).drop 1
  skipUnknown { s with commands := tset s.commands part rest } part rest.length

/-- The command at the head of a partition's ring has ended (R416). -/
def endCommand (s : State) (part : Nat) (c : Command) (fail : Option Nat) : State :=
  dropCommand (postCompletion s part c.seq 0xFE fail) part

/-- The command at the head has finished a stage. -/
def stageCommand (s : State) (part : Nat) (c : Command) : State := { s with commands := tset s.commands part (c :: (tget [] s.commands part).drop 1) }

/-- Performs the command of partition `part` at the head of its ring, when its CODE is this one. -/
def runCommand (s : State) (code : Nat) (f : State → Nat → Command → State) : Host.Outcome State Fault Refusal :=
  match tget [] s.commands s.sel.part with
  | c :: _ => .next (if c.code = code && !c.unknown then f s s.sel.part c else s)
  | [] => .next s

/-- A command word is taken (R415): the ring holds 256 records. -/
def takeCommands (s : State) (part : Nat) (v : W64) : State :=
  let p := partOf s part
  let tail : W32 := v.truncate 32
  let n := (tail - p.cmdHead).toNat
  let offs := (List.range n).map (fun j => 0x801000 + 32 * ((p.cmdHead.toNat + j) % 256))
  let recs := offs.map (fun o => tensorBytes s part p.submission o 32)
  if 256 < n || bitsOf v.toNat 32 16 != 0 || bitsOf v.toNat 56 8 != 0 || recs.any (·.isNone) then postCompletion s part 0 0xFE (some 0x6B)
  else
    let s := setPart (touchAll s part p.submission offs 32) part { p with cmdHead := tail, cmdTail := tail }
    let all := tget [] s.commands part ++ recs.map (fun r => parseCommand (r.getD []))
    skipUnknown { s with commands := tset s.commands part all } part all.length

/-- COMMAND_WORD_WRITE (R415, R416): an RDMA write of the value `word` to the command word of partition `part` is performed and taken. -/
def execCommandWordWrite (s : State) : Host.Outcome State Fault Refusal :=
  let part := s.sel.part
  if !(partOf s part).live || heldTensor s part (partOf s part).submission 0x800008 8 then .next s
  else .next (takeCommands (tensorStore s part (partOf s part).submission 0x800008 (leBytes s.sel.word.toNat 8)) part s.sel.word)

/-- CLEAR_STREAM (R416). (PRESUMED, log 42.) -/
def execClearStream (s : State) : Host.Outcome State Fault Refusal :=
  runCommand s 1 (fun s part c =>
    if 64 ≤ c.a16 then endCommand s part c (some 0x6C)
    else
      let ids := (s.ops.filter (fun e => e.2.part = part && e.2.stream = c.a16 && e.2.weir.isNone && e.2.phase != .retired)).map (·.1)
      let s := ids.foldl (fun s id => failOp s id 0x66 c.a16) s
      endCommand (setStreamOf s part c.a16 (fun x => { x with head := x.tail, stopped := false })) part c none)

/-- CANCEL (R416): the operators of that SEQ fail; a SEQ that names none changes nothing. -/
def execCancel (s : State) : Host.Outcome State Fault Refusal :=
  runCommand s 2 (fun s part c =>
    let ids := (s.ops.filter (fun e => e.2.part = part && e.2.seq.toNat = c.a64 && e.2.weir.isNone && e.2.phase != .retired)).map (·.1)
    endCommand (ids.foldl (fun s id => failOp s id 0x68 0) s) part c none)

/-- INVALIDATE (R365): the entries go at once; the command ends when every access translated through one has been performed or has returned. -/
def execInvalidate (s : State) : Host.Outcome State Fault Refusal :=
  runCommand s 4 (fun s part c =>
    if c.phase = 0 then stageCommand (tlbDrop s part c.a64 (c.a64 + c.b64)) part { c with phase := s.fresh + 1 }
    else if s.remotes.any (fun r => r.part = part && decide (r.id < c.phase) && remoteMeets s r c.a64 (c.a64 + c.b64)) then s
    else endCommand s part c none)

/-- FAULT_ANSWER (R366, R416). -/
def execFaultAnswer (s : State) : Host.Outcome State Fault Refusal :=
  runCommand s 5 (fun s part c =>
    match s.reports.find? (fun r => r.part = part && r.seq = c.a16) with
    | none => endCommand s part c (some 0x6B)
    | some r =>
      if c.a32 = 0 then endCommand (resolveStreams (dropReport s part r.seq) part r.seq none) part c none
      else if c.a32 = 1 then endCommand (failReport s r 0x30) part c none
      else if c.a32 = 2 then endCommand (failReport s r 0x32) part c none
      else endCommand s part c (some 0x6B))

/-- GROUP_DOMAIN (R412, R416): DMASK goes into the live entry and into its definition record, while no running operator uses the group. -/
def execGroupDomain (s : State) : Host.Outcome State Fault Refusal :=
  runCommand s 8 (fun s part c =>
    let p := partOf s part
    let n := c.a16
    let inRange := decide (p.groupLo ≤ n) && decide (n < p.groupHi)
    match tensorBytes s part p.submission c.a64 24, tensorBytes s part p.groupTensor (64 * n + 40) 24 with
    | some m, some _ =>
      if !inRange || c.a64 % 8 != 0 || groupUsed s part n then endCommand s part c (some 0x6B)
      else if heldTensor s part p.groupTensor (64 * n + 40) 24 then s
      else
        let s := touchTensor s part p.submission c.a64 24
        let s := setGroup s n { groupOf s n with dmask := BitVec.ofNat 192 (leNat m) }
        endCommand (tensorStore s part p.groupTensor (64 * n + 40) m) part c none
    | _, _ => endCommand s part c (some 0x6B))

/-- QP_RESET (R416): a queue pair left in error returns to its initial state. -/
def execQpReset (s : State) : Host.Outcome State Fault Refusal :=
  runCommand s 9 (fun s part c =>
    let s := modPart s part (fun p => match tfind p.qps c.a16 with
      | some q => if q.error then { p with qps := tset p.qps c.a16 { q with error := false, taken := 0, doors := [], posted := [] } } else p
      | none => p)
    endCommand s part c none)

/-! ### Task graphs (R426, R427) -/

/-- A graph tensor's node count, when its header is good (R426). -/
def graphCount (s : State) (part tid : Nat) : Option Nat :=
  match tensorBytes s part tid 0 64 with
  | some l => let n := recField l 0 4; if 1 ≤ n && n ≤ 65535 then some n else none
  | none => none

/-- The node records of a graph, none when one is not reached. -/
def graphNodes (s : State) (part tid n : Nat) : Option (List (List Byte)) :=
  (List.range n).foldr (fun i acc => match acc, tensorBytes s part tid (64 + 128 * i) 128 with | some l, some b => some (b :: l) | _, _ => none) (some [])

/-- GRAPH_LAUNCH (R426, R427): every node is read, and submitted to the stream in node order; what is submitted is the snapshot. (PRESUMED, log 42.) -/
def execGraphLaunch (s : State) : Host.Outcome State Fault Refusal :=
  runCommand s 10 (fun s part c =>
    match (graphCount s part (c.a32 % 2 ^ 20)).bind (graphNodes s part (c.a32 % 2 ^ 20)) with
    | none => endCommand s part c (some 0x6B)
    | some nodes =>
      if 64 ≤ c.a16 then endCommand s part c (some 0x6C)
      else endCommand ((nodes.zip (List.range nodes.length)).foldl (fun s x => submitRecord s part c.a16 (some (c.a64, x.2)) x.1) (touchTensor s part (c.a32 % 2 ^ 20) 0 (64 + 128 * nodes.length))) part c none)

/-- An operator record breaks R163: a field rule, or a group whose definition record breaks one, a member outside the partition among them. -/
def recordBad (s : State) (part : Nat) (o : Operator) : Bool := (operatorBad (partOf s part) o).isSome || (opGroups o).any (fun n => (groupRecord s part n).isNone)

/-- GRAPH_PATCH (R426): node A16 of the graph is replaced; a bad node or record leaves it as it is. -/
def execGraphPatch (s : State) : Host.Outcome State Fault Refusal :=
  runCommand s 11 (fun s part c =>
    let tid := c.a32 % 2 ^ 20
    match graphCount s part tid, tensorBytes s part (partOf s part).submission c.a64 128 with
    | some n, some l =>
      if n ≤ c.a16 || recordBad s part (parseOperator part 0 l) || (tensorBytes s part tid (64 + 128 * c.a16) 128).isNone then endCommand s part c (some 0x69)
      else if heldTensor s part tid (64 + 128 * c.a16) 128 then s
      else endCommand (tensorStore (touchTensor (touchTensor s part tid 0 64) part (partOf s part).submission c.a64 128) part tid (64 + 128 * c.a16) l) part c none
    | _, _ => endCommand s part c (some 0x69))

/-- GRAPH_ABORT (R426): the replay's unretired nodes fail. -/
def execGraphAbort (s : State) : Host.Outcome State Fault Refusal :=
  runCommand s 12 (fun s part c =>
    let hit := s.ops.filterMap (fun e => match e.2.replay with | some (n, i) => if e.2.part = part && n = c.a64 && e.2.phase != .retired then some (e.1, i) else none | none => none)
    endCommand (hit.foldl (fun s x => failOp s x.1 0x6A x.2) s) part c none)

/-! ### The monitors (R437, R438, R440) -/

def dieOf (s : State) (d : Nat) : Die := tget .fresh s.dies d
def setDie (s : State) (d : Nat) (x : Die) : State := { s with dies := tset s.dies d x }
/-- A minute in cycles of the 940 MHz reference clock. -/
def minuteCycles : Nat := microseconds 60000000

/-- The current samples of the last 10 µs and of the last 1 ms (R437), in amperes summed; a sample from before the first is 0. -/
def amps10 (x : Die) : Nat := (x.amps.take 10).sum
def amps1000 (x : Die) : Nat := (x.amps.take 1000).sum

/-- The average over the last 1 ms. -/
def ampsMean (x : Die) : Nat := amps1000 x / 1000

/-- A sample of the current is taken (R437): the samples of the last 1 ms, how many in a row found their average below 650 A, and the minute's peak. -/
def sampleDie (x : Die) : Die :=
  let y := { x with amps := (x.now :: x.amps).take 1000, sampled := x.sampled + microseconds 1 }
  { y with low := if amps1000 y < 650000 then x.low + 1 else 0, peakAmps := max x.peakAmps (ampsMean y) }

/-- Adds to a counter of the health block; counters saturate (R440). -/
def addHealth (s : State) (off n : Nat) : State := { s with unsaved := tset s.unsaved off (BitVec.ofNat 64 (min (2 ^ 64 - 1) ((tget 0 s.unsaved off).toNat + n))) }

/-- `n` minutes of a die whose peaks were these go to their bins (R440): 16 bins of 5 °C from 40 °C on, in tenths of a degree, and 16 of 60 A. -/
def addMinutes (s : State) (d temp amps n : Nat) : State :=
  if n = 0 then s else addHealth (addHealth s (0x1C0 + 64 * d + 4 * min ((temp - 400) / 50) 15) n) (0x2C0 + 64 * d + 4 * min (amps / 60) 15) n

/-- The die stands at `x`; the minutes that are over by its last sample go to their bins, and in those without a sample of their own what stood before it stands (R440). -/
def passMinutes (s : State) (d : Nat) (x : Die) : State :=
  let m := x.sampled / minuteCycles
  if m = x.minute then setDie s d x
  else setDie (addMinutes (addMinutes s d x.peakTemp x.peakAmps 1) d x.temp (ampsMean x) (m - x.minute - 1)) d { x with minute := m, peakTemp := x.temp, peakAmps := ampsMean x }

/-- The monitors of a die up to now: a sample of the standing current for each µs since the last. After 1 ms every average is that current. (DESIGN CHOICE, log 79.) -/
def readMonitors (s : State) (d : Nat) : State :=
  let n := (s.cycle - (dieOf s d).sampled) / microseconds 1
  let s := (List.range (min n 1000)).foldl (fun s _ => passMinutes s d (sampleDie (dieOf s d))) s
  let x := dieOf s d
  if n ≤ 1000 then s else passMinutes s d { x with sampled := x.sampled + microseconds (n - 1000), low := if amps1000 x < 650000 then x.low + (n - 1000) else 0 }

/-- The monitors of every die up to now. -/
def monitored (s : State) : State := (List.range 4).foldl readMonitors s

/-! ### The health block (R440, R441) -/

/-- A counter or bin that saturates at its width. -/
def satAdd (width a b : Nat) : Nat := min (a + b) (2 ^ width - 1)

/-- The whole hours of power that no counter holds yet (R440); the reference clock counts them. -/
def hoursDue (s : State) : Nat := s.cycle / (3600 * 940000000) - s.hours

/-- The block of R440: 64-bit counters to 0x1BF, 32-bit bins from 0x1C0 to 0x3BF. `unsaved` tells whether the counts gathered since the last save, the minutes that are over among them, are added. (DESIGN CHOICE, log 55.) -/
def healthBlock (s : State) (unsaved : Bool) : List Byte :=
  let s := if unsaved then monitored s else s
  let at' (off width : Nat) : Nat := satAdd width (tget 0 s.health off).toNat (if unsaved then (tget 0 s.unsaved off).toNat + (if off = 0 then hoursDue s else 0) else 0)
  (List.range 56).flatMap (fun i => leBytes (at' (8 * i) 64) 8) ++ (List.range 128).flatMap (fun i => leBytes (at' (0x1C0 + 4 * i) 32) 4) ++ List.replicate 64 0

/-- HEALTH (R441). -/
def execHealth (s : State) : Host.Outcome State Fault Refusal :=
  runCommand s 14 (fun s part c =>
    let p := partOf s part
    match tensorBytes s part p.submission c.a64 1024 with
    | some _ => if c.a64 % 64 != 0 then endCommand s part c (some 0x6B) else if heldTensor s part p.submission c.a64 1024 then s else endCommand (tensorStore s part p.submission c.a64 (healthBlock s true)) part c none
    | none => endCommand s part c (some 0x6B))

end Sys2Proof.Machine
end

