-- ==== Sys2Proof/Machine/Sha256.lean ====
section
/-! DEFINITION. SHA-256, which the measurement registers are extended with (R429). R429 names the function and its state of 256 bits; the rest is FIPS 180-4's, whose constants are fractional parts of roots of primes and are worked out here from that. -/

namespace Sys2Proof.Machine

/-- The largest `r` with r ^ e ≤ v that has the bits of `r` above bit `n` and any below. -/
def rootBelow (e v r : Nat) : Nat → Nat
  | 0 => r
  | n + 1 => rootBelow e v (if (r + 2 ^ n) ^ e ≤ v then r + 2 ^ n else r) n

/-- The first 32 bits after the point of the `e`-th root of `p`, a number below 2^9. -/
def rootWord (e p : Nat) : W32 := BitVec.ofNat 32 (rootBelow e (p * 2 ^ (32 * e)) 0 38)

/-- The primes below 312, of which there are 64. -/
def shaPrimes : List Nat := (List.range 312).filter (fun p => 2 ≤ p && (List.range 18).all (fun d => d < 2 || p ≤ d || p % d != 0))

/-- A word turned right by each of two amounts, and a third copy, added without carries. -/
def shaMix (w : W32) (i j : Nat) (last : W32) : W32 := w.rotateRight i ^^^ (w.rotateRight j ^^^ last)

/-- A word from bytes, the most significant first. -/
def shaWord (l : List Byte) : W32 := BitVec.ofNat 32 (leNat l.reverse)
/-- A number in `n` bytes, the most significant first. -/
def beBytes (v n : Nat) : List Byte := (leBytes v n).reverse

/-- The schedule, its newest word first: the last 16 words give the next one, `n` times. -/
def shaExpand (ws : List W32) : Nat → List W32
  | 0 => ws
  | n + 1 =>
    let ago (k : Nat) : W32 := ws.getD (k - 1) 0
    let near := shaMix (ago 2) 17 19 (ago 2 >>> 10)
    let far := shaMix (ago 15) 7 18 (ago 15 >>> 3)
    shaExpand ((near + ago 7 + far + ago 16) :: ws) n

/-- One round on the eight working words, with the sum of its constant and its schedule word: each word moves one place on, two are new. -/
def shaRound (v : List W32) (kw : W32) : List W32 :=
  let at' (i : Nat) : W32 := v.getD i 0
  let picked := at' 6 ^^^ (at' 4 &&& (at' 5 ^^^ at' 6))
  let most := (at' 0 &&& at' 1) ||| (at' 2 &&& (at' 0 ||| at' 1))
  let t := kw + at' 7 + picked + shaMix (at' 4) 6 11 ((at' 4).rotateRight 25)
  (t + most + shaMix (at' 0) 2 13 ((at' 0).rotateRight 22)) :: v.take 3 ++ (at' 3 + t) :: (v.drop 4).take 3

/-- A 64-byte block folded into the chaining words: round constants are the cube roots of the primes. -/
def shaBlock (v : List W32) (block : List Byte) : List W32 :=
  let first := (List.range 16).map (fun i => shaWord ((block.drop (4 * i)).take 4))
  List.zipWith (· + ·) v (((shaPrimes.map (rootWord 3)).zip (shaExpand first.reverse 48).reverse).foldl (fun v p => shaRound v (p.1 + p.2)) v)

/-- The message with its padding. -/
def shaPad (l : List Byte) : List Byte := l ++ [0x80] ++ List.replicate ((55 + 64 - l.length % 64) % 64) 0 ++ beBytes (8 * l.length) 8

/-- The 32 bytes of SHA-256 of a message: the blocks are folded into the square roots of the first eight primes. (PRESUMED, log 58.) -/
def sha256 (l : List Byte) : List Byte :=
  let m := shaPad l
  ((List.range (m.length / 64)).foldl (fun v i => shaBlock v ((m.drop (64 * i)).take 64)) ((shaPrimes.take 8).map (rootWord 2))).flatMap (fun w => beBytes w.toNat 4)

end Sys2Proof.Machine
end

