-- ==== Sys2Proof/Machine/Well.lean ====
section
/-! DEFINITION. The Wellhead's command processors: their physical space and exceptions (R421, R422), the six custom instructions (R423), the write-ahead log and the restart (R424, R425). Processor `Select.num` of die `Select.die` acts. -/

namespace Sys2Proof.Machine

/-! ### A processor and its memory (R421, R423) -/

def wellOf (s : State) (die cp : Nat) : Well := tget .fresh s.wells (die * 4 + cp)
def setWell (s : State) (die cp : Nat) (w : Well) : State := { s with wells := tset s.wells (die * 4 + cp) w }
def wellDie (s : State) (die : Nat) : WellDie := tget .fresh s.wellDies die
def setWellDie (s : State) (die : Nat) (d : WellDie) : State := { s with wellDies := tset s.wellDies die d }

/-- Register x0 reads zero. -/
def readX (w : Well) (r : XReg) : W64 := if r = 0 then 0 else tget 0 w.x r.toNat
def writeX (w : Well) (r : XReg) (v : W64) : Well := if r = 0 then w else { w with x := tset w.x r.toNat v }

/-- The key of a byte of the processors' physical space: their die's HBM4E, and behind it the log and the firmware's region, whose keys lie in no slice. (PRESUMED, log 20; DESIGN CHOICE, log 22; DESIGN CHOICE, log 57.) -/
def wellKey (die addr : Nat) : Nat := if addr < logBase then memKey die 1 addr else memKey (die + 4) 1 (addr - logBase)
/-- The bytes lie in the die's physical memory. (PRESUMED, log 20.) -/
def wellHas (addr n : Nat) : Bool := decide (addr + n ≤ firmwareBase + firmwareSize)
def wellBytes (s : State) (die addr n : Nat) : List Byte := readLocs s 0 (.mem (wellKey die addr)) n
def wellStore (s : State) (die addr : Nat) (data : List Byte) : State := writeLocs s 0 (.mem (wellKey die addr)) data
def well64 (s : State) (die addr : Nat) : W64 := BitVec.ofNat 64 (leNat (wellBytes s die addr 8))

/-- The 32-bit word at an address; none beyond the memory. -/
def wellFetch (s : State) (die addr : Nat) : Option Nat := if wellHas addr 4 then some (leNat (wellBytes s die addr 4)) else none

/-- A synchronous exception taken in machine mode: mepc, mcause and mtval, the interrupt enable and mode kept in mstatus, and the pc at mtvec's base. (PRESUMED, log 21.) -/
def wellException (s : State) (die cp cause tval : Nat) : State :=
  let w := wellOf s die cp
  let mie := w.mstatus.getLsbD 3
  let kept : W64 := w.mstatus &&& ~~~(0x1888 : W64)
  setWell s die cp { w with
    mepc := w.pc, mcause := BitVec.ofNat 64 cause, mtval := BitVec.ofNat 64 tval, mstatus := kept ||| BitVec.ofNat 64 (w.mode * 2048 + (if mie then 128 else 0)),
    mode := 3, pc := w.mtvec &&& ~~~(3 : W64), waitSince := none }

/-- A fault of a custom instruction: mcause 24, the cause and the detail in mtval (R422). -/
def wellFault (s : State) (die cp cause detail : Nat) : State := wellException s die cp 24 (detail * 128 + cause)

/-- How a custom instruction ends. -/
inductive WellRes where
  | done (s : State) (d : XReg) (v : W64)
  | fault (detail : Nat)
  | wait (s : State)
  | noMemory

/-- Runs a custom instruction of the selected processor; `cause` is that of its faults (R422). -/
def runWell (s : State) (cause : Nat) (f : State → Nat → Nat → WellRes) : Host.Outcome State Fault Refusal :=
  let die := s.sel.die
  let cp := s.sel.num
  match f s die cp with
  | .done s d v => .next (setWell s die cp { writeX (wellOf s die cp) d v with pc := (wellOf s die cp).pc + 4, waitSince := none })
  | .fault n => .next (wellFault s die cp cause n)
  | .wait s => .next s
  | .noMemory => .fault .noSuchAddress

/-! ### The instructions (R423) -/

/-- RNGF (R423). -/
def execRngf (d s1 s2 : XReg) (s : State) : Host.Outcome State Fault Refusal :=
  runWell s 0x76 (fun s die cp =>
    let a := (readX (wellOf s die cp) s1).toNat
    if s2 != 0 then .fault 0
    else if a % 32 != 0 then .fault 1
    else if !wellHas a 32 then .noMemory
    else
      let l := wellBytes s die a 32
      let w (o n : Nat) : Nat := leNat ((l.drop o).take n)
      let logn := w 8 1
      let esz := w 9 1
      let head := w 16 8
      let tail := w 24 8
      if 16 < logn || 7 < esz || esz < 3 || w 10 6 != 0 then .fault 2
      else if 2 ^ logn < (tail + 2 ^ 64 - head) % 2 ^ 64 then .fault 3
      else if head = tail then .done s d 0
      else .done (wellStore s die (a + 16) (leBytes (head + 1) 8)) d (BitVec.ofNat 64 (w 0 8 + head % 2 ^ logn * 2 ^ esz)))

/-- BFXT (R423). -/
def execBfxt (d s1 s2 : XReg) (s : State) : Host.Outcome State Fault Refusal :=
  runWell s 0x77 (fun s die cp =>
    let w := wellOf s die cp
    let c := (readX w s2).toNat
    let lo := c % 64
    let n := bitsOf c 6 6 + 1
    if 2 ^ 12 ≤ c then .fault 1 else if 64 < lo + n then .fault 2 else .done s d (BitVec.ofNat 64 (bitsOf (readX w s1).toNat lo n)))

/-- The signal has reached the target. -/
def signalled (v : W64) (target : Nat) : Bool := decide ((v.toNat + 2 ^ 32 - target) % 2 ^ 32 < 2 ^ 31)

/-- The limit of the SGWAIT a processor stalls on passes by cycle `now`: the word has reached the target before, or the limit has passed first (R423). -/
def limitPassed (s : State) (die now : Nat) (w : Well) : Well :=
  match w.waitSince with
  | some x => if x.met.isNone && x.deadline != 0 && decide (x.deadline ≤ now) then { w with waitSince := some { x with met := some (signalled (well64 s die x.addr) x.target) } } else w
  | none => w

/-- Every SGWAIT whose limit passes by cycle `now`, with memory as it stands up to then (R423). -/
def passLimits (s : State) (now : Nat) : State := { s with wells := s.wells.map (fun x => (x.1, limitPassed s (x.1 / 4) now x.2)) }

/-- SGWAIT (R423): the processor stalls until the word reaches the target; it faults if its limit passes first. -/
def execSgwait (d s1 s2 : XReg) (s : State) : Host.Outcome State Fault Refusal :=
  runWell s 0x78 (fun s die cp =>
    let w := wellOf s die cp
    let a := (readX w s1).toNat
    if a % 8 != 0 then .fault 1
    else if !wellHas a 8 then .noMemory
    else
      let limit := (readX w s2).toNat / 2 ^ 32
      let target := (readX w s2).toNat % 2 ^ 32
      let done := WellRes.done (setWell s die cp { w with lastSignal := s.cycle }) d (well64 s die a)
      match w.waitSince.bind SgWait.met with
      | some false => .fault 2
      | some true => done
      | none =>
        if signalled (well64 s die a) target then done
        else .wait (setWell s die cp { w with waitSince := some (w.waitSince.getD ⟨a, target, if limit = 0 then 0 else s.cycle + microseconds limit, none⟩) }))

/-- SGWAIT_LIMIT_EXPIRY (R423): the limit of the SGWAIT a processor stalls on has passed before the word reached the target. -/
def execSgwaitLimitExpiry (s : State) : Host.Outcome State Fault Refusal :=
  .next (if (wellOf s s.sel.die s.sel.num).waitSince.bind SgWait.met = some false then wellFault s s.sel.die s.sel.num 0x78 2 else s)

/-- DISPX (R423): a record of operator `Select.idx` goes to queue q of a die under a dispatch number. -/
def execDispx (d s1 s2 : XReg) (s : State) : Host.Outcome State Fault Refusal :=
  runWell s 0x79 (fun s die cp =>
    let w := wellOf s die cp
    let a := (readX w s1).toNat
    let c := (readX w s2).toNat
    let q := bitsOf c 4 2 * 16 + c % 16
    let n := c / 2 ^ 32
    if a % 32 != 0 || bitsOf c 6 26 != 0 then .fault 1
    else if !wellHas a 32 then .noMemory
    else
      match parseTask (wellBytes s die a 32), opOf s s.sel.idx with
      | (_, some _), _ => .fault 2
      | (t, none), o =>
        if t.joff % 64 != 0 then .fault 2
        else
        match o with
        | none => .fault 3
        | some o =>
        let last := (tget 0 s.dispatched q).toNat
        if !queueOwned (partOf s o.part) q then .fault 3
        else if n ≤ last then .done s d 1
        else if n != last + 1 then .fault 4
        else if !queueRoom s (partOf s o.part) q then .fault 5
        else
          let s := modOp (pushQueue s q { t with op := s.sel.idx }) s.sel.idx (fun o => { o with live := o.live + 1 })
          .done { s with dispatched := tset s.dispatched q (BitVec.ofNat 32 n) } d 0)

/-! ### The write-ahead log (R424, R425) -/

/-- Bytes of the circular log go in at byte `pos`, counted from the first (R424). -/
def logStore (s : State) (die pos : Nat) (data : List Byte) : State :=
  let at' := pos % logSize
  let n := logSize - at'
  let s := wellStore s die (logBase + at') (data.take n)
  if data.length ≤ n then s else wellStore s die logBase (data.drop n)

/-- `n` bytes of the circular log from byte `pos` on. -/
def logBytes (s : State) (die pos n : Nat) : List Byte :=
  let at' := pos % logSize
  let k := min n (logSize - at')
  wellBytes s die (logBase + at') k ++ wellBytes s die logBase (n - k)

/-- The bytes of the log that are not reclaimed: those from the oldest open transaction or the restart point on (R424). -/
def logUsed (d : WellDie) : Nat := d.tail - d.openTxns.foldl (fun m e => min m e.2.2) d.restart

/-- A record joins the log (R424): its header, then its entries. -/
def appendLog (s : State) (die txn kind cp : Nat) (entries : List Byte) : State :=
  let d := wellDie s die
  let record := leBytes d.lsn 8 ++ leBytes txn 4 ++ leBytes entries.length 2 ++ leBytes kind 1 ++ leBytes cp 1 ++ entries
  setWellDie (logStore s die d.tail record) die { d with tail := d.tail + record.length, lsn := d.lsn + 1 }

/-- WALOG (R423, R424). -/
def execWalog (d s1 s2 : XReg) (s : State) : Host.Outcome State Fault Refusal :=
  runWell s 0x7A (fun s die cp =>
    let w := wellOf s die cp
    let a := (readX w s1).toNat
    let c := (readX w s2).toNat
    let len := c % 2 ^ 16
    let txn := c / 2 ^ 32
    let x := wellDie s die
    let open' := tfind x.openTxns txn
    if a % 8 != 0 || len % 24 != 0 || len < 24 || 4080 < len || txn = 0 || bitsOf c 16 16 != 0 then .fault 1
    else if (match open' with | some (p, _) => p != cp | none => false) then .fault 2
    else if logSize < logUsed x + len + 16 then .fault 3
    else if !wellHas a len then .noMemory
    else
      let s := appendLog s die txn 0 cp (wellBytes s die a len)
      let first := match open' with | some (_, n) => n | none => x.tail
      .done (setWellDie s die { wellDie s die with openTxns := tset x.openTxns txn (cp, first) }) d (BitVec.ofNat 64 x.lsn))

/-- WACOMMIT (R423): the processor's stores are performed as they execute. A commit record for which a full log has no room waits, since none but reclaimed space may be written (R424). (DESIGN CHOICE, log 22.) -/
def execWacommit (d s1 s2 : XReg) (s : State) : Host.Outcome State Fault Refusal :=
  runWell s 0x7B (fun s die cp =>
    let w := wellOf s die cp
    let txn := (readX w s1).toNat % 2 ^ 32
    let x := wellDie s die
    if s2 != 0 then .fault 0
    else
      match tfind x.openTxns txn with
      | some (p, _) =>
        if p != cp then .fault 1
        else if logSize < logUsed x + 16 then .wait s
        else
          let s := setWellDie s die { x with openTxns := tdel x.openTxns txn }
          let s := setWell s die cp { w with lastSignal := s.cycle }
          .done (appendLog s die txn 1 cp []) d (BitVec.ofNat 64 x.lsn)
      | none => .fault 1)

/-- The update entries in the bytes of a record (R424). -/
def logEntries (l : List Byte) (n : Nat) : List (Nat × W64 × W64) :=
  let w (i : Nat) : Nat := leNat ((l.drop (8 * i)).take 8)
  (List.range n).map (fun i => (w (3 * i), BitVec.ofNat 64 (w (3 * i + 1)), BitVec.ofNat 64 (w (3 * i + 2))))

/-- The records of the log from byte `pos` up to byte `tail`, as they stand in memory, in the order of their LSNs (R424, R425). -/
def scanLog (s : State) (die tail pos lsn : Nat) : Nat → List LogRec
  | 0 => []
  | n + 1 =>
    let h := logBytes s die pos 16
    let w (o k : Nat) : Nat := leNat ((h.drop o).take k)
    let len := w 12 2
    if tail ≤ pos || w 0 8 != lsn then []
    else ⟨lsn, w 8 4, w 14 1 = 1, w 15 1, logEntries (logBytes s die (pos + 16) len) (len / 24)⟩ :: scanLog s die tail (pos + 16 + len) (lsn + 1) n

/-- The transaction of a record has a commit record (R425). -/
def committedRec (log : List LogRec) (r : LogRec) : Bool := log.any (fun c => c.commit && c.txn = r.txn)

/-- The records of the log from the last restart point on. -/
def loggedRecs (s : State) (die : Nat) : List LogRec := let d := wellDie s die; scanLog s die d.tail d.restart d.restartLsn ((d.tail - d.restart) / 16 + 1)

/-- Each entry of those records names a byte that the processors can reach. -/
def replayReaches (s : State) (die : Nat) : Bool := (loggedRecs s die).all (fun r => r.commit || r.entries.all (fun e => wellHas e.1 8))

/-- The undo and redo passes over the log (R425). -/
def replayLog (s : State) (die : Nat) : State :=
  let recs := loggedRecs s die
  let updates := recs.filter (fun r => !r.commit)
  let put (s : State) (a : Nat) (v : W64) : State := wellStore s die a (leBytes v.toNat 8)
  let s := ((updates.filter (fun r => !committedRec recs r)).reverse).foldl (fun s r => r.entries.reverse.foldl (fun s e => put s e.1 e.2.1) s) s
  (updates.filter (fun r => committedRec recs r)).foldl (fun s r => r.entries.foldl (fun s e => put s e.1 e.2.2) s) s

/-- The restart of a die's four processors (R425): the log is replayed, a new restart point made, and the firmware resumes at its entry. What a processor's last exception left stays in its trap registers. (DESIGN CHOICE, log 22.) -/
def restartWell (s : State) (die : Nat) : State :=
  let s := countHealth (replayLog s die) 0x10
  let d := wellDie s die
  let s := setWellDie s die { d with openTxns := [], restart := d.tail, restartLsn := d.lsn }
  (List.range 4).foldl (fun s cp =>
    let w := wellOf s die cp
    setWell s die cp { Well.fresh with pc := d.firmwareEntry, mtvec := w.mtvec, mepc := w.mepc, mcause := w.mcause, mtval := w.mtval, lastSignal := s.cycle }) s

/-- A restart of the complex of die `die` as a whole (R425): the operators `lostOps`, whose admission or retirement the log does not establish, fail with FIRMWARE_RESTART, and the records `dueRecords` of those sent, due by the log, are written again. (DESIGN CHOICE, log 22.) -/
def restartComplex (s : State) (die : Nat) : State :=
  let s := s.sel.lostOps.foldl (fun s id => failOp s id 0x7D 0) (restartWell s die)
  let again := s.sel.dueRecords.filterMap (fun i => match nth s.sent i with | some (.record p r q n a k i d) => some (Sent.record p r q n a k i d) | _ => none)
  { s with sent := s.sent ++ again }

/-- A restart of a die's complex, where each entry of its log names a byte the processors can reach. (PRESUMED, log 20.) -/
def restartOf (s : State) (die : Nat) : Host.Outcome State Fault Refusal := if replayReaches s die then .next (restartComplex s die) else .fault .noSuchAddress

/-- WELLHEAD_RESTART (R425) on die `die`, after a crash. (PRESUMED, log 21.) -/
def execWellheadRestart (s : State) : Host.Outcome State Fault Refusal := restartOf s s.sel.die

/-- HANG_DETECTOR_EXPIRY (R425): a processor with work pending, as `flag` says, has completed no WACOMMIT and no SGWAIT for 100 ms; it takes WATCHDOG, and the die's processors restart. (PRESUMED, log 21.) -/
def execHangDetectorExpiry (s : State) : Host.Outcome State Fault Refusal :=
  let die := s.sel.die
  let cp := s.sel.num
  if s.sel.flag && decide ((wellOf s die cp).lastSignal + microseconds 100000 ≤ s.cycle) then restartOf (countHealth (wellFault s die cp 0x7F 0) 0x18) die else .next s

end Sys2Proof.Machine
end

