-- ==== Sys2Proof/Machine/Trust.lean ====
section
/-! DEFINITION. Boot and device trust: the module reset (R428), recovery (R428), measurements and attestation (R429). -/

namespace Sys2Proof.Machine

/-- The image of a flash slot boots: its signature verifies, and its security version is not below the fused counter (R428). (DESIGN CHOICE, log 59.) -/
def imageGood (s : State) (l : List Byte) : Bool := Config.imageVerifies l && decide (s.secVersion ≤ Config.imageVersion l)

/-- A measurement register as bytes. -/
def measureBytes (m : BitVec 256) : List Byte := leBytes m.toNat 32

/-- The extension of a measurement register by an image (R429). (DEDUCED, log 56; PRESUMED, log 58.) -/
def extendMeasure (m : BitVec 256) (image : List Byte) : BitVec 256 := BitVec.ofNat 256 (leNat (sha256 (measureBytes m ++ sha256 image)))

/-- The image stands in the firmware region of every die, from its first byte on, and the processors begin there (R421, R428). (DESIGN CHOICE, log 57.) -/
def placeFirmware (s : State) (l : List Byte) : State :=
  (List.range 4).foldl (fun s d => { s with mem := cellsSet s.mem (wellKey d firmwareBase) (l.take firmwareSize) })
    { s with measures := tset s.measures 0 (extendMeasure 0 l), booted := some (Config.imageVersion l) }

/-- What the running image has the hardware do: raise the fused counter to its security version (R428), or extend one of the measurement registers 1 to 7 by an image before that image runs (R429). (DESIGN CHOICE, log 80.) -/
def firmwareAct (s : State) (f : Firmware) : State :=
  match f, s.booted with
  | .fuse, some v => { s with secVersion := max s.secVersion v }
  | .extend r image, some _ => if 1 ≤ r && r ≤ 7 then { s with measures := tset s.measures r (extendMeasure (tget 0 s.measures r) image) } else s
  | _, none => s

/-- The counts gathered so far with the hours of power not counted yet (R440). -/
def withHours (s : State) : Tab W64 :=
  if hoursDue s = 0 then s.unsaved else tset s.unsaved 0 (BitVec.ofNat 64 (satAdd 64 (tget 0 s.unsaved 0).toNat (hoursDue s)))

/-- The state after a module reset, before the boot ROM runs: what flash, the fuses and the fabric manager hold stays, and so do units retired for good, the records already sent, the counts gathered, and the schedule. (DEDUCED, log 56.) -/
def afterReset (s : State) : State :=
  { State.reset with
    resets := s.resets + 1, fresh := s.fresh, turn := s.turn, sched := s.sched, sel := s.sel, retired := s.retired, sent := s.sent, devnum := s.devnum, flash := s.flash,
    secVersion := s.secVersion, serial := s.serial, health := s.health, unsaved := (countHealth { monitored s with unsaved := withHours (monitored s) } 8).unsaved }

/-- The module without power, held in reset: what it had gathered and held is gone (R436, R440). -/
def powerLost (s : State) : State := { afterReset s with unsaved := [], rails := false, stopped := true }

/-- MODULE_RESET (R428, R429, R436): once every rail is within tolerance, the boot ROM tries slot 0 of the flash, then slot 1; with neither, the ports come up in recovery mode. (DEDUCED, log 56.) -/
def execModuleReset (s : State) : Host.Outcome State Fault Refusal :=
  let n := afterReset s
  let slot (i : Nat) : Option (List Byte) := (tfind n.flash i).filter (imageGood n)
  if !s.rails then .next s
  else
    match (slot 0).or (slot 1) with
    | some l => .next (placeFirmware n l)
    | none => .next { n with recovery := true }

/-- RECOVERY_IMAGE_DOWNLOAD (R428): in recovery mode, an image that verifies is written to flash slot `num`. -/
def execRecoveryImageDownload (s : State) : Host.Outcome State Fault Refusal :=
  .next (if s.recovery && decide (s.sel.num < 2) && imageGood s s.sel.data then { s with flash := tset s.flash s.sel.num s.sel.data } else s)

/-- A list at a length. -/
def sized (l : List Byte) (n : Nat) : List Byte := (l ++ List.replicate n 0).take n

/-- The signed part of a report (R429): header, measurements, nonce, identity key. (PRESUMED, log 58.) -/
def reportBody (s : State) (nonce : List Byte) : List Byte :=
  leBytes 1 4 ++ leBytes s.serial 8 ++ leBytes s.secVersion 4 ++ (List.range 8).flatMap (fun i => measureBytes (tget 0 s.measures i)) ++ nonce ++ sized Config.identityKey 64

/-- ATTEST (R426, R429). -/
def execAttest (s : State) : Host.Outcome State Fault Refusal :=
  runCommand s 13 (fun s part c =>
    let p := partOf s part
    match tensorBytes s part p.submission c.a64 32 with
    | some nonce =>
      let body := reportBody s nonce
      let all := body ++ sized (Config.identitySign body) 29792
      match tensorBytes s part p.submission (c.a64 + 32) all.length with
      | some _ => if heldTensor s part p.submission (c.a64 + 32) all.length then s else endCommand (tensorStore (touchTensor s part p.submission c.a64 32) part p.submission (c.a64 + 32) all) part c none
      | none => endCommand s part c (some 0x6B)
    | none => endCommand s part c (some 0x6B))

end Sys2Proof.Machine
end

