-- ==== Sys2Proof/Machine/Collectives.lean ====
section
/-! DEFINITION. Collectives: COLL, the start of an instance and its end (R299 to R302), and instances that span devices (R412). -/

namespace Sys2Proof.Machine

/-! ### Issue (R299) -/

/-- COLL (R299, R300). -/
def execColl (g : GReg) (kd ka kb kc : KReg) (op gs : BitVec 2) (s : State) : Host.Outcome State Fault Refusal :=
  runSlot s (fun s id =>
    let o := engineOut 0x0E (op.toNat * 4 + gs.toNat) g kd ka kb kc false s id
    if o.active then
      match barrierGroup s id gs with
      | .error t => { o with trap := some t }
      | .ok n => { o with effects := o.effects.map (fun e => match e with | .enqueue x => .enqueue { x with groups := [n] } | e => e) }
    else o)

/-! ### Parameters (R299) -/

def collOp (o : EngineOp) : Nat := o.x / 4
def collCount (o : EngineOp) : Nat := bitsOf (o.param 3).toNat 0 32
def collFmt (o : EngineOp) : Nat := bitsOf (o.param 3).toNat 32 5
def collFn (o : EngineOp) : Nat := bitsOf (o.param 3).toNat 37 3
def collRoot (o : EngineOp) : Nat := bitsOf (o.param 3).toNat 40 8
def collRank (o : EngineOp) : Nat := o.groups.getD 3 0
def collRanks (o : EngineOp) : Nat := o.groups.getD 2 1

/-- The bytes of the member's source and of its destination (R301). -/
def collSrcLen (o : EngineOp) : Nat := collShare o * (if collOp o = 2 then collRanks o else 1)
def collDstLen (o : EngineOp) : Nat := collShare o * (if collOp o = 3 then collRanks o else if collOp o = 0 && collRoot o != collRank o then 0 else 1)

/-- The checks of a member: steps 1, 2, 3 and 6 of R289, with R408's refusal of a remote m1 or m2. A member that gets no result uses no destination. (DEDUCED, log 35.) -/
def collCheck (s : State) (o : EngineOp) : Option FaultRec :=
  let dst := decide (collDstLen o != 0)
  let m3 := (o.param 3).toNat
  let far (h : Nat) : Bool := (o.handle h).kind = .tensor && (o.handle h).dev != 0
  let hs := [srcH o] ++ (if dst then [dstH o] else [])
  if bitsOf (o.param 1).toNat 36 28 != 0 then some (plainFault 0x04 1)
  else if bitsOf (o.param 2).toNat 36 28 != 0 then some (plainFault 0x04 2)
  else if bitsOf m3 48 16 != 0 || decide (3 ≤ collFn o) || !(collFmt o = 13 || collFmt o = 16 || collFmt o = 17) || collCount o = 0 then some (plainFault 0x04 3)
  else
    match hs.findSome? (unboundFault o) with
    | some f => some f
    | none =>
      match [srcH o, dstH o].find? far with
      | some h => some (o.faultAt 0x2B h 0)
      | none => (boundFault s o (srcH o) (wordOff (o.param 1)) (collSrcLen o)).or (if dst then boundFault s o (dstH o) (wordOff (o.param 2)) (collDstLen o) else none)

/-- The cause's detail is laid out with the engine's mark and the handle (R275, R362). -/
def handleDetail (cause : Nat) : Bool := recordsAccess cause && cause != 0x54

/-- The failure of an instance by its member of rank `rank` (R275, R302): the rank in [15:8], and the handle in [3:0] under the engine's mark; for a bad field or an offline unit the register or the opcode, for any other cause the handle alone. (DEDUCED, log 35.) -/
def collFault (f : FaultRec) (rank : Nat) : FaultRec :=
  { f with detail := rank * 256 + (if handleDetail f.cause then 0x30 + f.handle else if f.cause = 0x04 || f.cause = 0x46 then f.detail % 16 else f.handle) }

/-- A failure of a member on another device, as the turn reports it: cause in [6:0], rank in [15:8], handle in [19:16]. -/
def farMember (s : State) : Option (Nat × FaultRec) :=
  let w := s.sel.word.toNat
  if w % 128 = 0 then none else some (bitsOf w 8 8, plainFault (w % 128) (bitsOf w 8 8 * 256 + (if handleDetail (w % 128) then 0x30 else 0) + bitsOf w 16 4))

/-- A fault of a member's bytes names their handle. -/
def FaultRec.onHandle (f : FaultRec) (h : Nat) : FaultRec := { f with handle := h }

/-- The lower-ranked of two failures. -/
def lowerFail (a b : Option (Nat × FaultRec)) : Option (Nat × FaultRec) :=
  match a, b with
  | some x, some y => some (if x.1 ≤ y.1 then x else y)
  | some x, none => some x
  | none, b => b

/-! ### The start (R300) -/

/-- Every member has issued its COLL, and each is ready. Those of other devices are the turn's to say. An instance never starts when a member's COLL ended by an inherited fault (R274): the other members stay PEND, as where one never issues. (DESIGN CHOICE, log 75.) -/
def instanceReady (s : State) (i : CollInst) : Bool :=
  let g := groupOf s i.group
  !i.started && i.lost.isNone && i.ops.length = (memberCores g).length && i.ops.all (fun o => o.ready && o.inherited.isNone && !o.held && !unitBusy s o)
    && (g.dmask = 0 || s.sel.flag)
where
  /-- A held operation waits for its split (R194). -/
  unitBusy (s : State) (o : EngineOp) : Bool := (coreOf s o.core).queue.any (fun q => q.id = o.id && q.held)

/-- The members agree on op, FN, FMT, COUNT and ROOT, and ROOT is a rank (R300). `keep` says that a member of another device disagrees. -/
def membersAgree (s : State) (i : CollInst) : Bool :=
  match i.ops with
  | [] => true
  | a :: r =>
    let key (o : EngineOp) : Nat × Nat := (collOp o, (o.param 3).toNat % 2 ^ 48)
    r.all (fun o => key o = key a) && decide (collRoot a < collRanks a) && !(s.sel.keep && (groupOf s i.group).dmask != 0)

def setColl (s : State) (i : CollInst) : State := { s with colls := s.colls.map (fun x => if x.group = i.group && x.number = i.number then i else x) }

/-- The instance is over: its members' tokens take the outcome. (DEDUCED, log 35.) -/
def endColl (s : State) (i : CollInst) (f : Option FaultRec) (aux : Nat) : State :=
  endAll { s with colls := s.colls.filter (fun x => !(x.group = i.group && x.number = i.number)) } i.ops f aux

/-- COLL_INSTANCE_START (R300): instance `idx`. (DEDUCED, log 35.) -/
def execCollInstanceStart (s : State) : Host.Outcome State Fault Refusal :=
  match nth s.colls s.sel.idx with
  | none => .next s
  | some i =>
    if !instanceReady s i then .next s
    else if !membersAgree s i then .next (endColl s i (some (plainFault 0x04 3)) 0)
    else
      let bad (o : EngineOp) : Option FaultRec := if unitOffline s o.core o.opc then some (plainFault 0x46 o.opc) else collCheck s o
      let own := i.ops.foldl (fun b o => lowerFail b ((bad o).map (fun f => (collRank o, collFault f (collRank o))))) none
      match lowerFail own (if (groupOf s i.group).dmask = 0 then none else farMember s) with
      | some (_, f) => .next (endColl s i (some f) 0)
      | none => .next (setColl (unqueueAll s i.ops) { i with started := true })

/-! ### The reduction and its writes (R301, R302) -/

/-- The sources of the members of this device, by rank. -/
def collSources (s : State) (ops : List EngineOp) : State × Except (Option (Nat × FaultRec)) (List (Nat × List Byte)) :=
  ops.foldl (fun acc o =>
    let fail (s : State) (f : FaultRec) (acc : Except (Option (Nat × FaultRec)) (List (Nat × List Byte))) : State × Except (Option (Nat × FaultRec)) (List (Nat × List Byte)) :=
      match acc with
      | .error none => (s, .error none)
      | .error b => (s, .error (lowerFail b (some (collRank o, collFault f (collRank o)))))
      | .ok _ => (s, .error (some (collRank o, collFault f (collRank o))))
    match placeOf acc.1 o (o.core / 8) (srcH o) (wordOff (o.param 1)) (collSrcLen o) 1 with
    | (s, .wait) => (s, .error none)
    | (s, .fault f) => fail s (f.onHandle (srcH o)) acc.2
    | (s, .ok segs) =>
      if heldFill s segs then (s, .error none)
      else
      match enginePoison s o (srcH o) (wordOff (o.param 1)) segs with
      | some f => fail s f acc.2
      | none => (s, match acc.2 with | .ok l => .ok (l ++ [(collRank o, engineRead s o 0 segs)]) | e => e)) (s, .ok [])

/-- Every rank's source in rank order; those of other devices stand one after another in the turn's bytes. -/
def allSources (s : State) (i : CollInst) (own : List (Nat × List Byte)) : List (List Byte) :=
  match i.ops with
  | [] => []
  | a :: _ =>
    ((List.range (collRanks a)).foldl (fun (acc : List (List Byte) × List Byte) r =>
      match own.find? (fun e => e.1 = r) with
      | some e => (acc.1 ++ [e.2], acc.2)
      | none => (acc.1 ++ [(acc.2 ++ List.replicate (collSrcLen a) 0).take (collSrcLen a)], acc.2.drop (collSrcLen a))) ([], s.sel.data)).1

/-- The result of a member, and whether a sum was clamped (R301). -/
def collResult (o : EngineOp) (sources : List (List Byte)) : List Byte × Bool :=
  let n := collCount o
  if collOp o = 3 then (sources.flatMap id, false)
  else if collOp o = 2 then redElems (collFmt o) (collFn o) sources (collRank o * n) n
  else (let r := redElems (collFmt o) (collFn o) sources 0 n; (if collDstLen o = 0 then [] else r.1, r.2))

/-- Some element of some rank's result was clamped. -/
def collClamped (o : EngineOp) (sources : List (List Byte)) : Bool :=
  collOp o != 3 && (redElems (collFmt o) (collFn o) sources 0 (collCount o * (if collOp o = 2 then collRanks o else 1))).2

/-- The sources of this device's members go to the other devices of the instance, at most 128 bytes at a time (R410, R412). -/
def sendSources (s : State) (i : CollInst) (own : List (Nat × List Byte)) : State :=
  if (groupOf s i.group).dmask = 0 then s
  else
    { s with sent := s.sent ++ own.flatMap (fun e => (lineRuns 0 e.2.length (e.2.length / 128 + 2)).map (fun p => .collect i.group i.number e.1 p.1 ((e.2.drop p.1).take p.2))) }

/-- A member's result is written under the writer tags (R242, R301). -/
def collWrite (s : State) (o : EngineOp) (data : List Byte) : State × Moved :=
  if data.isEmpty then (s, .done)
  else
    match placeOf s o (o.core / 8) (dstH o) (wordOff (o.param 2)) data.length 2 with
    | (s, .wait) => (s, .wait)
    | (s, .fault f) => (s, .fault (collFault (f.onHandle (dstH o)) (collRank o)))
    | (s, .ok segs) => if heldWrite s s.fresh segs then (s, .wait) else (engineStore s o segs data, .done)

/-- The next write of an instance, that of its share `n`; when nothing is left, its members' tokens become DONE (R301). -/
def writeShare (s : State) (i : CollInst) (n : Nat) : State × Moved :=
  match i.shares with
  | none => (s, .wait)
  | some l =>
    match nth l n with
    | none => (s, .wait)
    | some (id, data) =>
      match i.ops.find? (fun o => o.id = id) with
      | none => (s, .wait)
      | some o =>
        match collWrite s o data with
        | (s, .done) => (setColl s { i with shares := some (dropNth l n) }, .done)
        | r => r

/-- An instance whose shares are all written ends: AUX says that a sum clamped, which faults the tokens whose issue asked for that check (R302, R360). -/
def endMoved (s : State) (i : CollInst) : State :=
  let aux := if i.clamped then 1 else 0
  if i.ops.any (fun o => (clampFault o i.clamped).isSome) then
    i.ops.foldl (fun s o => endOp s o.id (clampFault o i.clamped) aux) (unqueueAll { s with colls := s.colls.filter (fun x => !(x.group = i.group && x.number = i.number)) } i.ops)
  else endColl s i none aux

/-- Writes the shares that are left, lowest rank first. -/
def writeShares (s : State) (group number : Nat) : Nat → State
  | 0 =>
    match s.colls.find? (fun i => i.group = group && i.number = number) with
    | some i => if i.shares = some [] then endMoved s i else s
    | none => s
  | n + 1 =>
    match s.colls.find? (fun i => i.group = group && i.number = number) with
    | none => s
    | some i =>
      match writeShare s i 0 with
      | (s, .done) => writeShares s group number n
      | (s, .wait) => s
      | (s, .fault f) => endColl s i (some f) 0

/-- COLL_COMPLETE (R301, R302): a started instance `idx` reads its members' sources; then, with `keep`, writes its share `num`, or else all that are left, and finishes. A member of another device may fail meanwhile. -/
def execCollComplete (s : State) : Host.Outcome State Fault Refusal :=
  match nth s.colls s.sel.idx with
  | none => .next s
  | some i =>
    if !i.started then .next s
    else
      match i.shares with
      | none =>
        match collSources s i.ops, (if (groupOf s i.group).dmask = 0 then none else farMember s) with
        | (s, .error none), _ => .next s
        | (s, .error b), far => .next (match lowerFail b far with | some (_, f) => endColl s i (some f) 0 | none => s)
        | (s, .ok _), some (_, f) => .next (endColl s i (some f) 0)
        | (s, .ok own), none =>
          let src := allSources s i own
          let ordered := (List.range ((i.ops.map collRank).foldl max 0 + 1)).filterMap (fun r => i.ops.find? (fun o => collRank o = r))
          .next (setColl (sendSources s i own) { i with shares := some (ordered.map (fun o => (o.id, (collResult o src).1))), clamped := i.ops.any (fun o => collClamped o src) })
      | some l =>
        if s.sel.keep then
          match writeShare s i s.sel.num with
          | (s, .fault f) => .next (endColl s i (some f) 0)
          | (s, _) => .next s
        else .next (writeShares s i.group i.number l.length)

/-- A member device leaves the domain or cannot be reached: the incomplete instances it belongs to fail with COLL_DEVICE_LOST and its lowest rank (R412). -/
def loseDevice (s : State) (part dev : Nat) : State :=
  (s.colls.filter (fun i => i.lost.isNone && (groupOf s i.group).dmask.getLsbD dev && i.ops.any (fun o => o.part = part))).foldl (fun s i =>
    let g := groupOf s i.group
    let rank := ((List.range dev).filter (fun d => g.dmask.getLsbD d)).length * (memberCores g).length
    loseColl s i (plainFault 0x47 (rank * 256))) s

end Sys2Proof.Machine
end

