-- ==== Sys2Proof/Machine/WeirEvents.lean ====
section
/-! DEFINITION. What the Weir and the migration engine do on their own: page migration (R212 to R214), the switch of an action (R380), the reserve drain (R382), recomputes that end (R386 to R388), and tensor records that the host creates, loads and deletes (R373, R404). -/

namespace Sys2Proof.Machine

/-! ### Moving pages -/

/-- The frame a leaf maps. -/
def frameOf (l : Leaf) : Nat := memKey l.home l.tier l.frame / 65536

/-- Every block of a compressed page decodes. -/
def pageDecodes (s : State) (f : Nat) : Bool := (blocksOf f).all (blockDecodes s)

/-- The frame of a page is free again; a compressed page gives up what it holds (R335). -/
def releaseFrame (s : State) (f : Nat) : State := if keySpace (f * 65536) = 3 then freePage3 s f else freeFrame s f

/-- A page's bytes, poison and writer tags go to another frame, in the form of its tier; its lines follow. -/
def movePage (s : State) (src dst : Nat) : State :=
  let from3 := keySpace (src * 65536) = 3
  let to3 := keySpace (dst * 65536) = 3
  if !from3 && !to3 then moveLines (copyFrame s src dst) src dst
  else
    let data := if from3 then page3 s src else cellsGet s.mem (src * 65536) 65536
    let s' := zeroFrame s dst
    let s' := if to3 then (List.range 128).foldl (fun s i => compressBlock s (dst * 65536 + 512 * i) ((data.drop (512 * i)).take 512)) s'
              else { s' with mem := cellsSet s'.mem (dst * 65536) data }
    moveLines { s' with poison := moveMarks s.poison src dst, tags := moveMarks s.tags src dst } src dst

/-- The leaf at a key maps frame `f` of a tier from now on (R213, R380). -/
def switchLeaf (s : State) (l : Leaf) (f tier : Nat) : State := { s with mem := cellsSet s.mem l.key (leBytes (leafWord f tier l.home (mem64 s l.key)) 8) }

/-! ### Migration (R212 to R214) -/

/-- A page that the engine may move: its address and leaf. -/
structure HotPage where
  va : Nat
  leaf : Leaf
  count : Nat
  deriving DecidableEq, Repr

/-- A list without what repeats the element before it. -/
def dropRepeats (l : List Nat) : List Nat :=
  match l with
  | [] => []
  | a :: r => if r.head? = some a then dropRepeats r else a :: dropRepeats r

/-- The entries of a table at key `k` of which memory lists a byte; the others read zero, so they are not present. -/
def listedEntries (m : List Host.Cell) (k n : Nat) : List Nat :=
  dropRepeats ((m.filter (fun c => decide (k ≤ c.1) && decide (c.1 < k + 8 * 2 ^ n))).map (fun c => (c.1 - k) / 8))

/-- An entry that is present: a leaf, or the way to the next table. -/
def Leaf.ends (l : Leaf) : Bool := l.bit 1
/-- The table that an entry leads to. -/
def Leaf.table (l : Leaf) : Nat := stackKey (2 * l.home + bitsOf l.word 6 1) (bitsOf l.word 8 28 * 256)

/-- The entries present in a table and in those below it (R201). -/
def entriesFrom (s : State) (p : Partition) (levels : List (Nat × Nat × Nat)) (k base : Nat) : List Leaf :=
  match levels with
  | [] => []
  | (lv, sh, n) :: rest => (listedEntries s.mem k n).flatMap (fun i =>
      let w := mem64 s (k + 8 * i)
      let l : Leaf := ⟨w, k + 8 * i, base + i * 2 ^ sh, 2 ^ sh⟩
      if !w.testBit 0 then []
      else if l.ends then (if lv != 0 && leafOk p l then [l] else [])
      else if lv = 3 || !tableOk p w (tableSize rest) then []
      else l :: entriesFrom s p rest l.table l.base)

/-- The entries present in a partition's page table. -/
def tableEntries (s : State) (part : Nat) : List Leaf :=
  match (partOf s part).root with
  | none => []
  | some (stack, addr) => if tableIn (partOf s part) stack addr (tableSize walkLevels) then entriesFrom s (partOf s part) walkLevels (stackKey stack addr) 0 else []

/-- The Weir has an action in progress on a tensor of the page at `va` (R212). -/
def pageBusy (s : State) (part va : Nat) : Bool :=
  s.tensors.any (fun e => e.1 / 0x100000 = part && e.2.busy && decide (e.2.vbase < va + 65536) && decide (va < e.2.vbase + e.2.extent))

/-- The migratable pages of a partition on a die, whether a tensor lies in them or not (R212). -/
def migratable (s : State) (part die : Nat) : List HotPage :=
  (tableEntries s part).filterMap (fun l =>
    if l.ends && l.size = 65536 && l.home = die && l.tier ≤ 1 && !l.bit 11 && !l.bit 12 && !pageBusy s part l.base then some ⟨l.base, l, tget 0 s.pageCount (frameOf l)⟩ else none)

/-- A list in the order of a relation; what comes first among equals stays first. -/
def sortBy {α : Type} (before : α → α → Bool) (l : List α) : List α := l.foldr insert []
where
  insert (a : α) (r : List α) : List α :=
    match r with
    | [] => [a]
    | b :: t => if before b a then b :: insert a t else a :: b :: t

/-- Tier-1 pages to promote, and tier-0 pages to demote (R212). (DESIGN CHOICE, log 64.) -/
def promoteList (p : Partition) (l : List HotPage) : List HotPage :=
  sortBy (fun a b => decide (b.count < a.count) || (a.count = b.count && decide (a.leaf.frame < b.leaf.frame)))
    ((l.filter (fun h => h.leaf.tier = 1 && decide (bitsOf p.migctl.toNat 8 8 * 16 ≤ h.count))).eraseDups)
/-- Tier-0 pages to demote, coldest first (R212). (DESIGN CHOICE, log 64.) -/
def demoteList (p : Partition) (l : List HotPage) : List HotPage :=
  sortBy (fun a b => decide (a.count < b.count) || (a.count = b.count && decide (b.leaf.frame < a.leaf.frame)))
    ((l.filter (fun h => h.leaf.tier = 0 && decide (h.count < bitsOf p.migctl.toNat 0 8 * 16))).eraseDups)

/-- Seals a page (R213, phase 1). -/
def sealPage (s : State) (part : Nat) (h : HotPage) (f tier : Nat) : State :=
  let w := mem64 s h.leaf.key ||| 0x800
  let s := tlbDrop { s with mem := cellsSet s.mem h.leaf.key (leBytes w 8) } part h.va (h.va + 65536)
  { s with migrations := s.migrations ++ [⟨part, h.va, h.leaf.key, frameOf h.leaf * 65536, f, tier, h.leaf.home, s.fresh⟩] }

def pageSlice (l : Leaf) : Nat := ownerSlice l.home l.tier l.frame

/-- Takes the promote candidates in turn (R212). (DESIGN CHOICE, log 64.) -/
def takeHot (s : State) (part : Nat) (ups downs : List HotPage) : State :=
  match ups with
  | [] => s
  | h :: r =>
    match takeFrame s (pageSlice h.leaf) 0 with
    | some (f, s) => takeHot (sealPage s part h f 0) part r downs
    | none =>
      match downs with
      | [] => s
      | d :: ds =>
        if h.count ≤ d.count then s
        else
          match takeFrame s (pageSlice d.leaf) 1 with
          | some (f, s) => takeHot (sealPage (sealPage s part d f 1) part h (frameOf d.leaf) 0) part r ds
          | none => s

/-- MIGRATION_EPOCH_END (R212). With `flag`, `num` line fills of frame `idx` by misses in L2 are counted, since which accesses miss is not given; otherwise the epoch of partition `part` on die `die` ends, once its length has passed. (DESIGN CHOICE, log 64.) -/
def execMigrationEpochEnd (s : State) : Host.Outcome State Fault Refusal :=
  if s.sel.flag then .next { s with pageCount := tset s.pageCount s.sel.idx (min 65535 (tget 0 s.pageCount s.sel.idx + s.sel.num)) }
  else
    let part := s.sel.part
    let die := s.sel.die
    let p := partOf s part
    let epoch := bitsOf p.migctl.toNat 16 8
    if !p.live || !p.migctl.getLsbD 31 || epoch = 0 || p.checkpoint || decide (arithAt s die < tget 0 p.epochAt die + epoch * 65536) then .next s
    else
      let l := migratable s part die
      let s := takeHot s part ((promoteList p l).take 64) (demoteList p l)
      let s := { s with pageCount := s.pageCount.filter (fun e => !(keyDie (e.1 * 65536) = die && partOfSlice s (keySlice (e.1 * 65536)) = part)) }
      .next (modPart s part (fun p => { p with epochAt := tset p.epochAt die (arithAt s die) }))

/-- A write translated before the seal is still on its way to the page (R213). -/
def writesAhead (s : State) (m : Migration) : Bool :=
  s.remotes.any (fun r => decide (r.id < m.mark) && (r.kind.isStore || (match r.kind with | .lake _ _ => true | _ => false))
    && r.segs.any (fun g => match g.loc with | .mem k => k / 65536 = m.oldKey / 65536 | _ => false))

/-- MIGRATION_SWITCH (R213, phase 2): page `idx` of those sealed is switched; a frame that another sealed page is to take is not given back. -/
def execMigrationSwitch (s : State) : Host.Outcome State Fault Refusal :=
  match nth s.migrations s.sel.idx with
  | none => .next s
  | some m =>
    let src := m.oldKey / 65536
    if writesAhead s m || s.migrations.any (fun x => x != m && x.oldKey / 65536 = m.newFrame) then .next s
    else
      let s := movePage s src m.newFrame
      let s := { s with mem := cellsSet s.mem m.leaf (leBytes (leafWord m.newFrame m.newTier m.die (mem64 s m.leaf)) 8) }
      let s := tlbDrop (moveRemotes s src m.newFrame) m.part m.page (m.page + 65536)
      let rest := s.migrations.filter (fun x => x != m)
      let s := { s with migrations := rest, pageCount := tdel s.pageCount src }
      .next (if rest.any (fun x => x.newFrame = src) then s else freeFrame s src)

/-! ### The switch of a Weir action (R380) -/

/-- An access to the tensor, translated before the seal, is not performed or has not returned. -/
def accessesAhead (s : State) (part : Nat) (t : Tensor) : Bool := s.remotes.any (fun r => r.part = part && remoteMeets s r t.vbase (t.vbase + t.extent))

/-- A migration is sealed on a page of the tensor (R214). -/
def sealedPage (s : State) (part : Nat) (t : Tensor) : Bool := s.migrations.any (fun m => m.part = part && decide (t.vbase ≤ m.page) && decide (m.page < t.vbase + t.pages * 65536))

/-- Moves every page of a tensor to its new frame and switches its leaf. -/
def movePages (s : State) (l : List (Leaf × Nat)) (tier : Nat) : State :=
  l.foldl (fun s x => releaseFrame (switchLeaf (movePage s (frameOf x.1) x.2) x.1 x.2 tier) (frameOf x.1)) s

/-- The pages lose their frames and their leaves are not valid any more (R380, drop). -/
def dropPages (s : State) (l : List Leaf) : State :=
  l.foldl (fun s x => releaseFrame (dropLines { s with mem := cellsSet s.mem x.key (List.replicate 8 0) } (frameOf x * 65536)) (frameOf x)) s

/-- The action is over: the tensor is no longer busy. -/
def endAct (s : State) (a : WeirAct) (t : Tensor) (state : Nat) : State :=
  let s := { s with acts := s.acts.filter (fun x => x != a) }
  pumpRecomputes (tlbDrop (setTensor s a.part { t with busy := false, state := state }) a.part t.vbase (t.vbase + t.pages * 65536))

/-- A victim chosen before the one of an action has not undergone its act (R378). -/
def victimAhead (s : State) (idx : Nat) (a : WeirAct) : Bool := decide (a.act ≤ 3) && (s.acts.take idx).any (fun x => x.part = a.part && decide (x.act ≤ 3))

/-- WEIR_ACTION_SWITCH (R380, R214, R378): action `idx` of those under way is carried out, the victims of one choice in their order, once no migration is sealed on the tensor and no access translated before is outstanding. A page that the codec cannot read stays where it is. -/
def execWeirActionSwitch (s : State) : Host.Outcome State Fault Refusal :=
  match nth s.acts s.sel.idx with
  | none => .next s
  | some a =>
    match tensorOf s a.part a.tid with
    | none => .next { s with acts := s.acts.filter (fun x => x != a) }
    | some t =>
      let leaves := leavesOf s a.part t
      if sealedPage s a.part t || accessesAhead s a.part t || victimAhead s s.sel.idx a then .next s
      else if a.act = 3 then .next (endAct (dropPages s leaves) a t 5)
      else if leaves.any (fun l => l.tier = 3 && !pageDecodes s (frameOf l)) then .next (endAct (a.frames.foldl freeFrame s) a t t.state)
      else
        let tier := if a.dest = 4 then 2 else if a.dest = 3 then 3 else if a.dest = 1 then 0 else 1
        .next (endAct (movePages s (leaves.zip a.frames) tier) a t a.dest)

/-- RESERVE_DRAIN (R382): the Weir of die `die` converts the tensor whose page holds the oldest occupied reserve entry. -/
def execReserveDrain (s : State) : Host.Outcome State Fault Refusal :=
  match s.reserve.find? (fun r => r.slice / 8 = s.sel.die) with
  | none => .next s
  | some r =>
    let part := partOfSlice s r.slice
    match s.tensors.find? (fun e => e.1 / 0x100000 = part && (leavesOf s part e.2).any (fun l => frameOf l = r.line / 512)) with
    | none => .next s
    | some (_, t) =>
      if t.busy || !managed s part t || (partOf s part).checkpoint then .next s
      else
        let go (tier dest : Nat) : State := match takeFrames s (slicesOn s part t.home) tier t.pages with | some (fs, s) => startAct s part t 5 dest fs | none => s
        .next (if t.pages ≤ freeOn s part t.home 1 then go 1 2 else if t.pages ≤ freeOn s part t.home 2 then go 2 4 else s)

/-! ### Recomputes that end (R386 to R388) -/

/-- Everything that waits for a recompute of the tensor: contexts, kernels, and the operations and admissions it lists. -/
def recomputeWaiters (s : State) (r : Recompute) : List Nat :=
  let b : Block := .suspended r.part r.tid
  (s.ctxs.filter (fun e => e.2.running && e.2.block = some b)).map (fun e => e.2.uid)
  ++ s.lakes.flatMap (fun l => (l.2.buf.filter (fun k => match k.parked with | some (x, _, _, _) => x = b | none => false)).map (·.id)) ++ r.waiters
  ++ (if s.peers.any (fun p => p.wait = b) then [peersWaiter] else [])

/-- The inputs a recompute has pinned are released. -/
def unpinInputs (s : State) (r : Recompute) : State :=
  match (tensorOf s r.part r.tid).bind (recipeOf s r.part) with
  | some rc => (rc.ins.take r.pins).foldl (fun s i => pinTensor s r.part i false) s
  | none => s

def dropRecompute (s : State) (r : Recompute) : State := { s with recomputes := s.recomputes.filter (fun x => !(x.part = r.part && x.tid = r.tid)) }

/-- A pre-empted context that waited for a recompute is no waiter any more: its reference is made afresh (R389). -/
def clearSaved (s : State) (b : Block) : State := { s with saved := s.saved.map (fun x => if x.ctx.block = some b then { x with ctx := { x.ctx with block := none } } else x) }

/-- RECOMPUTE_COMPLETE (R386): recompute `idx`, whose operator has ended well; its inputs are unpinned, its tensor is pinned for its waiters, and their resumption carries an acquire at DEV. A recompute that is still being prepared is taken as far as it goes (R385). -/
def execRecomputeComplete (s : State) : Host.Outcome State Fault Refusal :=
  match nth s.recomputes s.sel.idx with
  | none => .next s
  | some r =>
    if r.op.isNone then .next (pumpRecomputes s)
    else
    match r.op.bind (fun id => (opOf s id).map (fun o => (id, o))), tensorOf s r.part r.tid with
    | some (id, o), some t =>
      if o.phase != .ending || o.fail.isSome || storesOut s o || sendsOut s id o then .next s
      else
        let ws := recomputeWaiters s r
        let ids := (s.ctxs.filter (fun e => e.2.running && e.2.block = some (.suspended r.part r.tid))).map (·.1)
        let s := retireOp s id o
        let s := setTensor s r.part { t with state := r.place, depth := 0 }
        let s := unpinInputs s r
        let s := { dropRecompute s r with retry := s.retry.filter (fun x => !(x.1 = r.part && x.2.1 = r.tid)) ++ ws.map (fun w => (r.part, r.tid, w)) }
        .next (clearSaved (ids.foldl (fun s i => acquireAt s (i / 4) 4) s) (.suspended r.part r.tid))
    | _, _ => .next s

/-- An engine operation that waits, wherever it is, ends with a fault. -/
def failEngine (s : State) (id : Nat) (h : EngineOp → Nat) (f : EngineOp → FaultRec) : State :=
  match s.colls.find? (fun i => i.ops.any (fun o => o.id = id)) with
  | some i => (match i.ops.find? (fun o => o.id = id) with | some o => loseColl s i (collFault ((f o).onHandle (h o)) (collRank o)) | none => s)
  | none =>
    match (liveOps s).find? (fun o => o.id = id) with
    | some o =>
      let s := { s with
        cores := s.cores.map (fun e => (e.1, { e.2 with queue := e.2.queue.filter (fun q => q.id != id), copies := e.2.copies.filter (fun q => q.op.id != id) })),
        streams := s.streams.filter (fun q => q.op.id != id) }
      endOp s id (some (f o)) 0
    | none => s

/-- The first handle of an operation that names a tensor of this device. -/
def handleOf (o : EngineOp) (tid : Nat) : Nat := ((List.range 16).find? (fun h => (o.handle h).kind = .tensor && (o.handle h).dev = 0 && (o.handle h).tid = tid)).getD 0

/-- A fault of a failed recompute for an operation (R388): a failed recipe task names the handle and the inner cause. -/
def recomputeFault (o : EngineOp) (cause tid failed inner : Nat) : FaultRec :=
  if cause = 0x54 then { o.faultAt cause (handleOf o tid) (inner % 128) with detail := failed % 2 ^ 20 } else plainFault cause (failed % 2 ^ 20)

/-- Delivers the failure of a recompute to its waiters (R388, R389): a pre-empted context keeps it for its resumption. (DEDUCED, log 62.) -/
def deliverFailure (s : State) (r : Recompute) (cause failed inner : Nat) : State :=
  let b : Block := .suspended r.part r.tid
  let hit (c : Ctx) : Ctx := if c.block = some b then { c with pendFail := some (cause, failed + 1, r.tid, inner) } else c
  let s := { s with ctxs := s.ctxs.map (fun e => if e.2.running then (e.1, hit e.2) else e), saved := s.saved.map (fun x => if x.ctx.block = some b then { x with ctx := { hit x.ctx with block := none } } else x) }
  let s := failPeers (failKernels s (fun x => x = b) cause inner (some failed)) (fun x => x = b) cause
  r.waiters.foldl (fun s w =>
    match opOf s w with
    | some o => if o.phase = .waiting then failOp s w cause (failed % 2 ^ 20) else s
    | none => failEngine s w (fun o => handleOf o r.tid) (fun o => recomputeFault o cause r.tid failed inner)) s

/-- The tensors of the chain that fails with one: it, and those whose recomputes wait for one of them (R388). -/
def failingChain (s : State) (part : Nat) (l : List Nat) : Nat → List Nat
  | 0 => l
  | n + 1 =>
    match (s.recomputes.filter (fun x => !l.contains x.tid && l.any (fun t => waitsFor s x part t))).map (·.tid) with
    | [] => l
    | more => failingChain s part (l ++ more) n

/-- A tensor whose recompute fails, and those that it waited for and that failed first (R388). -/
def failedBelow (s : State) (part tid : Nat) : Nat → List Nat
  | 0 => [tid]
  | n + 1 =>
    match s.recomputes.find? (fun x => x.part = part && x.failed.isSome && s.recomputes.any (fun y => y.tid = tid && waitsFor s y part x.tid)) with
    | some x => tid :: failedBelow s part x.tid n
    | none => [tid]

/-- The chain of a failed recompute fails with it, and DEPTH is 0 again in its records, those of inner recomputes that failed before it among them (R385, R388, R434). -/
def failParents (s : State) (r : Recompute) (cause failed inner : Nat) : State :=
  let l := failingChain s r.part (failedBelow s r.part r.tid s.recomputes.length) s.recomputes.length
  let s := { s with recomputes := s.recomputes.map (fun x => if x.part = r.part && x.tid != r.tid && l.contains x.tid then { x with failed := x.failed.or (some (cause, failed, inner)) } else x) }
  l.foldl (fun s t => match tensorOf s r.part t with | some x => setTensor s r.part { x with depth := 0 } | none => s) s

/-- RECOMPUTE_FAIL (R388, R434): recompute `idx` has failed, by itself or by its operator, whose end follows R184: DEPTH is cleared along the chain, the pins are released, the frames given back once no page of them migrates (R213), and the failure delivered. -/
def execRecomputeFail (s : State) : Host.Outcome State Fault Refusal :=
  match nth s.recomputes s.sel.idx with
  | none => .next s
  | some r =>
    let oper := r.op.bind (fun id => (opOf s id).map (fun o => (id, o)))
    let why : Option (Nat × Nat × Nat) := match oper with
      | some (id, o) => if o.phase = .ending && !storesOut s o && !sendsOut s id o then o.fail.map (fun f => (0x54, r.tid, f.1)) else none
      | none => r.failed
    match why with
    | none => .next s
    | some (cause, failed, inner) =>
      if (r.place != 0 || oper.isSome) && (match tensorOf s r.part r.tid with | some t => sealedPage s r.part t | none => false) then .next s
      else
      let s := match oper with | some (id, o) => retireOp s id o | none => s
      let s := failParents s r cause failed inner
      let s := unpinInputs s r
      let s := if r.place != 0 || oper.isSome then (match tensorOf s r.part r.tid with
        | some t => tlbDrop (dropPages s (leavesOf s r.part t)) r.part t.vbase (t.vbase + t.pages * 65536)
        | none => s) else s
      .next (deliverFailure (dropRecompute s r) r cause failed inner)

/-! ### Tensor records (R196, R373, R404) -/

/-- Frames for a new image or record, or why there are none. -/
def placeTensor (s : State) (part : Nat) (t : Tensor) : State × Except RefRes Nat :=
  if (slicesOn s part t.home).isEmpty then (s, .error (.fail 0x57 t.id)) else if !managed s part t then (s, .error (.fail 0x56 t.id)) else allocate s part t

/-- TENSOR_CREATE (R196, R373, R404): the host declares record `ten` in partition `part`; with `flag`, frames are found at once. A full record region is reported with SEQ `word` (R362). (PRESUMED, log 42.) -/
def execTensorCreate (s : State) : Host.Outcome State Fault Refusal :=
  let part := s.sel.part
  let p := partOf s part
  let t : Tensor := { s.sel.ten with id := s.sel.ten.id % 0x100000, state := 0, nextuse := 0xFFFFFFFF, pin := 0, depth := 0, busy := false, incomp := false }
  if !p.live || (tensorOf s part t.id).isSome then .next s
  else if p.recordCap ≤ (s.tensors.filter (fun e => e.1 / 0x100000 = part)).length then .next (postCompletion s part s.sel.word 0xFE (some 0x5B))
  else
    let s' := setTensor s part t
    if !s.sel.flag then .next s'
    else
      match placeTensor s' part t with
      | (s', .ok place) => .next (setTensor s' part { t with state := place })
      | (s', .error (.wait _)) => .next s'
      | (s', .error (.fail c _)) => .next (postCompletion s' part s.sel.word 0xFE (some c))
      | (s', .error .ok) => .next s'

/-- TENSOR_IMAGE_LOAD (R373): the host loads `data` into the declared tensor `num` of partition `part`; without frames the load is refused, reported with SEQ `word`. -/
def execTensorImageLoad (s : State) : Host.Outcome State Fault Refusal :=
  let part := s.sel.part
  match tensorOf s part s.sel.num with
  | none => .next s
  | some t =>
    if t.state != 0 || t.busy then .next s
    else
      match placeTensor s part t with
      | (s', .ok place) => .next (tensorStore (setTensor s' part { t with state := place }) part t.id 0 (s.sel.data.take t.extent))
      | (s', .error (.wait _)) => .next s'
      | (s', .error (.fail c _)) => .next (postCompletion s' part s.sel.word 0xFE (some c))
      | (s', .error .ok) => .next s'

/-- TENSOR_DELETE (R373, R404): the host deletes tensor `num` of partition `part`, once no action, recompute, migration or access concerns it; a managed tensor's frames are free again. -/
def execTensorDelete (s : State) : Host.Outcome State Fault Refusal :=
  let part := s.sel.part
  match tensorOf s part s.sel.num with
  | none => .next s
  | some t =>
    if t.busy || sealedPage s part t || accessesAhead s part t || s.recomputes.any (fun r => r.part = part && r.tid = t.id) then .next s
    else
      let s := if managed s part t then dropPages s (leavesOf s part t) else s
      .next (tlbDrop { dropCopies s (tensorKey part t.id) with tensors := tdel s.tensors (tensorKey part t.id) } part t.vbase (t.vbase + t.pages * 65536))

end Sys2Proof.Machine
end

