-- ==== Sys2Proof/Machine/Devices.lean ====
section
/-! DEFINITION. The ports and the package: RDMA from and to the device (R417, R418), requests of other devices (R408 to R411), links (R410), units taken offline (R362), power and temperature (R436 to R438), and the health block in flash (R440). -/

namespace Sys2Proof.Machine

/-! ### RDMA from the device (R417) -/

def setQp (s : State) (part n : Nat) (q : QPair) : State := modPart s part (fun p => { p with qps := tset p.qps n q })

/-- The operator of a partition with a launch number, not yet retired. -/
def opOfLaunch (s : State) (part launch : Nat) : Option Nat :=
  (s.ops.find? (fun e => e.2.part = part && e.2.launch = launch && opActive e.2)).map (·.1)

/-- A request of a queue pair fails: its operator fails with the cause, the pair enters its error state, and so fail the operators of the requests behind it (R417). (DEDUCED, log 52.) -/
def failQp (s : State) (part n : Nat) (q : QPair) (op : Option Nat) (cause : Nat) : State :=
  let s := match op with | some id => failOp s id cause n | none => s
  let s := q.posted.foldl (fun s x => failOp s x.1 0x3D n) s
  setQp s part n { q with error := true, doors := [], posted := [] }

/-- A work request (R417). -/
structure WorkReq where
  op : Nat
  clean : Bool
  tid : Nat
  off : Nat
  len : Nat
  rkey : Nat
  raddr : Nat
  imm : Nat
  deriving DecidableEq, Repr

def parseWork (l : List Byte) : WorkReq :=
  { op := recField l 0 1, clean := recField l 1 3 = 0 && bitsOf (recField l 4 4) 20 12 = 0 && recField l 36 28 = 0 && recField l 0 1 ≤ 3, tid := recField l 4 4 % 2 ^ 20, off := recField l 8 8,
    len := recField l 16 4, rkey := recField l 20 4, raddr := recField l 24 8, imm := recField l 32 4 }

/-- A byte of a run of a tensor's is poisoned. -/
def tensorPoisoned (s : State) (part : Nat) (t : Tensor) (off len : Nat) : Bool :=
  len != 0 && (List.range ((len + off % 32 + 31) / 32)).any (fun i =>
    let va := t.vbase + off / 32 * 32 + 32 * i
    match walk s part va with | .ok l => poisoned s (leafLoc l va) | .error _ => false)

/-- A line of a tensor's bytes is not filled before a Lakebed operation's write to it (R245). -/
def heldRead (s : State) (part tid off len : Nat) : Bool := match tensorPlaces s part tid off len 1 with | .ok segs => heldFill s segs | .error _ => false

/-- The port takes a request and reads the data it names; those of a read come back with its completion. (DEDUCED, log 52.) -/
def takeRequest (s : State) (part n : Nat) (q : QPair) (id uid : Nat) (w : WorkReq) : State :=
  let fail (s : State) (cause : Nat) : State := failQp s part n q (some id) cause
  if !w.clean then fail s 0x3D
  else if 2 ^ 31 < w.len then fail s 0x3F
  else
    match refTensor s part w.tid 0 none with
    | (s, .wait _) => s
    | (s, .fail _ _) => fail s 0x3D
    | (s, .ok) =>
      match tensorOf s part w.tid with
      | none => fail s 0x3D
      | some t =>
        if t.extent < w.off + w.len then fail s 0x3F
        else if w.op != 3 && tensorPoisoned s part t w.off w.len then fail s 0x3E
        else if w.op != 3 && heldRead s part w.tid w.off w.len then s
        else
          match (if w.op = 3 then some (leBytes w.tid 4 ++ leBytes w.off 8 ++ leBytes w.len 4) else tensorBytes s part w.tid w.off w.len) with
          | none => fail s 0x3D
          | some data =>
            let s := if w.op = 3 then s else touchTensor s part w.tid w.off w.len
            let s := setQp s part n { q.passed with posted := q.posted ++ [(id, w.op, uid, data)] }
            { s with sent := s.sent ++ [.rdma n w.op w.raddr w.rkey w.imm w.len (if w.op = 3 then [] else data)] }

/-- RDMA_REQUEST (R417): the port of queue pair `num` of partition `part` takes the next request that a doorbell write announced, unless it is poisoned. (DEDUCED, log 52.) -/
def execRdmaRequest (s : State) : Host.Outcome State Fault Refusal :=
  let part := s.sel.part
  let n := s.sel.num
  match tfind (partOf s part).qps n with
  | none => .next s
  | some q =>
    match q.doors.find? (fun d => doorOpen q d.1) with
    | none => .next s
    | some d =>
      if q.error then .next s
      else
        let off := q.sqOff + 64 * (q.taken % max 1 q.sqCount)
        let bad := match tensorOf s part q.tid with | some t => tensorPoisoned s part t off 64 | none => false
        match opOfLaunch s part d.2.1, tensorBytes s part q.tid off 64 with
        | some id, some l => .next (if bad then failQp s part n q (some id) 0x3E else if heldRead s part q.tid off 64 then s else takeRequest (touchTensor s part q.tid off 64) part n q id d.2.2 (parseWork l))
        | op, _ => .next (failQp s part n q op 0x3D)

/-- Where bytes of a tensor that are written stand; none where one is not reached, or may not be written (R201). -/
def tensorSegs (s : State) (part tid off len : Nat) : Option (List Seg) := (tensorPlaces s part tid off len 2).toOption

/-- The completed count, the 8 bytes after the doorbell, rises by one. -/
def countCompleted (s : State) (part : Nat) (q : QPair) : State :=
  match tensorBytes s part q.tid (q.dbOff + 4) 8 with
  | some l => tensorStore s part q.tid (q.dbOff + 4) (leBytes (leNat l + 1) 8)
  | none => s

/-- RDMA_REQUEST_COMPLETE (R417): the oldest request of queue pair `num` is acknowledged or handed over; the bytes of a read, which the turn supplies, are performed at their homes first, and a read whose tensor is no longer reached fails. With `flag` the peer reports an access error, with `keep` a message too long. -/
def execRdmaRequestComplete (s : State) : Host.Outcome State Fault Refusal :=
  let part := s.sel.part
  let n := s.sel.num
  match tfind (partOf s part).qps n with
  | none => .next s
  | some q =>
    match q.posted with
    | [] => .next s
    | (id, kind, _, data) :: rest =>
      let q := { q with posted := rest }
      if s.sel.flag then .next (failQp s part n q (some id) 0x3C)
      else if s.sel.keep then .next (failQp s part n q (some id) 0x3F)
      else if heldTensor s part q.tid (q.dbOff + 4) 8 then .next s
      else if kind = 3 then
        let tid := leNat (data.take 4)
        let len := leNat (data.drop 12)
        let off := leNat ((data.drop 4).take 8)
        match refTensor s part tid 0 none with
        | (s, .wait _) => .next s
        | (s, .fail _ _) => .next (failQp s part n q (some id) 0x3D)
        | (s, .ok) =>
          match tensorSegs s part tid off len with
          | none => .next (failQp s part n q (some id) 0x3D)
          | some segs =>
            .next (if heldWrite s s.fresh segs then s
                   else countCompleted (setQp (tensorStore s part tid off ((s.sel.data ++ List.replicate len 0).take len)) part n q) part q)
      else .next (countCompleted (setQp s part n q) part q)

/-- RDMA_RETRY_EXCEEDED (R417): the oldest request of the reliable queue pair `num` is never acknowledged. -/
def execRdmaRetryExceeded (s : State) : Host.Outcome State Fault Refusal :=
  let part := s.sel.part
  let n := s.sel.num
  match tfind (partOf s part).qps n with
  | none => .next s
  | some q =>
    match q.posted with
    | [] => .next s
    | (id, _) :: rest => .next (if q.reliable then failQp s part n { q with posted := rest } (some id) 0x3B else s)

/-! ### RDMA to the device (R413, R415, R418) -/

/-- The bytes [off, off + n) of a write cover a word of the submission tensor in part. -/
def touchesWord (off n word : Nat) : Bool := meets off (off + n) word (word + 8)

/-- INBOUND_RDMA_WRITE (R418): a write of `data` on queue pair `idx` of partition `part`, at offset `num` of the tensor registered under key `word`, is performed at all its homes; the submission and command words are taken as they are written. It waits where a write is held (R213, R245, R336). (DEDUCED, log 52.) -/
def execInboundRdmaWrite (s : State) : Host.Outcome State Fault Refusal :=
  let x := s.sel
  let part := x.part
  let p := partOf s part
  match tfind p.qps x.idx, tfind p.keys (x.word.toNat % 2 ^ 32) with
  | some q, some tid =>
    if q.error then .next s
    else
      match refTensor s part tid 0 none with
      | (s, .wait _) => .next s
      | (s, .fail _ _) => .next s
      | (s, .ok) =>
        let n := x.data.length
        match tensorSegs s part tid x.num n with
        | none => .next s
        | some segs =>
          if heldWrite s s.fresh segs then .next s
          else
            let s := tensorStore s part tid x.num x.data
            let word (s : State) (off : Nat) (take : State → W64 → State) : State :=
              if tid = p.submission && touchesWord x.num n off then (match tensorBytes s part tid off 8 with | some l => take s (BitVec.ofNat 64 (leNat l)) | none => s) else s
            .next (word (word s 0x800000 (fun s v => takeSubmission s part v)) 0x800008 (fun s v => takeCommands s part v))
  | _, _ => .next s

/-- An RDMA read of the host (R413): `len` bytes at an offset of the tensor registered under a key go back on the queue pair; poisoned bytes, and bytes that are not reached, do not. It waits while a reference to the tensor would, and where a fill is held (R245). (DEDUCED, log 52.) -/
def hostRead (s : State) (part qp key off len : Nat) : State :=
  let p := partOf s part
  match tfind p.qps qp, tfind p.keys (key % 2 ^ 32) with
  | some q, some tid =>
    if q.error then s
    else
      match refTensor s part tid 0 none with
      | (s, .ok) =>
        match tensorOf s part tid, tensorBytes s part tid off len with
        | some t, some data =>
          if tensorPoisoned s part t off len || heldRead s part tid off len then s
          else { touchTensor s part tid off len with sent := s.sent ++ [.hostData part qp tid off data] }
        | _, _ => s
      | (s, _) => s
  | _, _ => s

/-! ### Requests of other devices (R408 to R411) -/

/-- What a request needs of a page: 1 read, 2 write, 3 both. -/
def peerNeed (kind : Nat) : Nat := if kind = 0 then 2 else if kind = 1 then 3 else 1

/-- Where the bytes of a request stand here, or the cause it fails with, or the page-fault report it waits for (R366, R411). -/
def peerSegs (s : State) (q : PeerReq) (t : Tensor) : State × Except (Except Nat Block) (List Seg) :=
  (pieces (t.vbase + q.off) q.len).foldl (fun acc p =>
    match acc with
    | (s, .error e) => (s, .error e)
    | (s, .ok segs) =>
      match walk s q.part p.1 with
      | .error e =>
        if e.cause = 0x20 && serviced s q.part then
          match joinReport s q.part p.1 q.tid (if q.kind = 4 then 0 else 1) with
          | some (seq, s) => (s, .error (.ok (.report q.part seq)))
          | none => (s, .error (.error 0x2F))
        else (s, .error (.error e.cause))
      | .ok l =>
        if !leafAllows l (peerNeed q.kind) then (s, .error (.error 0x21))
        else
          match pieceFault s l p.1 p.2 with
          | some (c, _) => (s, .error (.error c))
          | none => ((setAD s l (q.kind != 4)).1, .ok (segs ++ [⟨leafLoc l p.1, p.2⟩]))) (s, .ok [])

/-- The request is performed at its bytes (R408): a read, a store that ignores writer tags and leaves them, or an atomic. -/
def performPeer (s : State) (q : PeerReq) (segs : List Seg) : State :=
  if q.kind != 0 && (firstPoison s segs).isSome then answerPeer s q 0x3A []
  else if q.kind = 4 then answerPeer s q 0 (readSegs s 0 segs)
  else if q.kind = 0 then answerPeer (writeSegs (clearIncomp s segs) 0 segs q.data) q 0 []
  else
    let fn := leNat (q.data.take 1)
    let v (o : Nat) : W64 := BitVec.ofNat 64 (leNat ((q.data.drop o).take 8))
    let old := readSegs s 0 segs
    answerPeer (match atomicNew fn (BitVec.ofNat 64 (leNat old)) (v 1) (v 9) with
      | some x => writeSegs (clearIncomp s segs) 0 segs (leBytes x.toNat (atomicSize fn))
      | none => s) q 0 old

/-- A page of the bytes is sealed for a migration (R213). -/
def peerSealed (s : State) (q : PeerReq) (t : Tensor) : Bool :=
  s.migrations.any (fun m => m.part = q.part && meets m.page (m.page + 65536) (t.vbase + q.off) (t.vbase + q.off + q.len))

/-- A request to the same line or record from the same device is ahead of this one (R410). -/
def peerBehind (l : List PeerWait) (q : PeerReq) : Bool :=
  let rec' (k : Nat) : Bool := k = 2 || k = 3
  l.any (fun x => x.req.dev = q.dev && x.req.part = q.part && x.req.tid = q.tid && rec' x.req.kind = rec' q.kind && (rec' q.kind || x.req.off / 128 = q.off / 128))

/-- The HBIND of another device finds its tensor here (R407): it is a reference where a bound tensor's state matters, as one of this device is, and its answer holds EXTENT and VBASE. -/
def bindPeer (s : State) (q : PeerReq) : State × Option Block :=
  let give (s : State) : State × Option Block := (answerPeer s q 0 (match tensorOf s q.part q.tid with | some t => leBytes t.extent 8 ++ leBytes t.vbase 8 | none => []), none)
  match bindCause s q.part q.tid with
  | 0 =>
    if bindRefers s q.part ⟨.tensor, q.tid, 0, 0, 0⟩ then
      match refTensor s q.part q.tid 0 none with
      | (s, .wait b) => (s, some b)
      | (s, .fail c _) => (answerPeer s q c [], none)
      | (s, .ok) => give s
    else give s
  | c => (answerPeer s q c [], none)

/-- A request of another device is served under its partition here, or waits (R408, R409, R411): refused unless the device is in the map of a live partition that is not being resized, failed with the owner's cause, or performed. (DEDUCED, log 81.) -/
def servePeer (s : State) (q : PeerReq) : State × Option Block :=
  let p := partOf s q.part
  if !p.live || p.resize.isSome || (tfind p.map q.dev).isNone then (answerPeer s q 0x29 [], none)
  else if q.kind = 5 then bindPeer s q
  else
    match refTensor s q.part q.tid 0 none with
    | (s, .wait b) => (s, some b)
    | (s, .fail c _) => (answerPeer s q c [], none)
    | (s, .ok) =>
      match tensorOf s q.part q.tid with
      | none => (answerPeer s q 0x35 [], none)
      | some t =>
        if q.kind = 2 then (answerPeer (setTensor s q.part { t with xv := BitVec.ofNat 16 (leNat (q.data.take 2)) }) q 0 [], none)
        else if q.kind = 3 then (answerPeer (setTensor s q.part { t with nextuse := BitVec.ofNat 32 (leNat (q.data.take 4)) }) q 0 [], none)
        else if t.extent < q.off + q.len then (answerPeer s q 0x24 [], none)
        else if peerSealed s q t then (s, some .turn)
        else
          match peerSegs s q t with
          | (s, .error (.ok b)) => (s, some b)
          | (s, .error (.error c)) => (answerPeer s q c [], none)
          | (s, .ok segs) => if (if q.kind = 4 then heldFill s segs else heldWrite s s.fresh segs) then (s, some .turn) else (performPeer s q segs, none)

/-- A request of another device arrives; one behind another to its line waits, so that their order is kept (R410). -/
def peerArrive (s : State) (q : PeerReq) : State :=
  match (if peerBehind s.peers q then (s, some .turn) else servePeer s q) with
  | (s, none) => s
  | (s, some b) => { s with peers := s.peers ++ [⟨q, b, none⟩] }

/-- Request `i` of those that wait: it meets the failure it was given, or is served once what it waits for is over. -/
def peerAgain (s : State) (i : Nat) : State :=
  match nth s.peers i with
  | none => s
  | some x =>
    match x.fail with
    | some c => answerPeer { s with peers := dropNth s.peers i } x.req c []
    | none =>
      if !waitOver s x.wait || peerBehind (s.peers.take i) x.req then s
      else
        match servePeer s x.req with
        | (s, none) => { s with peers := dropNth s.peers i }
        | (s, some b) => { s with peers := setNth s.peers i { x with wait := b } }

/-! ### Links and units (R362, R410, R439) -/

/-- A notice to every partition that a test picks. -/
def noticeAll (s : State) (code unit : Nat) (pick : Partition → Bool) : State :=
  (s.parts.filter (fun e => e.2.live && pick e.2)).foldl (fun s e => postNotice s e.1 code 0 unit 0) s

/-- LINK_DOWN (R410): Sorant port `num`, or Ethernet port `num` − 16, loses its link. When no Sorant port is left, the other devices of a domain cannot be reached (R412); with `flag`, no path is left to device `num` alone. (DEDUCED, log 53.) -/
def execLinkDown (s : State) : Host.Outcome State Fault Refusal :=
  let port := s.sel.num
  if s.sel.flag then .next (if port = s.devnum then s else s.parts.foldl (fun s e => if (tfind e.2.map port).isSome then loseDevice s e.1 port else s) s)
  else if 24 ≤ port || tget false s.links port then .next s
  else
    let s := noticeAll { s with links := tset s.links port true } 0x7E (if port < 16 then 0xB0 + port else 0xC0 + (port - 16)) (fun _ => true)
    .next (if (List.range 16).all (fun i => tget false s.links i) then
      s.parts.foldl (fun s e => e.2.map.foldl (fun s d => if d.1 = s.devnum then s else loseDevice s e.1 d.1) s) s else s)

/-- ENGINE_OFFLINE (R362): the engine that takes opcode `num` is offline for the selected core; its operations there fault. -/
def execEngineOffline (s : State) : Host.Outcome State Fault Refusal :=
  let core := s.sel.core
  let unit := unitOf s.sel.num
  let s := modCore s core (fun k => { k with offline := tset k.offline unit true })
  let bad (o : EngineOp) : FaultRec := plainFault 0x46 (o.opc % 16)
  let s := match (coreOf s core).mcall with | some r => (if unit = 0 then failMcall s core (bad r.op) else s) | none => s
  .next (((liveOps s).filter (fun o => o.core = core && unitOf o.opc = unit)).foldl (fun s o => failEngine s o.id (fun _ => 0) bad) s)

/-! ### Hardware errors (R362, R368 to R370, R439, R440) -/

/-- The virtual address of a place of a partition's memory, where one of its tensors has the page; else 0 (R367). -/
def vaOf (s : State) (part : Nat) (l : Loc) : Nat :=
  let at' (k : Nat) (comp : Bool) : Nat :=
    ((s.tensors.filter (fun e => e.1 / 0x100000 = part)).findSome? (fun e =>
      (pageVas { e.2 with vbase := e.2.vbase / 65536 * 65536, extent := e.2.extent + e.2.vbase % 65536 }).findSome? (fun va =>
        match walk s part va with
        | .ok lf => if (lf.tier = 3) = comp && (leafLoc lf va).num % 2 ^ 58 / 65536 = k / 65536 then some (va + k % 65536) else none
        | .error _ => none))).getD 0
  match l with
  | .mem k => at' k false
  | .comp k => at' k true
  | _ => 0

/-- An uncorrectable error in a unit: it is counted, and the owner of the storage is told, with the address of the error where it has one (R367, R370, R440). (DEDUCED, log 66.) -/
def noteUncorrectable (s : State) (part unit va : Nat) : State := postNotice (countHealth s (0x0C0 + 8 * (unit / 16 % 16))) part 0x75 0 unit va

/-- A unit number of R439, with the index its kind has. -/
def unitGood (unit : Nat) : Bool :=
  let kind := unit / 16
  let i := unit % 16
  if kind = 7 || kind = 8 then i < 8 else if kind = 10 then i < 6 else if kind = 11 then true else if kind = 12 then i < 8 else kind ≤ 13 && i < 4

/-- The unit is one of the die or stack of the core or slice it is said to be of (R439). -/
def unitPlaced (unit core slice : Nat) : Bool :=
  let kind := unit / 16
  let i := unit % 16
  if kind = 0 || (2 ≤ kind && kind ≤ 5) then i = dieOfCore core
  else if kind = 7 || kind = 8 then i = slice / 4
  else if kind = 1 || kind = 6 || kind = 9 then i = slice / 8
  else true

/-- The entry of the health block that counts the replays of a link (R440). -/
def linkCounter (unit : Nat) : Option Nat :=
  if unit / 16 = 10 && decide (unit % 16 < 6) then some (0x140 + 8 * (unit % 16)) else if unit / 16 = 11 then some (0x140 + 8 * (6 + unit % 16 % 10)) else none

/-- An error corrected in a unit (R369): it is counted, also in ERRCNT where it lies in a core's storage, and the first in the unit in each millisecond is told to the owner. Nothing else changes. (DEDUCED, log 66.) -/
def correctError (s : State) (unit core slice : Nat) (place : Option Loc) : State :=
  let kind := unit / 16
  let own := kind = 0 || decide (2 ≤ kind && kind ≤ 5)
  let part := if own then partOfCore s core else partOfSlice s slice
  let s' := countHealth s (0x040 + 8 * kind)
  let s' := match linkCounter unit with | some off => countHealth s' off | none => s'
  let s' := if own then modCore s' core (fun k => { k with errcnt := if k.errcnt = BitVec.allOnes 32 then k.errcnt else k.errcnt + 1 }) else s'
  let ms := s.cycle / microseconds 1000 + 1
  if !unitGood unit || !unitPlaced unit core slice then s
  else if tget 0 s.noticed unit = ms then s'
  else postNotice { s' with noticed := tset s'.noticed unit ms } part 0x74 0 unit (match place with | some l => vaOf s part l | none => 0)

/-- The unit of a core's storage of a kind, and of a Lakebed core's (R439). -/
def coreUnit (kind core : Nat) : Nat := kind * 16 + dieOfCore core
def lakeUnit (i : Nat) : Nat := 0x80 + i / 8

/-- A sector of memory or scratchpad is poisoned, in the storage of a unit (R368, R370). -/
def poisonSector (s : State) (l : Loc) (unit : Nat) : State :=
  let part := partOfSector s (sectorOf l)
  noteUncorrectable { s with poison := tset s.poison (sectorOf l) true } part unit (vaOf s part l)

/-- The die of the L2 slices that a place of memory has its home in. -/
def sectorSliceDie (l : Loc) : Nat := keyDie (l.num % 2 ^ 58) % 4

/-- A hardware error (R368 to R370), or a place taken out of service (R362). A poisoned sector of local SRAM whose granule the kernel has not written reads zero as before (R310). (DEDUCED, log 66.) -/
def upsetState (s : State) (u : Upset) : State :=
  match u with
  | .corrected unit core slice place => correctError s unit core slice place
  | .sector l => poisonSector s l (unitOfLoc l)
  | .l2 l => if l.isFar || 2 ^ 60 ≤ l.num then s else poisonSector s l (0x10 + sectorSliceDie l)
  | .l1 core l =>
    let part := partOfCore s core
    if (tfind (coreOf s core).l1 (l.num / 128)).isSome then
      noteUncorrectable (modCore s core (fun k => { k with l1bad := k.l1bad ++ [sectorOf l] })) part (coreUnit 0 core) (vaOf s part l)
    else s
  | .pool core n sector =>
    match nth (coreOf s core).pool n with
    | some e => noteUncorrectable (modCore s core (fun k => { k with pool := setNth k.pool n { e with bad := e.bad ++ [sector] } })) (partOfCore s core) (coreUnit 2 core) 0
    | none => s
  | .tile core t group =>
    match tfind (coreOf s core).tiles t with
    | some x => noteUncorrectable (modCore s core (fun k => { k with tiles := tset k.tiles t { x with bad := x.bad ++ [group] } })) (partOfCore s core) (coreUnit 2 core) 0
    | none => s
  | .microstore core n => noteUncorrectable (modCore s core (fun k => { k with badStore := k.badStore ++ [n] })) (partOfCore s core) (coreUnit 3 core) 0
  | .lakeSram i n =>
    match (lakeOf s i).run with
    | some k => if (tfind k.sram (n / 4)).isSome then noteUncorrectable (setRun s i (some { k with bad := k.bad ++ [n] })) (partOfLake s i) (lakeUnit i) 0 else s
    | none => s
  | .lakeStore i n => noteUncorrectable (setLake s i { lakeOf s i with badStore := (lakeOf s i).badStore ++ [n] }) (partOfLake s i) (lakeUnit i) 0
  | .register id cls => if (ctxOf s id).running then noteUncorrectable (failOp s (ctxOf s id).op 0x4F (cls % 8 * 16)) (partOfCore s (id / 4)) (coreUnit 5 (id / 4)) 0 else s
  | .link unit part => if unitGood unit && 10 ≤ unit / 16 && unit / 16 ≤ 12 then noteUncorrectable s part unit 0 else s
  | .retire cause place => if cause = 0x22 || decide (0x37 ≤ cause && cause ≤ 0x39) then { s with retired := s.retired ++ [(cause, place)] } else s

/-! ### Power and temperature (R437, R438) -/

/-- The partition has a slice on the die. -/
def hasDie (d : Nat) (p : Partition) : Bool := (List.range 8).any (fun i => hasSlice p (8 * d + i))

/-- CORE_RAIL_ALARM_RAISE (R437): the alarm of die `die`, once its current has averaged more than 900 A over 10 µs or more than 700 A over 1 ms. (DESIGN CHOICE, log 79.) -/
def execCoreRailAlarmRaise (s : State) : Host.Outcome State Fault Refusal :=
  let d := s.sel.die
  let s' := readMonitors s d
  let x := dieOf s' d
  let high := decide (9000 < amps10 x) || decide (700000 < amps1000 x)
  .next (if x.alarm || 4 ≤ d || !high then s else noticeAll (countHealth (setDie s' d { x with alarm := true }) 0x020) 0x71 d (hasDie d))

/-- CORE_RAIL_ALARM_CLEAR (R437): the 1 ms average has stayed below 650 A for 1 ms. -/
def execCoreRailAlarmClear (s : State) : Host.Outcome State Fault Refusal :=
  let d := s.sel.die
  let s' := readMonitors s d
  let x := dieOf s' d
  .next (if x.alarm && decide (1000 ≤ x.low) then setDie s' d { x with alarm := false } else s)

/-- A die's clock changes, with a THERMAL_THROTTLE notice (R438); the cycles of the clock before are counted. -/
def changeClock (s : State) (d mhz : Nat) : State :=
  let x := dieOf s d
  noticeAll (setDie s d { x with clock := mhz, changed := s.cycle, arith := x.arith + (s.cycle - x.changed) * x.clock }) 0x72 d (hasDie d)

/-- THERMAL_CLOCK_LOWER (R438): above 105 °C, from 940 to 705 MHz, and to 470 MHz where it has stayed so for 10 ms at 705 MHz. -/
def execThermalClockLower (s : State) : Host.Outcome State Fault Refusal :=
  let d := s.sel.die
  let x := dieOf s d
  .next (if 4 ≤ d || x.temp ≤ 1050 then s
         else if x.clock = 940 then countHealth (changeClock s d 705) 0x028
         else if x.clock = 705 && (match x.hot with | some t => decide (max t x.changed + microseconds 10000 ≤ s.cycle) | none => false) then countHealth (changeClock s d 470) 0x028 else s)

/-- THERMAL_CLOCK_RESTORE (R438): one step up after each 10 ms below 100 °C. -/
def execThermalClockRestore (s : State) : Host.Outcome State Fault Refusal :=
  let d := s.sel.die
  let x := dieOf s d
  let waited := match x.cool with | some t => decide (t + microseconds 10000 ≤ s.cycle) && decide (x.changed + microseconds 10000 ≤ s.cycle) | none => false
  .next (if 4 ≤ d || x.clock = 940 || !waited then s else changeClock s d (if x.clock = 470 then 705 else 940))

/-- THERMAL_TRIP (R438): above 115 °C every unretired operator fails, whatever it had failed with before, its record is posted, and the module stops. (DEDUCED, log 54.) -/
def execThermalTrip (s : State) : Host.Outcome State Fault Refusal :=
  let hit := s.ops.filter (fun e => e.2.phase != .retired)
  let d := s.sel.die % 4
  let s' := hit.foldl (fun s e =>
    let s := modOp (failOp s e.1 0x73 d) e.1 (fun o => { o with fail := some (0x73, d) })
    match opOf s e.1 with
    | some o => let s := setOp s e.1 { o with phase := .retired }; if o.weir.isSome then s else postCompletion s o.part o.seq o.stream (o.fail.map (·.1))
    | none => s) s
  .next (if (dieOf s d).temp ≤ 1150 then s else { countHealth s' 0x030 with stopped := true })

/-! ### The monitors' readings (R436 to R438, R440) -/

/-- A reading of a monitor: a die's current in amperes (R437) or its hottest junction in tenths of a degree (R438), each of which stands from then on; or the rails, whose loss puts the module in reset until a module reset finds them back, and then nothing is read and no time is counted (R436). (DESIGN CHOICE, log 79.) -/
def takeReading (s : State) (r : Reading) : State :=
  match r with
  | .current d a => if 4 ≤ d || !s.rails then s else let s := readMonitors s d; setDie s d { dieOf s d with now := a }
  | .temperature d t =>
    if 4 ≤ d || !s.rails then s
    else
      let s := readMonitors s d
      let x := dieOf s d
      setDie s d { x with temp := t, cool := if t < 1000 then some (x.cool.getD s.cycle) else none, hot := if 1050 < t then some (x.hot.getD s.cycle) else none, peakTemp := max x.peakTemp t }
  | .rails true => if s.rails then s else { s with rails := true, cycle := 0 }
  | .rails false => if s.rails then powerLost s else s

/-! ### The health block in flash (R440) -/

/-- The width of a counter of the health block. -/
def healthWidth (off : Nat) : Nat := if off < 0x1C0 then 64 else 32

/-- The counts gathered since the last write are added to the block in flash. -/
def saveHealth (s : State) : State :=
  let s := monitored s
  { s with health := (withHours s).foldl (fun t e => tset t e.1 (BitVec.ofNat 64 (satAdd (healthWidth e.1) (tget 0 t e.1).toNat e.2.toNat))) s.health,
           unsaved := [], hours := s.hours + hoursDue s, savedAt := s.cycle }

/-- HEALTH_BLOCK_SAVE (R440): the counts gathered since the last write are added to the block in flash, 10 minutes after it, or with `keep` at an orderly shutdown, which stops the module. With `flag`, link `num` of the block has replayed `word` times. (DESIGN CHOICE, log 55.) -/
def execHealthBlockSave (s : State) : Host.Outcome State Fault Refusal :=
  let off := 0x140 + 8 * (s.sel.num % 16)
  .next (if s.sel.flag then { s with unsaved := tset s.unsaved off (BitVec.ofNat 64 (satAdd 64 (tget 0 s.unsaved off).toNat s.sel.word.toNat)) }
         else if s.sel.keep then { saveHealth s with stopped := true }
         else if s.savedAt + microseconds 600000000 ≤ s.cycle then saveHealth s else s)

/-- POWER_FAIL (R436, R440): the rails are lost, and the counts gathered since the last write with them; the module is held in reset. (DEDUCED, log 54.) -/
def execPowerFail (s : State) : Host.Outcome State Fault Refusal := .next (powerLost s)

end Sys2Proof.Machine
end

