-- ==== Sys2Proof/Machine/Checkpoint.lean ====
section
/-! DEFINITION. CHECKPOINT and RESTORE (R419): the image of a partition, its encoding (R333) and its reverse. Where the fields of the image lie is the model's. -/

namespace Sys2Proof.Machine

/-! ### The image -/

/-- A tensor record's 64 bytes (R196). -/
def recordBytes (t : Tensor) : List Byte :=
  leBytes (t.id % 2 ^ 20 + t.state % 16 * 2 ^ 20 + t.home % 4 * 2 ^ 24) 4 ++ leBytes (t.rank % 4 + t.fmt % 32 * 2 ^ 8 + t.xv.toNat * 2 ^ 16) 4 ++ leBytes t.vbase 8 ++ leBytes t.extent 8
  ++ (List.range 4).flatMap (fun i => leBytes (t.shape.getD i 0).toNat 4) ++ (List.range 3).flatMap (fun i => leBytes (t.stride.getD i 0).toNat 4)
  ++ leBytes t.nextuse.toNat 4 ++ leBytes (t.recipe % 2 ^ 24) 4 ++ leBytes (t.depth % 256 * 2 ^ 8 + t.pin % 65536 * 2 ^ 16) 4

/-- A tensor from its record (R196). -/
def parseRecord (l : List Byte) : Tensor :=
  let w (o n : Nat) : Nat := leNat ((l.drop o).take n)
  { Tensor.none with
    id := w 0 4 % 2 ^ 20, state := bitsOf (w 0 4) 20 4, home := bitsOf (w 0 4) 24 2, rank := w 4 4 % 4, fmt := bitsOf (w 4 4) 8 5, xv := BitVec.ofNat 16 (w 6 2), vbase := w 8 8,
    extent := w 16 8, shape := (List.range 4).map (fun i => BitVec.ofNat 32 (w (0x18 + 4 * i) 4)), stride := (List.range 3).map (fun i => BitVec.ofNat 32 (w (0x28 + 4 * i) 4)),
    nextuse := BitVec.ofNat 32 (w 0x34 4), recipe := w 0x38 4 % 2 ^ 24, depth := w 0x3D 1, pin := w 0x3E 2 }

/-- The tensors of a partition, by increasing id. -/
def tensorsOf (s : State) (part : Nat) : List Tensor :=
  sortBy (fun a b => decide (a.id < b.id)) ((s.tensors.filter (fun e => e.1 / 0x100000 = part)).map (·.2))

/-- The sectors of a 512-byte block of a tensor; none for one that is poisoned. -/
def imageSectors (s : State) (part : Nat) (t : Tensor) (block : Nat) : List (Option (List Byte)) :=
  (List.range 16).map (fun i =>
    let va := t.vbase + 512 * block + 32 * i
    match walk s part va with
    | .ok l => if poisoned s (leafLoc l va) then none else some (readLocs s 0 (leafLoc l va) 32)
    | .error _ => some (List.replicate 32 0))

/-- A block in the image: a mask of poisoned sectors, then the others, raw or encoded by sector (R333). -/
def packBlock (raw : Bool) (l : List (Option (List Byte))) : List Byte :=
  let mask := ((List.range 16).map (fun i => if (l.getD i none).isNone then 2 ^ i else 0)).sum
  let es := l.map (fun x => match x with | some b => (if raw then (3, b) else encodeSector b) | none => (0, []))
  leBytes mask 2 ++ (if raw then [] else leBytes (es.foldr (fun e a => e.1 + 4 * a) 0) 4) ++ es.flatMap (·.2)

def blockCount (t : Tensor) : Nat := (t.extent + 511) / 512
/-- A tensor's bytes are in the image when its state is neither ABSENT nor DROPPED. -/
def imaged (t : Tensor) : Bool := t.state != 0 && t.state != 5

def groupBytes (g : Group) : List Byte := leBytes g.members.toNat 32 ++ leBytes g.gen.toNat 2 ++ leBytes (if g.mc then 1 else 0) 1 ++ leBytes (if g.loaded then 1 else 0) 5 ++ leBytes g.dmask.toNat 24

/-- The image of a partition (R419): header, residency records, recipe table, group entries, stream heads, tensors. (DESIGN CHOICE, log 51.) -/
def imageBytes (s : State) (part : Nat) (raw : Bool) : List Byte :=
  let p := partOf s part
  let ts := tensorsOf s part
  let recipes := match tensorOf s part p.recipeTensor with | some t => (tensorBytes s part t.id 0 t.extent).getD [] | none => []
  leBytes (if raw then 1 else 0) 8 ++ leBytes ts.length 8 ++ leBytes recipes.length 8 ++ leBytes (p.groupHi - p.groupLo) 8
  ++ ts.flatMap recordBytes ++ recipes ++ (List.range (p.groupHi - p.groupLo)).flatMap (fun i => groupBytes (groupOf s (p.groupLo + i)))
  ++ (List.range 64).flatMap (fun i => let st := tget Stream.fresh p.streams i; leBytes st.head.toNat 4 ++ leBytes st.tail.toNat 4)
  ++ (ts.filter imaged).flatMap (fun t => (List.range (blockCount t)).flatMap (fun b => packBlock raw (imageSectors s part t b)))

/-! ### CHECKPOINT -/

/-- Nothing of the partition is under way: its operators have retired, and the Weir and the migration engine are at rest. (DEDUCED, log 50.) -/
def atRest (s : State) (part : Nat) : Bool :=
  s.ops.all (fun e => e.2.part != part || e.2.phase = .retired || e.2.phase = .waiting) && s.acts.all (fun a => a.part != part) && s.migrations.all (fun m => m.part != part)
  && s.recomputes.all (fun r => r.part != part)

/-- Admission and migration go on. -/
def resumePart (s : State) (part : Nat) : State := modPart s part (fun p => { p with checkpoint := false })

/-- How many records the completion ring holds or has yet to take. -/
def recordsDue (p : Partition) : Nat := match nth p.rings 0 with | some r => r.written + r.waiting.length | none => 0

/-- Every record up to number `due` of the completion ring is written. -/
def recordsOut (p : Partition) (due : Nat) : Bool := match nth p.rings 0 with | some r => decide (due ≤ r.written) | none => true

/-- CHECKPOINT (R416, R419): admission stops; the image is written once the partition is at rest; then its completion record; and once that is written, admission and migration go on. With `flag`, the target has stopped acknowledging. (DEDUCED, log 50.) -/
def execCheckpoint (s : State) : Host.Outcome State Fault Refusal :=
  runCommand s 6 (fun s part c =>
    if c.phase = 0 then stageCommand (modPart s part (fun p => { p with checkpoint := true })) part { c with phase := 1 }
    else if c.phase = 2 then (if recordsOut (partOf s part) c.due then dropCommand (resumePart s part) part else s)
    else if !atRest s part then s
    else if s.sel.flag then endCommand (resumePart s part) part c (some 0x3B)
    else
      let s := postCompletion { s with sent := s.sent ++ [.image part c.a64 c.a32 (imageBytes s part (c.a16 % 2 = 1))] } part c.seq 0xFE none
      stageCommand s part { c with phase := 2, due := recordsDue (partOf s part) })

/-! ### RESTORE -/

/-- A block out of the image: its sectors, and what follows it. -/
def unpackBlock (raw : Bool) (l : List Byte) : List (Option (List Byte)) × List Byte :=
  let mask := leNat (l.take 2)
  let codes := leNat ((l.drop 2).take 4)
  let body := l.drop (if raw then 2 else 6)
  (List.range 16).foldl (fun (acc : List (Option (List Byte)) × List Byte) i =>
    if mask.testBit i then (acc.1 ++ [none], acc.2)
    else
      let code := if raw then 3 else codeOf codes i
      let n := codeLength code
      (acc.1 ++ [some (decodeSector code (acc.2.take n ++ List.replicate (n - acc.2.length) 0))], acc.2.drop n)) ([], body)

/-- The Lakebed writes the compressed lines of bytes that stand in one sector (R336). -/
def flushVa (s : State) (part va : Nat) : State :=
  match walk s part va with
  | .ok lf => snoopFlush s [⟨leafLoc lf va, 1⟩]
  | .error _ => s

/-- Stores a block's sectors at a tensor, each compressed at once; a poisoned sector is poisoned again (R336, R370). -/
def storeSectors (s : State) (part : Nat) (t : Tensor) (block : Nat) (l : List (Option (List Byte))) : State :=
  (List.range 16).foldl (fun s i =>
    let off := 512 * block + 32 * i
    match l.getD i (some []) with
    | some b => flushVa (storeVa s part (t.vbase + off) (b.take (t.extent - off))) part (t.vbase + off)
    | none =>
      match walk s part (t.vbase + off) with
      | .ok lf => { s with poison := tset s.poison (sectorOf (leafLoc lf (t.vbase + off))) true }
      | .error _ => s) s

/-- Frames for a restored tensor: of the tier it was in, or of a lower one; the STATE it then has. -/
def placeRestored (s : State) (part : Nat) (t : Tensor) : Option (Nat × State) :=
  let tiers : List (Nat × Nat) := if t.state = 1 then [(0, 1), (1, 2), (2, 4)] else if t.state = 2 then [(1, 2), (2, 4)] else if t.state = 3 then [(3, 3), (2, 4)] else [(2, 4)]
  tiers.findSome? (fun x => (takeFrames s (slicesOn s part t.home) x.1 t.pages).bind (fun r =>
    (((pageVas t).zip r.1).foldl (fun s p => s.bind (fun s => mapPage (freshFrame s p.2) part t.home p.1 p.2 x.1)) (some r.2)).map (fun s => (x.2, s))))
where
  /-- A frame ready to be written; one of compressed pages holds zero blocks. -/
  freshFrame (s : State) (f : Nat) : State :=
    if keySpace (f * 65536) = 3 then (List.range 128).foldl (fun s i => compressBlock s (f * 65536 + 512 * i) (List.replicate 512 0)) (zeroFrame s f) else zeroFrame s f

/-- Recreates tensors one after another from the blocks of the image; none when frames run out. -/
def restoreTensors (s : State) (part : Nat) (raw : Bool) (ts : List Tensor) (data : List Byte) : Option State :=
  match ts with
  | [] => some s
  | t :: r =>
    if !imaged t then restoreTensors s part raw r data
    else
      let placed := if managed s part t then placeRestored s part t else some (t.state, s)
      placed.bind (fun x =>
        let s := setTensor x.2 part { t with state := x.1 }
        let go := (List.range (blockCount t)).foldl (fun (acc : State × List Byte) b =>
          let u := unpackBlock raw acc.2
          (storeSectors acc.1 part t b u.1, u.2)) (s, data)
        restoreTensors go.1 part raw r go.2)

/-- A partition from its image: records, tensors, recipe table, group entries, stream heads. (DESIGN CHOICE, log 51.) -/
def restoreImage (s : State) (part : Nat) (raw : Bool) (l : List Byte) : Option State :=
  let w (o : Nat) : Nat := leNat ((l.drop o).take 8)
  let p := partOf s part
  let recs := l.drop 32
  let ts := (List.range (w 8)).map (fun i => parseRecord ((recs.drop (64 * i)).take 64))
  let rest := recs.drop (64 * w 8)
  let groups := rest.drop (w 16)
  let heads := groups.drop (64 * w 24)
  let s := ts.foldl (fun s t => setTensor s part { t with state := if imaged t then 0 else t.state }) s
  (restoreTensors s part raw ts (heads.drop 512)).map (fun s =>
    let s := tensorStore s part p.recipeTensor 0 (rest.take (w 16))
    let s := match tensorPlaces s part p.recipeTensor 0 (w 16) 2 with | .ok segs => snoopFlush s segs | .error _ => s
    let s := (List.range (min (w 24) (p.groupHi - p.groupLo))).foldl (fun s i =>
      let g := (groups.drop (64 * i)).take 64
      let n (o k : Nat) : Nat := leNat ((g.drop o).take k)
      setGroup s (p.groupLo + i) { Group.none with members := BitVec.ofNat 256 (n 0 32), gen := BitVec.ofNat 16 (n 32 2), mc := n 34 1 = 1, loaded := n 35 1 = 1, dmask := BitVec.ofNat 192 (n 40 24) }) s
    (List.range 64).foldl (fun s i =>
      let n (o : Nat) : W32 := BitVec.ofNat 32 (leNat ((heads.drop (8 * i + o)).take 4))
      setStreamOf s part i (fun x => { x with head := n 0, tail := n 4 })) s)

/-- RESTORE (R416, R419): the image is read from the remote base, and when the turn supplies it as `data`, it is recreated in a partition with no unretired operator and no tensor. With `flag`, the target has stopped acknowledging. (DEDUCED, log 50.) -/
def execRestore (s : State) : Host.Outcome State Fault Refusal :=
  runCommand s 7 (fun s part c =>
    if s.ops.any (fun e => e.2.part = part && e.2.phase != .retired) || s.tensors.any (fun e => e.1 / 0x100000 = part) then endCommand s part c (some 0x6B)
    else if c.phase = 0 then stageCommand { s with sent := s.sent ++ [.imageRead part c.a64 c.a32] } part { c with phase := 1 }
    else if s.sel.flag then endCommand s part c (some 0x3B)
    else
      match restoreImage s part (c.a16 % 2 = 1) s.sel.data with
      | some s => endCommand s part c none
      | none => endCommand s part c (some 0x6B))

end Sys2Proof.Machine
end

