-- ==== Sys2Proof/Machine/Vector.lean ====
section
/-! DEFINITION. Slot C: lanes, types and predicates (R125 to R129), and every vector and predicate instruction (R130 to R156). -/

namespace Sys2Proof.Machine

/-! ### Lanes and elements (R125 to R129) -/

/-- Lane `l` of a vector. -/
def lane (v : VWord) (l : Nat) : Nat := v.toNat / 2 ^ (32 * l) % 2 ^ 32
/-- The 128 lanes. -/
def lanesOf (v : VWord) : List Nat := (List.range 128).map (lane v)
/-- A 4096-bit value from fields of `w` bits, the first lowest. -/
def packFields (w : Nat) (l : List Nat) : VWord := BitVec.ofNat 4096 (l.foldr (fun e a => e % 2 ^ w + 2 ^ w * a) 0)

/-- The element format of a type code (R125). -/
def vtype (ty : Nat) : NFmt :=
  match ty with
  | 0 => .int 32 true
  | 1 => .int 32 false
  | 2 => .ieee .f32
  | 3 => .ieee .bf16
  | 4 => .ieee .f16
  | 5 => .int 16 true
  | 6 => .int 8 true
  | _ => .int 8 false

/-- The type an instruction runs as, and whether it fell back to its default (R129). -/
def effectiveTy (takes : List Nat) (dflt : Nat) (ty : BitVec 3) : NFmt × Bool := if takes.contains ty.toNat then (vtype ty.toNat, false) else (vtype dflt, true)

def allTypes : List Nat := [0, 1, 2, 3, 4, 5, 6, 7]
def shiftTypes : List Nat := [0, 1, 5, 6, 7]
def signTypes : List Nat := [0, 2, 3, 4, 5, 6]
def floatTypes : List Nat := [2, 3, 4]
def rankTypes : List Nat := [0, 1, 2]
def packTypes : List Nat := [3, 4, 5, 6, 7]

/-- Element `j` of a lane (R125). -/
def elemOf (w x j : Nat) : Nat := x / 2 ^ (w * j) % 2 ^ w
/-- A lane result from its elements' results. -/
def joinElems (w : Nat) (rs : List FRes) : FRes := ⟨rs.foldr (fun r a => r.code % 2 ^ w + 2 ^ w * a) 0, rs.any (·.sat), rs.flatMap (·.causes)⟩
/-- Applies an element operation to every element of three lanes. -/
def eachElem (f : NFmt) (op : Nat → Nat → Nat → FRes) (a b d : Nat) : FRes :=
  joinElems f.width ((List.range (32 / f.width)).map (fun j => op (elemOf f.width a j) (elemOf f.width b j) (elemOf f.width d j)))

/-- The active lanes of a predicate (R126). -/
def activeLanes (p : PWord) : List Nat := (List.range 128).filter (fun l => p.getLsbD l)
def allLanes : List Nat := List.range 128

/-- A slot-C instruction under predicate `p` (R126, R27, R28): under p1 it has no effect; it is active when a bit of the predicate reads 1, and one that acts whatever the predicate reads runs even without. -/
def vecSlot (opc : Nat) (p : PReg) (always : Bool) (c : Ctx) (f : SlotOut → SlotOut) : SlotOut :=
  let o := { SlotOut.idle .c opc with reads := [pItem c p] }
  if p = 1 then o
  else if readP c p != 0 then f { o with active := true }
  else if always then f o
  else o

/-- Adds what the results of some lanes do beside their values. -/
def checkedLanes (rs : List (Nat × FRes)) (o : SlotOut) : SlotOut :=
  let hits := rs.filter (fun r => r.2.sat || !r.2.causes.isEmpty)
  { o with effects := o.effects ++ (if hits.any (fun r => r.2.sat) then [.warnSat] else []),
           debug := o.debug ++ hits.flatMap (fun r => r.2.causes.map (fun c => (c, r.1)) ++ (if r.2.sat then [(0x1B, r.1)] else [])) }

/-- A vector result of fields of `w` bits: only the fields of the lanes given are written (R127). -/
def vecWrite (c : Ctx) (vd : VReg) (lat w : Nat) (rs : List (Nat × FRes)) (o : SlotOut) : SlotOut :=
  let d := physV c vd.toNat
  let value := rs.foldl (fun a r => a + r.2.code % 2 ^ w * 2 ^ (w * r.1)) 0
  let mask := rs.foldl (fun a r => a + (2 ^ w - 1) * 2 ^ (w * r.1)) 0
  checkedLanes rs { o with writes := o.writes ++ [(2, d)], effects := o.effects ++ [.result lat (.vec d (BitVec.ofNat 4096 mask) (BitVec.ofNat 4096 value))] }

/-- A lane-wise instruction: each active lane of vd takes `f` of its number. -/
def laneOut (opc : Nat) (p : PReg) (vd : VReg) (reads : Ctx → List (Nat × Nat × Nat)) (lat : Nat) (fallback : Bool) (f : Ctx → Nat → FRes) (s : State) (id : Nat) : SlotOut :=
  let c := ctxOf s id
  vecSlot opc p false c (fun o =>
    fellBack fallback (vecWrite c vd lat 32 ((activeLanes (readP c p)).map (fun l => (l, f c l))) { o with reads := o.reads ++ reads c }))

/-- The broadcast value of a scalar (R128). -/
def broadcast (c : Ctx) (sb : SReg) : Nat := (readS c sb).toNat % 2 ^ 32

/-! ### Lane-wise arithmetic (R131 to R133, R144) -/

/-- The two-operand operations (R131). -/
inductive VOp where
  | add
  | sub
  | mul
  | fma
  | min
  | max
  | and
  | or
  | xor
  | shl
  | shr
  | sra
  | mulh
  deriving DecidableEq, Repr

/-- An operation on integer elements (R131). -/
def VOp.onInt (op : VOp) (w : Nat) (sg : Bool) (a b d : Nat) : FRes :=
  let x := intOf w sg a
  let y := intOf w sg b
  let wraps (z : Int) : List Nat := causeIf (sg && (decide (z < intLo w true) || decide (intHi w true < z))) 0x18
  let shift := causeIf (decide (w ≤ b)) 0x1A
  match op with
  | .add => ⟨intCode w (x + y), false, wraps (x + y)⟩
  | .sub => ⟨intCode w (x - y), false, wraps (x - y)⟩
  | .mul => ⟨intCode w (x * y), false, wraps (x * y)⟩
  | .fma => plainRes (intCode w (intOf w sg d + x * y))
  | .min => plainRes (if x < y then a else b)
  | .max => plainRes (if x < y then b else a)
  | .and => plainRes (a &&& b)
  | .or => plainRes (a ||| b)
  | .xor => plainRes (a ^^^ b)
  | .shl => ⟨a * 2 ^ (b % w) % 2 ^ w, false, shift⟩
  | .shr => ⟨a / 2 ^ (b % w), false, shift⟩
  | .sra => ⟨intCode w (sextNat w a / 2 ^ (b % w)), false, shift⟩
  | .mulh => plainRes (intCode w (x * y / 2 ^ w))

/-- Minimum or maximum of float elements, with its check. -/
def FFmt.minMaxRes (f : FFmt) (wantMax : Bool) (a b : Nat) : FRes := ⟨f.minMax wantMax a b, false, causeIf (f.isSubnormal a || f.isSubnormal b) 0x16⟩

/-- An operation on elements of a type (R131, R132). -/
def VOp.elem (op : VOp) (f : NFmt) (a b d : Nat) : FRes :=
  match f with
  | .ieee t =>
    match op with
    | .add => t.arith .add .rne false a b d
    | .sub => t.arith .sub .rne false a b d
    | .mul => t.arith .mul .rne false a b d
    | .fma => t.arith .fma .rne false a b d
    | .min => t.minMaxRes false a b
    | .max => t.minMaxRes true a b
    | op => op.onInt f.width false a b d
  | f => op.onInt f.width (match f with | .int _ sg => sg | _ => false) a b d

/-- The types an operation takes (R129); the bitwise ones work on whole lanes whatever ty holds. -/
def VOp.types (op : VOp) : List Nat :=
  match op with
  | .shl | .shr | .sra | .mulh => shiftTypes
  | _ => allTypes

/-- The latency of an operation (R22). -/
def VOp.latency (op : VOp) : Nat :=
  match op with
  | .mul | .fma | .mulh => Config.latVmul
  | _ => 1

/-- A two-operand instruction with a second operand given lane by lane (R131, R132). -/
def vopOut (opc : Nat) (op : VOp) (p : PReg) (vd va : VReg) (second : Nat × Nat × Nat) (b : Ctx → Nat → Nat) (vecSecond : Bool) (ty : BitVec 3) (s : State) (id : Nat) : SlotOut :=
  let t := effectiveTy op.types 0 ty
  laneOut opc p vd (fun c => [vItem c va, if vecSecond then (2, second.1, physV c second.1) else second] ++ (if op = .fma then [vItem c vd] else [])) op.latency t.2
    (fun c l => eachElem t.1 (op.elem t.1) (lane (readV c va) l) (b c l) (lane (readV c vd) l)) s id

/-- The vector form (layout VR). -/
def vvOut (opc : Nat) (op : VOp) (p : PReg) (vd va vb : VReg) (ty : BitVec 3) (s : State) (id : Nat) : SlotOut :=
  vopOut opc op p vd va (vb.toNat, 0, 0) (fun c l => lane (readV c vb) l) true ty s id
/-- The broadcast form (layout VS, R128). -/
def vsOut (opc : Nat) (op : VOp) (p : PReg) (vd va : VReg) (sb : SReg) (ty : BitVec 3) (s : State) (id : Nat) : SlotOut :=
  vopOut opc op p vd va (sItem sb) (fun c _ => broadcast c sb) false ty s id

/-- VADD (R131, R132). -/
def execVadd (p : PReg) (vd va vb : VReg) (ty : BitVec 3) (s : State) : Host.Outcome State Fault Refusal := runSlot s (vvOut 0x01 .add p vd va vb ty)
/-- VSUB (R131, R132). -/
def execVsub (p : PReg) (vd va vb : VReg) (ty : BitVec 3) (s : State) : Host.Outcome State Fault Refusal := runSlot s (vvOut 0x02 .sub p vd va vb ty)
/-- VMUL (R131, R132). -/
def execVmul (p : PReg) (vd va vb : VReg) (ty : BitVec 3) (s : State) : Host.Outcome State Fault Refusal := runSlot s (vvOut 0x03 .mul p vd va vb ty)
/-- VFMA (R131, R132). -/
def execVfma (p : PReg) (vd va vb : VReg) (ty : BitVec 3) (s : State) : Host.Outcome State Fault Refusal := runSlot s (vvOut 0x04 .fma p vd va vb ty)
/-- VMIN (R131, R132). -/
def execVmin (p : PReg) (vd va vb : VReg) (ty : BitVec 3) (s : State) : Host.Outcome State Fault Refusal := runSlot s (vvOut 0x05 .min p vd va vb ty)
/-- VMAX (R131, R132). -/
def execVmax (p : PReg) (vd va vb : VReg) (ty : BitVec 3) (s : State) : Host.Outcome State Fault Refusal := runSlot s (vvOut 0x06 .max p vd va vb ty)
/-- VAND (R131). -/
def execVand (p : PReg) (vd va vb : VReg) (ty : BitVec 3) (s : State) : Host.Outcome State Fault Refusal := runSlot s (vvOut 0x09 .and p vd va vb ty)
/-- VOR (R131). -/
def execVor (p : PReg) (vd va vb : VReg) (ty : BitVec 3) (s : State) : Host.Outcome State Fault Refusal := runSlot s (vvOut 0x0A .or p vd va vb ty)
/-- VXOR (R131). -/
def execVxor (p : PReg) (vd va vb : VReg) (ty : BitVec 3) (s : State) : Host.Outcome State Fault Refusal := runSlot s (vvOut 0x0B .xor p vd va vb ty)
/-- VSHL (R131). -/
def execVshl (p : PReg) (vd va vb : VReg) (ty : BitVec 3) (s : State) : Host.Outcome State Fault Refusal := runSlot s (vvOut 0x0C .shl p vd va vb ty)
/-- VSHR (R131). -/
def execVshr (p : PReg) (vd va vb : VReg) (ty : BitVec 3) (s : State) : Host.Outcome State Fault Refusal := runSlot s (vvOut 0x0D .shr p vd va vb ty)
/-- VSRA (R131). -/
def execVsra (p : PReg) (vd va vb : VReg) (ty : BitVec 3) (s : State) : Host.Outcome State Fault Refusal := runSlot s (vvOut 0x0E .sra p vd va vb ty)
/-- VMULH (R131). -/
def execVmulh (p : PReg) (vd va vb : VReg) (ty : BitVec 3) (s : State) : Host.Outcome State Fault Refusal := runSlot s (vvOut 0x0F .mulh p vd va vb ty)
/-- VADDS (R131, R132). -/
def execVadds (p : PReg) (vd va : VReg) (sb : SReg) (ty : BitVec 3) (s : State) : Host.Outcome State Fault Refusal := runSlot s (vsOut 0x11 .add p vd va sb ty)
/-- VSUBS (R131, R132). -/
def execVsubs (p : PReg) (vd va : VReg) (sb : SReg) (ty : BitVec 3) (s : State) : Host.Outcome State Fault Refusal := runSlot s (vsOut 0x12 .sub p vd va sb ty)
/-- VMULS (R131, R132). -/
def execVmuls (p : PReg) (vd va : VReg) (sb : SReg) (ty : BitVec 3) (s : State) : Host.Outcome State Fault Refusal := runSlot s (vsOut 0x13 .mul p vd va sb ty)
/-- VFMAS (R131, R132). -/
def execVfmas (p : PReg) (vd va : VReg) (sb : SReg) (ty : BitVec 3) (s : State) : Host.Outcome State Fault Refusal := runSlot s (vsOut 0x14 .fma p vd va sb ty)
/-- VMINS (R131, R132). -/
def execVmins (p : PReg) (vd va : VReg) (sb : SReg) (ty : BitVec 3) (s : State) : Host.Outcome State Fault Refusal := runSlot s (vsOut 0x15 .min p vd va sb ty)
/-- VMAXS (R131, R132). -/
def execVmaxs (p : PReg) (vd va : VReg) (sb : SReg) (ty : BitVec 3) (s : State) : Host.Outcome State Fault Refusal := runSlot s (vsOut 0x16 .max p vd va sb ty)
/-- VANDS (R131). -/
def execVands (p : PReg) (vd va : VReg) (sb : SReg) (ty : BitVec 3) (s : State) : Host.Outcome State Fault Refusal := runSlot s (vsOut 0x19 .and p vd va sb ty)
/-- VORS (R131). -/
def execVors (p : PReg) (vd va : VReg) (sb : SReg) (ty : BitVec 3) (s : State) : Host.Outcome State Fault Refusal := runSlot s (vsOut 0x1A .or p vd va sb ty)
/-- VXORS (R131). -/
def execVxors (p : PReg) (vd va : VReg) (sb : SReg) (ty : BitVec 3) (s : State) : Host.Outcome State Fault Refusal := runSlot s (vsOut 0x1B .xor p vd va sb ty)
/-- VSHLS (R131). -/
def execVshls (p : PReg) (vd va : VReg) (sb : SReg) (ty : BitVec 3) (s : State) : Host.Outcome State Fault Refusal := runSlot s (vsOut 0x1C .shl p vd va sb ty)
/-- VSHRS (R131). -/
def execVshrs (p : PReg) (vd va : VReg) (sb : SReg) (ty : BitVec 3) (s : State) : Host.Outcome State Fault Refusal := runSlot s (vsOut 0x1D .shr p vd va sb ty)
/-- VSRAS (R131). -/
def execVsras (p : PReg) (vd va : VReg) (sb : SReg) (ty : BitVec 3) (s : State) : Host.Outcome State Fault Refusal := runSlot s (vsOut 0x1E .sra p vd va sb ty)
/-- VMULHS (R131). -/
def execVmulhs (p : PReg) (vd va : VReg) (sb : SReg) (ty : BitVec 3) (s : State) : Host.Outcome State Fault Refusal := runSlot s (vsOut 0x1F .mulh p vd va sb ty)

/-- |a| and −a (R133): on floats the sign bit, on integers modulo 2^w. -/
def signElem (negate : Bool) (f : NFmt) (a : Nat) : FRes :=
  match f with
  | .ieee t =>
    let top := 2 ^ (t.eb + t.fb)
    ⟨if negate then (a + top) % (2 * top) else a % top, false, causeIf (t.isSubnormal a) 0x16⟩
  | f => let x := sextNat f.width a; plainRes (intCode f.width (if negate then -x else (x.natAbs : Int)))

def signOut (opc : Nat) (negate : Bool) (p : PReg) (vd va : VReg) (ty : BitVec 3) (s : State) (id : Nat) : SlotOut :=
  let t := effectiveTy signTypes 0 ty
  laneOut opc p vd (fun c => [vItem c va]) 1 t.2 (fun c l => eachElem t.1 (fun a _ _ => signElem negate t.1 a) (lane (readV c va) l) 0 0) s id

/-- VABS (R133). -/
def execVabs (p : PReg) (vd va : VReg) (ty : BitVec 3) (s : State) : Host.Outcome State Fault Refusal := runSlot s (signOut 0x07 false p vd va ty)
/-- VNEG (R133). -/
def execVneg (p : PReg) (vd va : VReg) (ty : BitVec 3) (s : State) : Host.Outcome State Fault Refusal := runSlot s (signOut 0x08 true p vd va ty)

/-- min(max(d, a), b) of an element (R144). -/
def clampElem (f : NFmt) (a b d : Nat) : FRes :=
  let lo := VOp.elem .max f d a 0
  let hi := VOp.elem .min f lo.code b 0
  ⟨hi.code, false, lo.causes ++ hi.causes⟩

/-- VCLAMP (R144). -/
def execVclamp (p : PReg) (vd va vb : VReg) (ty : BitVec 3) (s : State) : Host.Outcome State Fault Refusal :=
  let t := effectiveTy allTypes 0 ty
  runSlot s (laneOut 0x3F p vd (fun c => [vItem c va, vItem c vb, vItem c vd]) 1 t.2 (fun c l => eachElem t.1 (clampElem t.1) (lane (readV c va) l) (lane (readV c vb) l) (lane (readV c vd) l)))

/-! ### Compares (R134) -/

/-- The condition of an integer element (R40). -/
def condInt (cc : BitVec 3) (w : Nat) (sg : Bool) (a b : Nat) : Bool :=
  let x := intOf w sg a
  let y := intOf w sg b
  match cc.toNat with
  | 0 => x == y
  | 1 => x != y
  | 2 => decide (x < y)
  | 3 => decide (y ≤ x)
  | 4 => decide (x ≤ y)
  | 5 => decide (y < x)
  | 6 => (a &&& b) != 0
  | _ => (a &&& b) == 0

def condElem (cc : BitVec 3) (f : NFmt) (a b : Nat) : Bool :=
  match f with
  | .ieee t => condFloat cc (FVal.order (t.decode a) (t.decode b))
  | .int w sg => condInt cc w sg a b
  | _ => false

/-- The result of a lane: the condition of every element (R134). -/
def condLane (cc : BitVec 3) (f : NFmt) (a b : Nat) : Bool := (List.range (32 / f.width)).all (fun j => condElem cc f (elemOf f.width a j) (elemOf f.width b j))

/-- The subnormal operands of a compared lane (R362). -/
def condChecks (f : NFmt) (a b : Nat) : FRes :=
  match f with
  | .ieee t => ⟨0, false, causeIf ((List.range (32 / f.width)).any (fun j => t.isSubnormal (elemOf f.width a j) || t.isSubnormal (elemOf f.width b j))) 0x16⟩
  | _ => plainRes 0

/-- A predicate result: the lanes given are written (R127). -/
def predWrite (c : Ctx) (n : Nat) (mask v : PWord) (o : SlotOut) : SlotOut :=
  let d := physP c n
  if d ≤ 1 then o else { o with writes := o.writes ++ [(3, d)], effects := o.effects ++ [.result 1 (.pred d mask v)] }

/-- The bits of the lanes of a list. -/
def bitsAt (l : List Nat) : PWord := BitVec.ofNat 128 (l.foldl (fun a i => a + 2 ^ i) 0)

def vcmpOut (opc : Nat) (p : PReg) (pair cc : BitVec 3) (va : VReg) (second : Ctx → Nat × Nat × Nat) (b : Ctx → Nat → Nat) (ty : BitVec 3) (s : State) (id : Nat) : SlotOut :=
  let c := ctxOf s id
  let t := effectiveTy allTypes 0 ty
  vecSlot opc p false c (fun o =>
    let on := activeLanes (readP c p)
    let hit := bitsAt (on.filter (fun l => condLane cc t.1 (lane (readV c va) l) (b c l)))
    let o := checkedLanes (on.map (fun l => (l, condChecks t.1 (lane (readV c va) l) (b c l)))) { o with reads := o.reads ++ [vItem c va, second c] }
    let o := fellBack (t.2 || pair == 0) o
    if pair = 0 then o
    else predWrite c (2 * pair.toNat + 1) (readP c p) (~~~hit) (predWrite c (2 * pair.toNat) (readP c p) hit o))

/-- VCMP (R134). -/
def execVcmp (p : PReg) (pair cc : BitVec 3) (va vb : VReg) (ty : BitVec 3) (s : State) : Host.Outcome State Fault Refusal :=
  runSlot s (vcmpOut 0x20 p pair cc va (fun c => vItem c vb) (fun c l => lane (readV c vb) l) ty)
/-- VCMPS (R134). -/
def execVcmps (p : PReg) (pair cc : BitVec 3) (va : VReg) (sb : SReg) (ty : BitVec 3) (s : State) : Host.Outcome State Fault Refusal :=
  runSlot s (vcmpOut 0x21 p pair cc va (fun _ => sItem sb) (fun c _ => broadcast c sb) ty)

/-! ### Moves, selection and indices (R135 to R139) -/

/-- VSEL (R135): every lane, whatever the predicate reads. -/
def execVsel (p : PReg) (vd va vb : VReg) (_ty : BitVec 3) (s : State) : Host.Outcome State Fault Refusal :=
  runSlot s (fun s id =>
    let c := ctxOf s id
    vecSlot 0x22 p true c (fun o =>
      vecWrite c vd 1 32 (allLanes.map (fun l => (l, plainRes (if (readP c p).getLsbD l then lane (readV c va) l else lane (readV c vb) l)))) { o with reads := o.reads ++ [vItem c va, vItem c vb] }))
/-- VMOV (R136). -/
def execVmov (p : PReg) (vd va : VReg) (_ty : BitVec 3) (s : State) : Host.Outcome State Fault Refusal :=
  runSlot s (laneOut 0x23 p vd (fun c => [vItem c va]) 1 false (fun c l => plainRes (lane (readV c va) l)))
/-- VBCAST (R136). -/
def execVbcast (p : PReg) (vd : VReg) (sb : SReg) (_ty : BitVec 3) (s : State) : Host.Outcome State Fault Refusal :=
  runSlot s (laneOut 0x24 p vd (fun _ => [sItem sb]) 1 false (fun c _ => plainRes (broadcast c sb)))

/-- The index elements of a lane (R137). -/
def indexLane (w : Nat) (imm : Int) (l : Nat) : Nat :=
  (joinElems w ((List.range (32 / w)).map (fun j => plainRes (intCode w (imm + (l * (32 / w) + j : Nat)))))).code

/-- VIDX (R137). -/
def execVidx (p : PReg) (vd : VReg) (imm : BitVec 14) (ty : BitVec 3) (s : State) : Host.Outcome State Fault Refusal :=
  let t := effectiveTy shiftTypes 0 ty
  runSlot s (laneOut 0x25 p vd (fun _ => []) 1 t.2 (fun _ l => plainRes (indexLane t.1.width imm.toInt l)))
/-- VPERM (R138). -/
def execVperm (p : PReg) (vd va vb : VReg) (_ty : BitVec 3) (s : State) : Host.Outcome State Fault Refusal :=
  runSlot s (laneOut 0x2B p vd (fun c => [vItem c va, vItem c vb]) Config.latMove false (fun c l => plainRes (lane (readV c va) (lane (readV c vb) l % 128))))
/-- VROT (R139). -/
def execVrot (p : PReg) (vd va : VReg) (sb : SReg) (_ty : BitVec 3) (s : State) : Host.Outcome State Fault Refusal :=
  runSlot s (laneOut 0x2C p vd (fun c => [vItem c va, sItem sb]) 1 false (fun c l => plainRes (lane (readV c va) ((l + (readS c sb).toNat % 128) % 128))))

/-! ### Conversions (R140 to R143) -/

/-- Field `i` of `w` bits of a register (R140). -/
def narrowElem (v : VWord) (w i : Nat) : Nat := v.toNat / 2 ^ (w * i) % 2 ^ w

/-- VCVT (R140), both directions. -/
def execVcvt (p : PReg) (vd va : VReg) (fmt : BitVec 4) (unpack sat : Bool) (ty : BitVec 3) (s : State) : Host.Outcome State Fault Refusal :=
  runSlot s (fun s id =>
    let c := ctxOf s id
    let t := effectiveTy rankTypes 2 ty
    let n := nfmtOf fmt.toNat
    vecSlot 0x26 p false c (fun o =>
      let on := activeLanes (readP c p)
      let o := { o with reads := o.reads ++ [vItem c va] }
      let v := readV c va
      if unpack then fellBack (t.2 || sat) (vecWrite c vd Config.latMove 32 (on.map (fun l => (l, convertCode n t.1 .rne false false (narrowElem v n.width l)))) o)
      else fellBack t.2 (vecWrite c vd Config.latMove n.width (on.map (fun l => (l, convertCode t.1 n .rne sat false (lane v l)))) o)))

/-- A lane of VPACK (R141). -/
def packLane (f : NFmt) (a b : Nat) : FRes :=
  match f with
  | .ieee _ => joinElems 16 [convertCode (.ieee .f32) f .rne false false a, convertCode (.ieee .f32) f .rne false false b]
  | .int 16 _ => joinElems 16 [plainRes a, plainRes b]
  | _ => joinElems 8 [plainRes a, plainRes (a / 2 ^ 16), plainRes b, plainRes (b / 2 ^ 16)]

/-- VPACK (R141). -/
def execVpack (p : PReg) (vd va vb : VReg) (ty : BitVec 3) (s : State) : Host.Outcome State Fault Refusal :=
  let t := effectiveTy packTypes 3 ty
  runSlot s (laneOut 0x27 p vd (fun c => [vItem c va, vItem c vb]) 1 t.2 (fun c l => packLane t.1 (lane (readV c va) l) (lane (readV c vb) l)))

/-- A lane of VUNPK (R142). -/
def unpackLane (f : NFmt) (half : Bool) (a : Nat) : FRes :=
  let x := if half then a / 2 ^ 16 else a % 2 ^ 16
  match f with
  | .ieee _ => convertCode f (.ieee .f32) .rne false false x
  | .int 16 _ => plainRes (intCode 32 (sextNat 16 x))
  | f =>
    let sg := match f with | .int _ sg => sg | _ => false
    joinElems 16 [plainRes (intCode 16 (intOf 8 sg (x % 256))), plainRes (intCode 16 (intOf 8 sg (x / 256)))]

/-- VUNPK (R142). -/
def execVunpk (p : PReg) (vd va : VReg) (half : Bool) (ty : BitVec 3) (s : State) : Host.Outcome State Fault Refusal :=
  let t := effectiveTy packTypes 3 ty
  runSlot s (laneOut 0x28 p vd (fun c => [vItem c va]) 1 t.2 (fun c l => unpackLane t.1 half (lane (readV c va) l)))

/-- An element rounded to an integral value in its own format (R143): a zero keeps the operand's sign. -/
def integralElem (f : FFmt) (rm : Rm) (c : Nat) : FRes :=
  let v := f.decode c
  let r := match v with
    | .num s m e => if m = 0 || 0 ≤ e then c else (f.round .rne false (.num s (roundMag rm s m e 0) 0)).1
    | v => (f.round .rne false v).1
  ⟨r, false, NFmt.checks (.ieee f) .rne v r ++ causeIf (f.isSubnormal c) 0x16⟩

/-- VRND (R143). -/
def execVrnd (p : PReg) (vd va : VReg) (rm ty : BitVec 3) (s : State) : Host.Outcome State Fault Refusal :=
  let t := effectiveTy floatTypes 2 ty
  let f := match t.1 with | .ieee f => f | _ => .f32
  runSlot s (laneOut 0x3E p vd (fun c => [vItem c va]) 1 (t.2 || decide (4 ≤ rm.toNat)) (fun c l => eachElem t.1 (fun a _ _ => integralElem f (rmOf rm.toNat) a) (lane (readV c va) l) 0 0))

/-! ### Reductions and scans (R120, R121, R145, R146) -/

/-- The functions of VRED and VSCAN (R145). -/
inductive RedFn where
  | add
  | min
  | max
  | and
  | or
  deriving DecidableEq, Repr

def redFnOf (fn : Nat) : RedFn :=
  match fn with
  | 0 => .add
  | 1 => .min
  | 2 => .max
  | 3 => .and
  | _ => .or

/-- The identity that an inactive lane contributes (R145). -/
def RedFn.identity (fn : RedFn) (f : NFmt) : Nat :=
  match fn, f with
  | .add, .ieee t => t.signBit true
  | .min, .ieee t => t.infCode
  | .max, .ieee t => t.signBit true + t.infCode
  | .add, _ => 0
  | .min, .int w true => 2 ^ (w - 1) - 1
  | .min, f => 2 ^ f.width - 1
  | .max, .int w true => 2 ^ (w - 1)
  | .max, _ => 0
  | .and, f => 2 ^ f.width - 1
  | .or, _ => 0

/-- A sum of 16-bit floats is formed in f32 (R145). -/
def RedFn.widens (fn : RedFn) (f : NFmt) : Bool := fn == .add && (f == .ieee .bf16 || f == .ieee .f16)

/-- One node of the tree (R145). A float sum of two NaN is the lower node's; R120 and R145 name none. (DESIGN CHOICE, log 71.) -/
def RedFn.node (fn : RedFn) (f : NFmt) (x y : FRes) : FRes :=
  let g := if fn.widens f then .ieee .f32 else f
  let r := match fn with
    | .add => VOp.elem .add g x.code y.code 0
    | .min => VOp.elem .min g x.code y.code 0
    | .max => VOp.elem .max g x.code y.code 0
    | .and => plainRes (x.code &&& y.code)
    | .or => plainRes (x.code ||| y.code)
  ⟨r.code, false, x.causes ++ y.causes ++ r.causes.filter (fun c => c != 0x18)⟩

/-- A leaf of the tree. -/
def RedFn.leaf (fn : RedFn) (f : NFmt) (c : Nat) : FRes := if fn.widens f then convertCode f (.ieee .f32) .rne false false c else plainRes c
/-- The root, rounded into the element's format (R145). -/
def RedFn.root (fn : RedFn) (f : NFmt) (x : FRes) : FRes :=
  if fn.widens f then (let r := convertCode (.ieee .f32) f .rne false false x.code; ⟨r.code, false, x.causes ++ r.causes⟩) else x

/-- Combines neighbours. -/
def pairUp {α : Type} (f : α → α → α) (l : List α) : List α :=
  match l with
  | a :: b :: r => f a b :: pairUp f r
  | l => l

/-- The levels of the pairwise tree from the leaves up (R120). -/
def treeLevels {α : Type} (f : α → α → α) (l : List α) : Nat → List (List α)
  | 0 => [l]
  | n + 1 => l :: treeLevels f (pairUp f l) n

/-- The leaves of one element position, inactive lanes at the identity. -/
def RedFn.leaves (fn : RedFn) (f : NFmt) (p : PWord) (v : VWord) (j : Nat) : List FRes :=
  (List.range 128).map (fun l => fn.leaf f (if p.getLsbD l then elemOf f.width (lane v l) j else fn.identity f))

/-- The reduction of all lanes, one tree for each element position (R120, R145). -/
def RedFn.reduce (fn : RedFn) (f : NFmt) (p : PWord) (v : VWord) : FRes :=
  joinElems f.width ((List.range (32 / f.width)).map (fun j => fn.root f (((treeLevels (fn.node f) (fn.leaves f p v j) 7).getLastD []).headD (plainRes 0))))

/-- The combination of lanes 0 to n − 1: the aligned blocks of n's binary decomposition, largest first, from left to right (R121). `start` lanes are done, in `acc`. -/
def scanFrom {α : Type} (f : α → α → α) (levels : List (List α)) (n start : Nat) (acc : Option α) : Nat → Option α
  | 0 => acc
  | j + 1 =>
    if n.testBit j then
      match nth (levels.getD j []) (start / 2 ^ j) with
      | some b => scanFrom f levels n (start + 2 ^ j) (match acc with | some a => some (f a b) | none => some b) j
      | none => acc
    else scanFrom f levels n start acc j

/-- The scan result of a lane (R121, R146). -/
def RedFn.scan (fn : RedFn) (f : NFmt) (trees : List (List (List FRes))) (l : Nat) : FRes :=
  joinElems f.width (trees.map (fun levels => fn.root f ((scanFrom (fn.node f) levels (l + 1) 0 none 8).getD (plainRes 0))))

/-- VRED (R145): to a scalar, sign-extended for i32, or to every active lane of v0 to v31. -/
def execVred (p : PReg) (toScalar : Bool) (dst : BitVec 5) (va : VReg) (fn ty : BitVec 3) (s : State) : Host.Outcome State Fault Refusal :=
  runSlot s (fun s id =>
    let c := ctxOf s id
    let t := effectiveTy allTypes 0 ty
    vecSlot 0x29 p false c (fun o =>
      let r := (redFnOf fn.toNat).reduce t.1 (readP c p) (readV c va)
      let o := { o with reads := o.reads ++ [vItem c va] }
      let o := fellBack t.2 (checkedLanes [(0, r)] o)
      if toScalar then
        let v : W64 := if t.1 = .int 32 true then BitVec.ofInt 64 (sextNat 32 r.code) else BitVec.ofNat 64 r.code
        { o with writes := o.writes ++ scalarItems dst, effects := o.effects ++ scalarEffects Config.latRed dst v }
      else vecWrite c (dst.zeroExtend 6) Config.latRed 32 ((activeLanes (readP c p)).map (fun l => (l, plainRes r.code))) o))

/-- VSCAN (R146). -/
def execVscan (p : PReg) (vd va : VReg) (fn ty : BitVec 3) (s : State) : Host.Outcome State Fault Refusal :=
  runSlot s (fun s id =>
    let c := ctxOf s id
    let t := effectiveTy allTypes 0 ty
    let f := redFnOf fn.toNat
    vecSlot 0x2A p false c (fun o =>
      let trees := (List.range (32 / t.1.width)).map (fun j => treeLevels (f.node t.1) (f.leaves t.1 (readP c p) (readV c va) j) 7)
      fellBack t.2 (vecWrite c vd Config.latRed 32 ((activeLanes (readP c p)).map (fun l => (l, f.scan t.1 trees l))) { o with reads := o.reads ++ [vItem c va] })))

/-! ### Functions and scaling (R147, R149) -/

def fnOut (opc : Nat) (fn : TFn) (p : PReg) (vd va : VReg) (ty : BitVec 3) (s : State) (id : Nat) : SlotOut :=
  let t := effectiveTy floatTypes 2 ty
  let f := match t.1 with | .ieee f => f | _ => .f32
  laneOut opc p vd (fun c => [vItem c va]) Config.latFn t.2 (fun c l => eachElem t.1 (fun a _ _ => f.fn fn a) (lane (readV c va) l) 0 0) s id

/-- VEXP2 (R147). (DEDUCED, log 17.) -/
def execVexp2 (p : PReg) (vd va : VReg) (ty : BitVec 3) (s : State) : Host.Outcome State Fault Refusal := runSlot s (fnOut 0x2D .exp2 p vd va ty)
/-- VLOG2 (R147). (DEDUCED, log 17.) -/
def execVlog2 (p : PReg) (vd va : VReg) (ty : BitVec 3) (s : State) : Host.Outcome State Fault Refusal := runSlot s (fnOut 0x2E .log2 p vd va ty)
/-- VRCP (R147). -/
def execVrcp (p : PReg) (vd va : VReg) (ty : BitVec 3) (s : State) : Host.Outcome State Fault Refusal := runSlot s (fnOut 0x2F .rcp p vd va ty)
/-- VRSQ (R147). -/
def execVrsq (p : PReg) (vd va : VReg) (ty : BitVec 3) (s : State) : Host.Outcome State Fault Refusal := runSlot s (fnOut 0x30 .rsq p vd va ty)
/-- VTANH (R147). (DEDUCED, log 17.) -/
def execVtanh (p : PReg) (vd va : VReg) (ty : BitVec 3) (s : State) : Host.Outcome State Fault Refusal := runSlot s (fnOut 0x31 .tanh p vd va ty)

/-- VSCAC (R149): va × vb + vd in f32, rounded once. -/
def execVscac (p : PReg) (vd va vb : VReg) (ty : BitVec 3) (s : State) : Host.Outcome State Fault Refusal :=
  runSlot s (laneOut 0x32 p vd (fun c => [vItem c va, vItem c vb, vItem c vd]) Config.latVmul (ty != 2)
    (fun c l => FFmt.f32.arith .fma .rne false (lane (readV c va) l) (lane (readV c vb) l) (lane (readV c vd) l)))

/-! ### PCOMMIT (R148, R266) -/

/-- The place in the pool of the landed entry of a transfer that landed first. -/
def landedEntry (pool : List PoolEntry) (uid xfer : Nat) : Option (Nat × PoolEntry) :=
  ((List.range pool.length).zip pool).find? (fun e => e.2.uid = uid && e.2.xfer = xfer && e.2.landed)

/-- The context has an MCALL that has issued and not ended (R148). -/
def mcallPending (k : Core) (uid : Nat) : Bool :=
  k.queue.any (fun o => o.opc = 1 && o.uid = uid) || (match k.mcall with | some r => r.op.uid = uid && r.op.opc = 1 | none => false)

/-- The transfer has not landed and is due (R148): the bundle holds at issue. -/
def transferDue (k : Core) (uid xfer : Nat) : Bool :=
  mcallPending k uid && (decide (k.pool.length < 4) || k.pool.any (fun e => e.uid = uid && e.xfer = xfer))

/-- POOL_UNCORRECTABLE of the values a PCOMMIT reads (R362, R368). The table gives bits [1:0] of the detail both to the part and to the slot: they are a free value. (DEDUCED, log 66.) -/
def poolPoison (s : State) (e : PoolEntry) (on : List Nat) (part : Nat) : Option Trap :=
  if on.any (fun l => e.bad.contains ((l * 64 + part) / 8)) then some (trapOf 0x4A (part / 4 * 4 + (Config.freeWord s.fresh).toNat % 4)) else none

/-- PCOMMIT (R148): its part of the entry counts as moved whatever the predicate reads (R266). (DESIGN CHOICE, log 83.) -/
def execPcommit (p : PReg) (vd : VReg) (part : BitVec 6) (sb : SReg) (_ty : BitVec 3) (s : State) : Host.Outcome State Fault Refusal :=
  runSlot s (fun s id =>
    let c := ctxOf s id
    let k := coreOf s (id / 4)
    let xfer := (readS c sb).toNat % 2 ^ 16
    vecSlot 0x33 p true c (fun o =>
      let o := { o with reads := o.reads ++ [sItem sb] }
      let on := activeLanes (readP c p)
      match landedEntry k.pool c.uid xfer with
      | some (i, e) =>
        let o := { o with effects := o.effects ++ [.commitPart i part.toNat], poison := poolPoison s e on part.toNat }
        vecWrite c vd Config.latMove 32 (on.map (fun l => (l, ⟨(tget 0 e.vals (l * 64 + part.toNat)).toNat, tget false e.sat (l * 64 + part.toNat), []⟩))) o
      | none => vecWrite c vd Config.latMove 32 (on.map (fun l => (l, plainRes 0))) { o with stall := transferDue k c.uid xfer }))

/-! ### Ranking (R150 to R152) -/

/-- A key's rank as a number: a greater one ranks first (R150). -/
def rankKey (f : NFmt) (k : Nat) : Int :=
  match f with
  | .int _ sg => intOf 32 sg k
  | _ =>
    let m : Nat := k % 2 ^ 31
    if 0x7F800000 < m then -(2 ^ 33) else if k.testBit 31 then -(m : Int) else (m : Int)

/-- Inserts into a list ranked by falling key, after its equals. -/
def insertRanked (x : Int × Nat) (l : List (Int × Nat)) : List (Int × Nat) :=
  match l with
  | [] => [x]
  | y :: r => if y.1 < x.1 then x :: y :: r else y :: insertRanked x r

/-- Lanes in ranked order: the greater key first, then the lower lane (R150). -/
def ranked (f : NFmt) (v : VWord) (on : List Nat) : List Nat := (on.foldl (fun acc l => insertRanked (rankKey f (lane v l), l) acc) []).map (·.2)

/-- VTOPK (R151): every lane of vd. -/
def execVtopk (p : PReg) (vd va vb : VReg) (ty : BitVec 3) (s : State) : Host.Outcome State Fault Refusal :=
  runSlot s (fun s id =>
    let c := ctxOf s id
    let t := effectiveTy rankTypes 2 ty
    vecSlot 0x34 p true c (fun o =>
      let order := ranked t.1 (readV c va) (activeLanes (readP c p))
      let out := order.map (fun l => lane (readV c vb) l) ++ List.replicate (128 - order.length) 0xFFFFFFFF
      fellBack (t.2 && o.active) (vecWrite c vd Config.latTopk 32 (allLanes.zip (out.map plainRes)) { o with reads := o.reads ++ [vItem c va, vItem c vb] })))

/-- The key that ranks last as a value (R152). -/
def lastKey (f : NFmt) : Nat :=
  match f with
  | .int _ true => 0x80000000
  | .int _ false => 0
  | _ => 0xFF800000

/-- VMAXI (R152): lanes 0 and 1 of vd. -/
def execVmaxi (p : PReg) (vd va vb : VReg) (ty : BitVec 3) (s : State) : Host.Outcome State Fault Refusal :=
  runSlot s (fun s id =>
    let c := ctxOf s id
    let t := effectiveTy rankTypes 2 ty
    vecSlot 0x35 p true c (fun o =>
      let r := match ranked t.1 (readV c va) (activeLanes (readP c p)) with
        | l :: _ => (lane (readV c va) l, lane (readV c vb) l)
        | [] => (lastKey t.1, 0xFFFFFFFF)
      fellBack (t.2 && o.active) (vecWrite c vd 1 32 [(0, plainRes r.1), (1, plainRes r.2)] { o with reads := o.reads ++ [vItem c va, vItem c vb] })))

/-! ### Predicates and lane transfers (R153 to R156) -/

def predOut (opc : Nat) (p pd pa pb : PReg) (two : Bool) (f : PWord → PWord → PWord) (s : State) (id : Nat) : SlotOut :=
  let c := ctxOf s id
  vecSlot opc p false c (fun o => predWrite c pd.toNat (readP c p) (f (readP c pa) (readP c pb)) { o with reads := o.reads ++ [pItem c pa] ++ (if two then [pItem c pb] else []) })

/-- PAND (R153). -/
def execPand (p pd pa pb : PReg) (s : State) : Host.Outcome State Fault Refusal := runSlot s (predOut 0x36 p pd pa pb true (· &&& ·))
/-- POR (R153). -/
def execPor (p pd pa pb : PReg) (s : State) : Host.Outcome State Fault Refusal := runSlot s (predOut 0x37 p pd pa pb true (· ||| ·))
/-- PXOR (R153). -/
def execPxor (p pd pa pb : PReg) (s : State) : Host.Outcome State Fault Refusal := runSlot s (predOut 0x38 p pd pa pb true (· ^^^ ·))
/-- PNOT (R153). -/
def execPnot (p pd pa : PReg) (s : State) : Host.Outcome State Fault Refusal := runSlot s (predOut 0x39 p pd pa 0 false (fun a _ => ~~~a))
/-- PMOV (R153). -/
def execPmov (p pd pa : PReg) (s : State) : Host.Outcome State Fault Refusal := runSlot s (predOut 0x3A p pd pa 0 false (fun a _ => a))

/-- PCNT (R154). -/
def execPcnt (p : PReg) (sd : SReg) (pa : PReg) (s : State) : Host.Outcome State Fault Refusal :=
  runSlot s (fun s id =>
    let c := ctxOf s id
    vecSlot 0x3B p false c (fun o =>
      { o with reads := o.reads ++ [pItem c pa], writes := o.writes ++ scalarItems sd,
               effects := o.effects ++ scalarEffects 1 sd (BitVec.ofNat 64 (activeLanes (readP c pa &&& readP c p)).length) }))

/-- VGET (R155): only when the predicate bit of the lane reads 1. -/
def execVget (p : PReg) (sd : SReg) (va : VReg) (ln : BitVec 7) (s : State) : Host.Outcome State Fault Refusal :=
  runSlot s (fun s id =>
    let c := ctxOf s id
    vecSlot 0x3C p false c (fun o =>
      let o := { o with reads := o.reads ++ [vItem c va] }
      if (readP c p).getLsbD ln.toNat then
        { o with writes := o.writes ++ scalarItems sd, effects := o.effects ++ scalarEffects Config.latMove sd (BitVec.ofNat 64 (lane (readV c va) ln.toNat)) }
      else o))

/-- VSET (R156): only when the predicate bit of the lane reads 1. -/
def execVset (p : PReg) (vd : VReg) (ln : BitVec 7) (sb : SReg) (s : State) : Host.Outcome State Fault Refusal :=
  runSlot s (fun s id =>
    let c := ctxOf s id
    vecSlot 0x3D p false c (fun o =>
      let o := { o with reads := o.reads ++ [sItem sb] }
      if (readP c p).getLsbD ln.toNat then vecWrite c vd Config.latMove 32 [(ln.toNat, plainRes (broadcast c sb))] o else o))

end Sys2Proof.Machine
end

