-- ==== Sys2Proof/Machine/Ompen.lean ====
section
/-! DEFINITION. The Ompen instruction set (R312 to R329), carried out by the kernel that runs on Lakebed core `Select.core`. -/

namespace Sys2Proof.Machine

/-! ### Registers (R312) -/

def readQ (k : Kernel) (r : QReg) : W64 := if r = 0 then 0 else tget 0 k.q r.toNat
def writeQ (k : Kernel) (r : QReg) (v : W64) : Kernel := if r = 0 then k else { k with q := tset k.q r.toNat v }
def readW (k : Kernel) (r : QReg) : OWord := tget 0 k.w r.toNat
def writeW (k : Kernel) (r : QReg) (v : OWord) : Kernel := { k with w := tset k.w r.toNat v }
/-- A lane mask; z0 is all ones. -/
def readZ (k : Kernel) (z : ZReg) : W16 := if z = 0 then BitVec.allOnes 16 else tget 0 k.z z.toNat
/-- Lane `j` of a vector register. -/
def oLane (v : OWord) (j : Nat) : Nat := v.toNat / 2 ^ (32 * j) % 2 ^ 32
/-- A vector register from its lanes. -/
def oWord (l : List Nat) : OWord := BitVec.ofNat 512 (l.foldr (fun x a => x % 2 ^ 32 + 2 ^ 32 * a) 0)
/-- The lanes written under a mask, the others kept (R322). -/
def maskedW (z : W16) (old : OWord) (f : Nat → Nat) : OWord := oWord ((List.range 16).map (fun j => if z.getLsbD j then f j else oLane old j))

/-! ### Running one instruction -/

/-- Runs an instruction of the running kernel: its result, or a wait, which leaves the kernel as it is, a park, or the kernel's end. A kernel parks once its earlier stores are performed (R337). -/
def runOmpen (s : State) (f : State → Nat → Kernel → LRes Kernel) : Host.Outcome State Fault Refusal :=
  let i := s.sel.core
  match (lakeOf s i).run with
  | none => .next s
  | some k =>
    match f s i k with
    | (s', .ok k) => .next (setRun s' i (some k))
    | (s', .error .wait) => .next s'
    | (s', .error (.park b e h off)) => .next (if pendingStores s k then s else saveKernel s' i k (some (b, e, h, off)))
    | (s', .error (.fault f)) => .next (endKernel s' i k (some f) 0)

/-- The kernel at its next word; the PC wraps (R312). -/
def Kernel.step (k : Kernel) : Kernel := { k with pc := k.pc + 1 }

/-- An instruction on registers alone. -/
def regOmpen (s : State) (f : Kernel → Kernel) : Host.Outcome State Fault Refusal := runOmpen s (fun s _ k => (s, .ok (f k).step))

/-- The kernel ends with RESERVED_FIELD (R315). -/
def reservedOmpen {α : Type} (s : State) (k : Kernel) : LRes α := (s, .error (.fault (programFault s k 0x04 none 0)))

/-! ### Scalar arithmetic (R316) -/

def aluOmpen (s : State) (d a b : QReg) (f : W64 → W64 → W64) : Host.Outcome State Fault Refusal := regOmpen s (fun k => writeQ k d (f (readQ k a) (readQ k b)))

/-- ADD (R316). -/
def execOmpenAdd (d a b : QReg) (s : State) : Host.Outcome State Fault Refusal := aluOmpen s d a b (fun x y => x + y)
/-- SUB (R316). -/
def execOmpenSub (d a b : QReg) (s : State) : Host.Outcome State Fault Refusal := aluOmpen s d a b (fun x y => x - y)
/-- AND (R316). -/
def execOmpenAnd (d a b : QReg) (s : State) : Host.Outcome State Fault Refusal := aluOmpen s d a b (fun x y => x &&& y)
/-- OR (R316). -/
def execOmpenOr (d a b : QReg) (s : State) : Host.Outcome State Fault Refusal := aluOmpen s d a b (fun x y => x ||| y)
/-- XOR (R316). -/
def execOmpenXor (d a b : QReg) (s : State) : Host.Outcome State Fault Refusal := aluOmpen s d a b (fun x y => x ^^^ y)
/-- SHL (R316): the count modulo 64. -/
def execOmpenShl (d a b : QReg) (s : State) : Host.Outcome State Fault Refusal := aluOmpen s d a b (fun x y => x <<< (y.toNat % 64))
/-- SHR (R316). -/
def execOmpenShr (d a b : QReg) (s : State) : Host.Outcome State Fault Refusal := aluOmpen s d a b (fun x y => x >>> (y.toNat % 64))
/-- SRA (R316). -/
def execOmpenSra (d a b : QReg) (s : State) : Host.Outcome State Fault Refusal := aluOmpen s d a b (fun x y => x.sshiftRight (y.toNat % 64))
/-- MUL (R316): the low 64 bits. -/
def execOmpenMul (d a b : QReg) (s : State) : Host.Outcome State Fault Refusal := aluOmpen s d a b (fun x y => x * y)
/-- MIN (R316): signed. -/
def execOmpenMin (d a b : QReg) (s : State) : Host.Outcome State Fault Refusal := aluOmpen s d a b (fun x y => if x.sle y then x else y)
/-- MAX (R316): signed. -/
def execOmpenMax (d a b : QReg) (s : State) : Host.Outcome State Fault Refusal := aluOmpen s d a b (fun x y => if x.sle y then y else x)
/-- MINN (R316): unsigned. -/
def execOmpenMinn (d a b : QReg) (s : State) : Host.Outcome State Fault Refusal := aluOmpen s d a b (fun x y => if x.toNat ≤ y.toNat then x else y)
/-- MAXN (R316): unsigned. -/
def execOmpenMaxn (d a b : QReg) (s : State) : Host.Outcome State Fault Refusal := aluOmpen s d a b (fun x y => if x.toNat ≤ y.toNat then y else x)
/-- ADDI (R316). -/
def execOmpenAddi (d a : QReg) (imm : BitVec 18) (s : State) : Host.Outcome State Fault Refusal := regOmpen s (fun k => writeQ k d (readQ k a + imm.signExtend 64))
/-- ANDI (R316). -/
def execOmpenAndi (d a : QReg) (imm : BitVec 18) (s : State) : Host.Outcome State Fault Refusal := regOmpen s (fun k => writeQ k d (readQ k a &&& imm.signExtend 64))
/-- SHLI (R316). -/
def execOmpenShli (d a : QReg) (n : BitVec 6) (s : State) : Host.Outcome State Fault Refusal := regOmpen s (fun k => writeQ k d (readQ k a <<< n.toNat))
/-- SHRI (R316). -/
def execOmpenShri (d a : QReg) (n : BitVec 6) (s : State) : Host.Outcome State Fault Refusal := regOmpen s (fun k => writeQ k d (readQ k a >>> n.toNat))
/-- SRAI (R316). -/
def execOmpenSrai (d a : QReg) (n : BitVec 6) (s : State) : Host.Outcome State Fault Refusal := regOmpen s (fun k => writeQ k d ((readQ k a).sshiftRight n.toNat))
/-- LUI (R316). -/
def execOmpenLui (d : QReg) (imm : BitVec 22) (s : State) : Host.Outcome State Fault Refusal := regOmpen s (fun k => writeQ k d (imm.signExtend 64 <<< 18))

/-! ### Branches and status (R317, R318) -/

/-- The kernel `disp` words on when the condition holds, else at its next word. -/
def branchOmpen (s : State) (a b : QReg) (disp : BitVec 15) (c : W64 → W64 → Bool) : Host.Outcome State Fault Refusal :=
  runOmpen s (fun s _ k => (s, .ok (if c (readQ k a) (readQ k b) then { k with pc := k.pc + disp.truncate 14 } else k.step)))

/-- BEQ (R317). -/
def execBeq (a b : QReg) (disp : BitVec 15) (s : State) : Host.Outcome State Fault Refusal := branchOmpen s a b disp (fun x y => x == y)
/-- BNE (R317). -/
def execBne (a b : QReg) (disp : BitVec 15) (s : State) : Host.Outcome State Fault Refusal := branchOmpen s a b disp (fun x y => x != y)
/-- BLT (R317). -/
def execBlt (a b : QReg) (disp : BitVec 15) (s : State) : Host.Outcome State Fault Refusal := branchOmpen s a b disp (fun x y => x.slt y)
/-- BGE (R317). -/
def execBge (a b : QReg) (disp : BitVec 15) (s : State) : Host.Outcome State Fault Refusal := branchOmpen s a b disp (fun x y => y.sle x)
/-- BLTN (R317). -/
def execBltn (a b : QReg) (disp : BitVec 15) (s : State) : Host.Outcome State Fault Refusal := branchOmpen s a b disp (fun x y => x.ult y)
/-- BGEN (R317). -/
def execBgen (a b : QReg) (disp : BitVec 15) (s : State) : Host.Outcome State Fault Refusal := branchOmpen s a b disp (fun x y => y.ule x)
/-- JMP (R317). -/
def execJmp (disp : BitVec 26) (s : State) : Host.Outcome State Fault Refusal := runOmpen s (fun s _ k => (s, .ok { k with pc := k.pc + disp.truncate 14 }))
/-- LOOP (R317); naming q0 is reserved. -/
def execLoop (a : QReg) (disp : BitVec 15) (s : State) : Host.Outcome State Fault Refusal :=
  runOmpen s (fun s _ k =>
    if a = 0 then reservedOmpen s k
    else
      let v := readQ k a - 1
      let k := writeQ k a v
      (s, .ok (if v != 0 then { k with pc := k.pc + disp.truncate 14 } else k.step)))

/-- RDS (R318). -/
def execRds (d : QReg) (code : BitVec 4) (s : State) : Host.Outcome State Fault Refusal :=
  runOmpen s (fun s i k =>
    let v : Option Nat := match code.toNat with
      | 0 => some i
      | 1 => some (cyclesRun s k)
      | 2 => some k.entry
      | 3 => some k.cls
      | _ => none
    match v with
    | some v => (s, .ok (writeQ k d (BitVec.ofNat 64 v)).step)
    | none => reservedOmpen s k)

/-! ### Local SRAM and extents (R319, R320) -/

/-- A byte of local SRAM; a granule not written since dispatch reads zero (R310). -/
def sramByte (k : Kernel) (a : Nat) : Byte := (tget [] k.sram (a / 128)).getD (a % 128) 0
def sramBytes (k : Kernel) (a n : Nat) : List Byte := (List.range n).map (fun i => sramByte k (a + i))
/-- Stores bytes into local SRAM; the granules they lie in become valid, and sectors stored whole lose their poison (R310, R370). -/
def sramStore (k : Kernel) (a : Nat) (data : List Byte) : Kernel :=
  if data.isEmpty then k
  else
    let grans := (List.range ((a % 128 + data.length + 127) / 128)).map (fun i => a / 128 + i)
    { k with bad := k.bad.filter (fun n => !(decide (a ≤ 32 * n) && decide (32 * n + 32 ≤ a + data.length))), sram := grans.foldl (fun t g => tset t g ((List.range 128).map (fun j =>
        let x := g * 128 + j
        if a ≤ x && x < a + data.length then data.getD (x - a) 0 else (tget [] k.sram g).getD j 0))) k.sram }

/-- The offset of an access (R319). -/
def offOmpen (k : Kernel) (a : QReg) (imm scale : Nat) : Nat := ((readQ k a).toNat + imm * scale) % 2 ^ 64

/-- A local range is aligned and within the SRAM. -/
def localOmpen {α : Type} (s : State) (k : Kernel) (off len align : Nat) (f : LRes α) : LRes α :=
  if off % align != 0 then (s, .error (.fault (programFault s k 0x25 (some 15) off)))
  else if Config.lakeSramBytes < off + len then (s, .error (.fault (programFault s k 0x24 (some 15) off)))
  else f

/-- Bytes of local SRAM that are read hold no poison (R362, R370). (DEDUCED, log 66.) -/
def cleanOmpen {α : Type} (s : State) (k : Kernel) (off len : Nat) (f : LRes α) : LRes α :=
  match (List.range len).find? (fun i => k.bad.contains ((off + i) / 32)) with
  | some i => (s, .error (.fault (programFault s k 0x4D (some 15) (off + i))))
  | none => f

/-- The checks of an extent access, and its extent (R319). -/
def extentOmpen (s : State) (k : Kernel) (e off len align : Nat) : LRes Extent :=
  let x := tget Extent.unbound k.e e
  if !x.valid then (s, .error (.fault (programFault s k 0x23 (some e) off)))
  else if off % align != 0 then (s, .error (.fault (programFault s k 0x25 (some e) off)))
  else if x.extent < off + len then (s, .error (.fault (programFault s k 0x24 (some e) off)))
  else (s, .ok x)

/-- Reads bytes through an extent. -/
def extentRead (s : State) (i : Nat) (k : Kernel) (e off len align : Nat) : LRes (List Byte) :=
  LRes.andThen (extentOmpen s k e off len align) (fun s x => lakeRead s i k e x.handle x.tid x.vbase off len)

/-- Issues a store through an extent. -/
def extentStore (s : State) (i : Nat) (k : Kernel) (e off : Nat) (data : List Byte) (flag : Bool) : LRes Kernel :=
  LRes.andThen (extentOmpen s k e off data.length data.length) (fun s x =>
  LRes.andThen (lakePlace s i k e x.handle x.tid x.vbase off data.length 2) (fun s segs =>
    (if data.length ≤ 32 then lakeIssue s i k x.handle x.tid off segs data flag else lakeStore s i k x.handle x.tid off segs data, .ok k.step)))

def bytesQ (v : W64) (n : Nat) : List Byte := leBytes v.toNat n
def bytesW (v : OWord) : List Byte := leBytes v.toNat 64
def ofBytesQ (l : List Byte) : W64 := BitVec.ofNat 64 (leNat l)
def ofBytesW (l : List Byte) : OWord := BitVec.ofNat 512 (leNat l)

/-- LD (R319). -/
def execLd (d a : QReg) (size : BitVec 2) (imm : BitVec 13) (s : State) : Host.Outcome State Fault Refusal :=
  runOmpen s (fun s _ k =>
    let n := 2 ^ size.toNat
    let off := offOmpen k a imm.toNat n
    localOmpen s k off n n (cleanOmpen s k off n (s, .ok (writeQ k d (ofBytesQ (sramBytes k off n))).step)))
/-- ST (R319). -/
def execSt (d a : QReg) (size : BitVec 2) (imm : BitVec 13) (s : State) : Host.Outcome State Fault Refusal :=
  runOmpen s (fun s _ k =>
    let n := 2 ^ size.toNat
    let off := offOmpen k a imm.toNat n
    localOmpen s k off n n (s, .ok (sramStore k off (bytesQ (readQ k d) n)).step))
/-- LDX (R319). -/
def execLdx (d a : QReg) (e : EReg) (size : BitVec 2) (imm : BitVec 13) (s : State) : Host.Outcome State Fault Refusal :=
  runOmpen s (fun s i k =>
    let n := 2 ^ size.toNat
    LRes.andThen (extentRead s i k e.toNat (offOmpen k a imm.toNat n) n n) (fun s l => (s, .ok (writeQ k d (ofBytesQ l)).step)))
/-- STX (R319). -/
def execStx (d a : QReg) (e : EReg) (size : BitVec 2) (imm : BitVec 13) (s : State) : Host.Outcome State Fault Refusal :=
  runOmpen s (fun s i k =>
    let n := 2 ^ size.toNat
    extentStore s i k e.toNat (offOmpen k a imm.toNat n) (bytesQ (readQ k d) n) false)
/-- WLD (R319). -/
def execWld (d a : QReg) (imm : BitVec 13) (s : State) : Host.Outcome State Fault Refusal :=
  runOmpen s (fun s _ k =>
    let off := offOmpen k a imm.toNat 64
    localOmpen s k off 64 64 (cleanOmpen s k off 64 (s, .ok (writeW k d (ofBytesW (sramBytes k off 64))).step)))
/-- WST (R319). -/
def execWst (d a : QReg) (imm : BitVec 13) (s : State) : Host.Outcome State Fault Refusal :=
  runOmpen s (fun s _ k =>
    let off := offOmpen k a imm.toNat 64
    localOmpen s k off 64 64 (s, .ok (sramStore k off (bytesW (readW k d))).step))
/-- WLDX (R319). -/
def execWldx (d a : QReg) (e : EReg) (imm : BitVec 13) (s : State) : Host.Outcome State Fault Refusal :=
  runOmpen s (fun s i k => LRes.andThen (extentRead s i k e.toNat (offOmpen k a imm.toNat 64) 64 64) (fun s l => (s, .ok (writeW k d (ofBytesW l)).step)))
/-- WSTX (R319). -/
def execWstx (d a : QReg) (e : EReg) (imm : BitVec 13) (s : State) : Host.Outcome State Fault Refusal :=
  runOmpen s (fun s i k => extentStore s i k e.toNat (offOmpen k a imm.toNat 64) (bytesW (readW k d)) false)
/-- FLAGST (R320). -/
def execFlagst (q a : QReg) (e : EReg) (s : State) : Host.Outcome State Fault Refusal :=
  runOmpen s (fun s i k => extentStore s i k e.toNat (readQ k a).toNat (bytesQ (readQ k q) 4) true)

/-! ### Vector instructions (R322 to R324) -/

/-- The lane type of a code (R313). -/
def tyOmpen (ty : BitVec 3) : Option NFmt :=
  match ty.toNat with
  | 0 => some (.int 32 true)
  | 1 => some (.int 32 false)
  | 2 => some (.ieee .f32)
  | _ => none

/-- A masked lane-wise operation (R322). -/
def laneOmpen (s : State) (d a b : QReg) (z : ZReg) (ty : BitVec 3) (op : VOp) : Host.Outcome State Fault Refusal :=
  runOmpen s (fun s _ k =>
    match tyOmpen ty with
    | none => reservedOmpen s k
    | some f => (s, .ok (writeW k d (maskedW (readZ k z) (readW k d) (fun j => (VOp.elem op f (oLane (readW k a) j) (oLane (readW k b) j) (oLane (readW k d) j)).code))).step))

/-- WFMA (R322). -/
def execWfma (d a b : QReg) (z : ZReg) (ty : BitVec 3) (s : State) : Host.Outcome State Fault Refusal := laneOmpen s d a b z ty .fma
/-- WADD (R322). -/
def execWadd (d a b : QReg) (z : ZReg) (ty : BitVec 3) (s : State) : Host.Outcome State Fault Refusal := laneOmpen s d a b z ty .add
/-- WMIN (R322). -/
def execWmin (d a b : QReg) (z : ZReg) (ty : BitVec 3) (s : State) : Host.Outcome State Fault Refusal := laneOmpen s d a b z ty .min
/-- WMAX (R322). -/
def execWmax (d a b : QReg) (z : ZReg) (ty : BitVec 3) (s : State) : Host.Outcome State Fault Refusal := laneOmpen s d a b z ty .max

/-- The conversion of a lane (R323). -/
def convOmpen (fn x : Nat) : Nat :=
  if fn = 0 then (convertCode (.int 32 true) (.ieee .f32) .rne false false x).code
  else if fn = 1 then (convertCode (.ieee .f32) (.int 32 true) .rne false false x).code
  else if fn = 2 then (convertCode (.ieee .bf16) (.ieee .f32) .rne false false (x % 2 ^ 16)).code
  else (convertCode (.ieee .f32) (.ieee .bf16) .rne false false x).code

/-- WCVT (R323). -/
def execWcvt (d a : QReg) (z : ZReg) (fn : BitVec 4) (s : State) : Host.Outcome State Fault Refusal :=
  runOmpen s (fun s _ k =>
    if 4 ≤ fn.toNat then reservedOmpen s k
    else (s, .ok (writeW k d (maskedW (readZ k z) (readW k d) (fun j => convOmpen fn.toNat (oLane (readW k a) j)))).step))
/-- WBCAST (R324). -/
def execWbcast (d a : QReg) (z : ZReg) (s : State) : Host.Outcome State Fault Refusal :=
  regOmpen s (fun k => writeW k d (maskedW (readZ k z) (readW k d) (fun _ => (readQ k a).toNat % 2 ^ 32)))
/-- WGET (R324). -/
def execWget (d a lane : QReg) (s : State) : Host.Outcome State Fault Refusal :=
  regOmpen s (fun k => writeQ k d (BitVec.ofNat 64 (oLane (readW k a) lane.toNat)))

/-- The order of two lanes; none when they are unordered. -/
def orderOmpen (f : NFmt) (x y : Nat) : Option Ordering :=
  match f with
  | .int w sg => some (compare (intOf w sg x) (intOf w sg y))
  | _ => FVal.order (FFmt.f32.decode x) (FFmt.f32.decode y)

/-- A condition of WCMP (R324). -/
def condOmpen (cc : Nat) (o : Option Ordering) : Bool :=
  match o with
  | none => cc = 1
  | some o => match cc with
    | 0 => o == .eq
    | 1 => o != .eq
    | 2 => o == .lt
    | 3 => o != .lt
    | 4 => o != .gt
    | _ => o == .gt

/-- WCMP (R324): d names z1 to z3. -/
def execWcmp (d a b : QReg) (z : ZReg) (cc ty : BitVec 3) (s : State) : Host.Outcome State Fault Refusal :=
  runOmpen s (fun s _ k =>
    match tyOmpen ty with
    | none => reservedOmpen s k
    | some f =>
      if d.toNat = 0 || 4 ≤ d.toNat || 6 ≤ cc.toNat then reservedOmpen s k
      else
        let old := tget 0 k.z d.toNat
        let m := readZ k z
        let v := (List.range 16).foldr (fun j acc => (if m.getLsbD j then condOmpen cc.toNat (orderOmpen f (oLane (readW k a) j) (oLane (readW k b) j)) else old.getLsbD j).toNat * 2 ^ j + acc) 0
        (s, .ok { k with z := tset k.z d.toNat (BitVec.ofNat 16 v) }.step))

/-- WRED (R324); no rule asks anything of its b field. -/
def execWred (d a _b : QReg) (z : ZReg) (fn : BitVec 4) (ty : BitVec 3) (s : State) : Host.Outcome State Fault Refusal :=
  runOmpen s (fun s _ k =>
    match tyOmpen ty with
    | none => reservedOmpen s k
    | some f =>
      if 3 ≤ fn.toNat then reservedOmpen s k
      else
        let r := redFnOf fn.toNat
        let leaves := (List.range 16).map (fun j => plainRes (if (readZ k z).getLsbD j then oLane (readW k a) j else r.identity f))
        let v := (((treeLevels (r.node f) leaves 4).getLastD []).headD (plainRes 0)).code % 2 ^ 32
        (s, .ok (writeQ k d (if ty = 0 then BitVec.ofInt 64 (sextNat 32 v) else BitVec.ofNat 64 v)).step))

/-! ### Selection and sectors (R325 to R329) -/

/-- The destination bytes of a selection instruction may not meet its source bytes (R325). -/
def apartOmpen {α : Type} (s : State) (k : Kernel) (src dst : List (Nat × Nat)) (f : LRes α) : LRes α :=
  if src.any (fun x => dst.any (fun y => meets x.1 (x.1 + x.2) y.1 (y.1 + y.2))) then reservedOmpen s k else f

/-- TOPK (R326). -/
def execTopk (d a b : QReg) (ty : BitVec 3) (s : State) : Host.Outcome State Fault Refusal :=
  runOmpen s (fun s _ k =>
    let n := (readQ k b).toNat % 2 ^ 32
    let m := bitsOf (readQ k b).toNat 32 32
    let src := (readQ k a).toNat
    let dst := (readQ k d).toNat
    match tyOmpen ty with
    | none => reservedOmpen s k
    | some f =>
      if n = 0 || 131072 < n || m = 0 || 65536 < m then reservedOmpen s k
      else
        localOmpen s k src (4 * n) 4 (localOmpen s k dst (4 * m) 4 (apartOmpen s k [(src, 4 * n)] [(dst, 4 * m)] (cleanOmpen s k src (4 * n) (
          let keys := (elemCodes 4 (sramBytes k src (4 * n)) n).map (rankKey f)
          let order := ((keys.zip (List.range n)).foldl (fun acc x => insertRanked x acc) []).map (·.2)
          (s, .ok (sramStore k dst ((List.range m).flatMap (fun j => leBytes (order.getD j 0xFFFFFFFF) 4))).step))))))

/-- SECTCMP (R327): q[b] receives C. -/
def execSectcmp (d a b : QReg) (s : State) : Host.Outcome State Fault Refusal :=
  runOmpen s (fun s i k =>
    let src := (readQ k a).toNat
    let dst := (readQ k d).toNat
    localOmpen s k src 512 32 (cleanOmpen s k src 512 (
      let data := sramBytes k src 512
      let out : List Byte × Nat := match encodeBlock data with
        | some (codes, payload) =>
          let c := chunkCount payload
          (tailBytes codes c 0 0 [] (marker s (i / 8)) ++ payload ++ List.replicate (32 * c - payload.length) 0, c)
        | none => (data, 16)
      localOmpen s k dst out.1.length 32 (apartOmpen s k [(src, 512)] [(dst, out.1.length)] (s, .ok (writeQ (sramStore k dst out.1) b (BitVec.ofNat 64 out.2)).step)))))

/-- SECTEXP (R328). -/
def execSectexp (d a b : QReg) (s : State) : Host.Outcome State Fault Refusal :=
  runOmpen s (fun s i k =>
    let src := (readQ k a).toNat
    let dst := (readQ k d).toNat
    let on := (List.range 16).filter (fun j => (readQ k b).getLsbD j)
    localOmpen s k src 32 32 (cleanOmpen s k src 32 (
      let t := parseTail (sramBytes k src 32)
      if t.mark != marker s (i / 8) || decide (32 * t.chunks < payloadStart t.codes 16) || decide (15 < t.chunks) then (s, .error (.fault (programFault s k 0x44 (some 15) src)))
      else
        localOmpen s k src (32 + 32 * t.chunks) 32 (cleanOmpen s k src (32 + 32 * t.chunks) (
          match on.find? (fun j => decide (Config.lakeSramBytes < dst + 32 * j + 32)) with
          | some j => (s, .error (.fault (programFault s k 0x24 (some 15) (dst + 32 * j))))
          | none =>
            apartOmpen s k [(src, 32 + 32 * t.chunks)] (on.map (fun j => (dst + 32 * j, 32))) (
              let payload := sramBytes k (src + 32) (32 * t.chunks)
              let sector (j : Nat) : List Byte := decodeSector (codeOf t.codes j) ((payload.drop (payloadStart t.codes j)).take (codeLength (codeOf t.codes j)))
              (s, .ok (on.foldl (fun k j => sramStore k (dst + 32 * j) (sector j)) k).step)))))))

/-- The rows of a bag through an extent, one after another: a row that has been read stands in the kernel when a later one has to wait for its translation. -/
def extentRows (s : State) (i : Nat) (k : Kernel) (e len align : Nat) (offs : List Nat) : LRes (List (List Byte)) :=
  match LRes.each (fun (r : FwRun) off => fwOnce r (fun r => r.lift (fun s => extentRead s i k e off len align))) ⟨s, k.reads, []⟩ offs with
  | (r, .error .wait) => (setRun r.s i (some { k with reads := r.got }), .error .wait)
  | (r, x) => (r.s, x)

/-- IRED (R329): one bag from local SRAM, its rows through extent e, its f32 row to local SRAM. -/
def execIred (d a b : QReg) (e : EReg) (s : State) : Host.Outcome State Fault Refusal :=
  runOmpen s (fun s i k =>
    if 13 < b.toNat then reservedOmpen s k
    else
      let p0 := (readQ k b).toNat
      let base := (readQ k (b + 1)).toNat
      let stride := (readQ k (b + 2)).toNat
      let n := p0 % 2 ^ 32
      let fmt := bitsOf p0 32 2
      let size := if fmt = 1 then 2 else 4
      let src := (readQ k a).toNat
      let dst := (readQ k d).toNat
      if n = 0 || 4096 < n || 2 ≤ fmt || bitsOf p0 34 30 != 0 then reservedOmpen s k
      else
        localOmpen s k src 4 4 (cleanOmpen s k src 4 (
          let hd := leNat (sramBytes k src 4)
          let m := hd % 2 ^ 16
          let len := 4 + 4 * m * (if hd.testBit 16 then 2 else 1)
          if 2 ^ 17 ≤ hd then reservedOmpen s k
          else
            localOmpen s k src len 4 (localOmpen s k dst (4 * n) 1 (apartOmpen s k [(src, len)] [(dst, 4 * n)] (cleanOmpen s k src len (
              let bag := bagOf m (hd.testBit 16) (sramBytes k (src + 4) (len - 4))
              let off (r : Nat) : Nat := (base + r * stride) % 2 ^ 64
              LRes.andThen (LRes.each (fun s r => extentOmpen s k e.toNat (off r) (n * size) size) s bag.idx) (fun s _ =>
              LRes.andThen (extentRows s i k e.toNat (n * size) size (bag.idx.map off)) (fun s rows =>
                (s, .ok { (sramStore k dst (bagRow bag.weights (rows.map (fun l => bagCodes (fmt = 1) l n)) n)).step with reads := [] })))))))))
)

/-! ### Order and the end (R309, R311, R315, R320) -/

/-- NOP (R314). -/
def execOmpenNop (s : State) : Host.Outcome State Fault Refusal := regOmpen s id
/-- FENCE (R320): it waits for the kernel's earlier extent accesses. -/
def execOmpenFence (s : State) : Host.Outcome State Fault Refusal := runOmpen s (fun s _ k => if pendingStores s k then (s, .error .wait) else (s, .ok k.step))

/-- YIELD (R309): the kernel leaves its core to a waiting one of its class or above, once its stores are performed. -/
def execYield (s : State) : Host.Outcome State Fault Refusal :=
  let i := s.sel.core
  match (lakeOf s i).run with
  | none => .next s
  | some k =>
    if !classWaits s i k.cls true then .next (setRun s i (some k.step))
    else if pendingStores s k then .next s
    else .next (saveKernel s i k.step none)

/-- DONE (R311, R320): a release at DEV, then the kernel's end. -/
def execDone (s : State) : Host.Outcome State Fault Refusal :=
  let i := s.sel.core
  match (lakeOf s i).run with
  | none => .next s
  | some k => .next (if pendingStores s k then s else endKernel s i k none ((readQ k 15).toNat % 2 ^ 16))

/-- OMPEN_ILLEGAL_OPCODE (R315): the word at the kernel's PC has an unassigned opcode. -/
def execOmpenIllegalOpcode (s : State) : Host.Outcome State Fault Refusal :=
  match (lakeOf s s.sel.core).run with
  | none => .next s
  | some k =>
    match decodeOmpen (tget 0 (lakeOf s s.sel.core).istore k.pc.toNat).toNat with
    | .error .illegalOpcode => .next (lakeFault s s.sel.core 0x01)
    | _ => .next s

end Sys2Proof.Machine
end

