-- ==== Sys2Proof/Machine/Sched.lean ====
section
/-! DEFINITION. Which context of a core issues next (R32, R158), fetching its bundle (R168, R169), the nullifier's decision (R28) and the fallback of unused extension bytes (R55, R56); and the rows of instruction fetch and debug boundaries. -/

namespace Sys2Proof.Machine

/-- The event that ends a block has occurred (R158). -/
def blockOver (s : State) (id : Nat) (b : Block) : Bool :=
  let c := ctxOf s id
  let core := id / 4
  match b with
  | .engineQueue => decide ((coreOf s core).queue.length < 32)
  | .token k => (readK c k).st != .pend
  | .ring r th => decide (th ≤ ((ringOf s r).write - (ringOf s r).read).toNat) || !(ringOf s r).cfg.getLsbD 63
  | .arrival g gen => (groupOf s g).gen != BitVec.ofNat 16 gen || !(groupOf s g).arrived.getLsbD core
  | .reach g t => reached (groupOf s g).gen t
  | .interlock items => let m := markedItems s c.uid; items.all (fun i => !m.contains i)
  | .suspended p t => c.pendFail.isSome || !(s.recomputes.any (fun r => r.part = p && r.tid = t))
  | .held p t => !(s.acts.any (fun a => a.part = p)) && !(partOf s p).checkpoint && !(match tensorOf s p t with | some x => x.busy | none => false)
  | .segment k n => c.pendFail.isSome || (coreOf s core).frames.any (fun e => e.2.ktab = k && e.2.seg = n) || !((coreOf s core).copying.any (fun y => y.ktab = k && y.seg = n))
  | .wake => c.wake
  | .walk tlb page => c.pendFail.isSome || !(s.walks.any (fun w => w.tlb = tlb && w.joined.any (fun j => j.unit * 4 + j.need = page)))
  | .report p q => c.pendFail.isSome || !(s.reports.any (fun r => r.part = p && r.seq = q))
  | .split _ => c.splitDone || !(s.splits.any (fun r => r.uid = c.uid))
  | .tokens => c.k.all (fun e => e.2.st != .pend)
  | .release => releaseReady s c.uid 4 s.fresh && !spawning s c.uid
  | .record => c.spawned.isSome
  | .turn => true

/-- A boundary trap is due, the context has entered its handler and issued nothing there, or its ERET has yet to return: a request to pre-empt it is taken at the next boundary (R24, R357). -/
def entering (c : Ctx) : Bool := c.boundary.isSome || c.returning || (c.mode && c.trapq && c.hcount = 0 && c.block.isNone)

/-- A context that is ready to issue (R158): it has a task, has not halted, is not asked to stop, or cannot be saved yet (R357, R393, R396), and its block, if any, has ended. -/
def ready (s : State) (id : Nat) : Bool :=
  let c := ctxOf s id
  c.running && !c.halted && (c.preq.isNone || decide (10 < saveDemand s id) || entering c) && (match c.block with | none => true | some b => blockOver s id b)

/-- The context that issues: the current one until it blocks, else the next ready one in cyclic order (R32, R158). -/
def pickContext (s : State) (core : Nat) : Option (Nat × State) :=
  let cur := (coreOf s core).cur
  let c := ctxOf s (ctxId core cur)
  if ready s (ctxId core cur) && c.block.isNone then some (cur, s)
  else
    match [1, 2, 3, 4].find? (fun i => ready s (ctxId core ((cur + i) % 4))) with
    | none => none
    | some i =>
      let x := (cur + i) % 4
      some (x, modCtx (modCore s core (fun k => { k with cur := x })) (ctxId core x) (fun c => { c with block := none }))

/-- What fetching a context's next bundle gives. -/
inductive Fetch where
  | blocked (s : State)
  | trap (s : State) (t : Trap)
  | word (s : State) (w : Nat)

/-- A recipe's task has left the bundles of its recipe (R386). -/
def outOfRecipe (s : State) (c : Ctx) : Bool :=
  match opOf s c.op with
  | some o => (match o.bounds with | some (lo, hi) => decide (c.pc.toNat < lo) || decide (hi ≤ c.pc.toNat) | none => false)
  | none => false

/-- The page of the segment table at `va` is not present, and the page-fault service runs (R366): the context waits for its report, and meets the failure it was given. -/
def missingTable (s : State) (id ktab seg va : Nat) : Fetch :=
  let fail (s : State) (inner : Nat) : Fetch := .trap s (trapOf 0x0B (inner * 64 + seg))
  match (ctxOf s id).pendFail.filter (fun f => f.2.1 = 0 && f.2.2.1 = va / 65536) with
  | some (cause, _, _, _) => fail (modCtx s id (fun c => { c with pendFail := none })) cause
  | none =>
    match joinReport s (partOfCore s (id / 4)) va ktab 2 with
    | some (seq, s) => .blocked (blockCtx s id (.report (partOfCore s (id / 4)) seq))
    | none => fail s 0x2F

/-- Fetches the bundle at the context's PC (R168, R169): a recipe's task that leaves its recipe fails the recipe; an absent segment starts a copy and blocks; an absent table entry or an offset beyond its length traps. -/
def fetchBundle (s : State) (id : Nat) : Fetch :=
  let c := ctxOf s id
  let core := id / 4
  let seg := c.pc.toNat / 4096
  let off := c.pc.toNat % 4096
  let ktab := ktabOf s id
  if outOfRecipe s c then .blocked (failOp s c.op 0x06 seg)
  else
    match (coreOf s core).frames.find? (fun e => e.2.ktab = ktab && e.2.seg = seg) with
    | some e =>
      match nth e.2.code off with
      | some w => .word s w.toNat
      | none => .trap s (trapOf 0x06 seg)
    | none =>
      match c.pendFail.filter (fun f => decide (f.1 ≤ 0x0B)) with
      | some (cause, _, _, inner) => .trap (modCtx s id (fun c => { c with pendFail := none })) (trapOf cause (inner * 64 + seg))
      | none =>
        match tableMissing s (partOfCore s core) ktab seg, segEntry s (partOfCore s core) ktab seg with
        | some va, _ => missingTable s id ktab seg va
        | none, .error t => .trap s t
        | none, .ok (_, _, len) =>
          if len ≤ off then .trap s (trapOf 0x06 seg)
          else .blocked (blockCtx (startSegCopy s id seg true) id (.segment ktab seg))

/-- A slot of A, B or D does nothing for the nullifier: it is empty, a header, or its guard reads 0 (R28). -/
def slotQuiet (c : Ctx) (w : Nat) : Bool := opcodeOf w = 0 || opcodeOf w = 0x7E || !readG c (fld w 21 4)

/-- The bundle is one the nullifier skips (R28): every slot does nothing, and no pending or interlocked guard has to be waited for (R23, R27). -/
def skippable (s : State) (id : Nat) (b : Bundle) : Bool :=
  let c := ctxOf s id
  let word (i : Nat) : Nat := b.words.getD i 0
  let guards := [0, 1, 3].filterMap (fun i => if opcodeOf (word i) = 0 || opcodeOf (word i) = 0x7E then none else some (fld (word i) 21 4).toNat)
  let marked := markedItems s c.uid
  slotQuiet c (word 0) && slotQuiet c (word 1) && slotQuiet c (word 3) && (opcodeOf (word 2) = 0 || (fld (word 2) 21 4 : PReg) = 1)
  && guards.all (fun g => !marked.contains (1, g)) && !(c.pendchk && (guards.any (fun g => itemPending c (1, g)) || itemPending c (3, 1)))

/-- A nonzero extension byte for a slot whose instruction consumes none: ignored, with WARN.FALLBACK when the instruction executes; aimed at a NOP it is ignored (R55, R56). Of slot D, the debug check covers TCONV alone (R360). -/
def headerFallback (i : Instr) (ext : BitVec 8) (o : SlotOut) : SlotOut :=
  if o.active && ext != 0 && !consumesExt i && i != .nop then { o with effects := o.effects ++ [.warnFallback], debug := if o.slot != .d || o.opc = 0x0B then o.debug ++ [(0x1C, 0)] else o.debug } else o

def headerFallbacks (b : Bundle) (outs : List SlotOut) : List SlotOut :=
  match b.ext, outs with
  | some (eb, ec, ed), [oa, ob, oc, od] => [oa, headerFallback b.b eb ob, headerFallback b.c ec oc, headerFallback b.d ed od]
  | _, outs => outs

/-! ### Events -/

/-- The rows that are events of an agent other than a bundle, a micro-op, an Ompen word or a Wellhead word: those a turn of the schedule may name. -/
def isEvent (i : Instr) : Bool :=
  match i with
  | .interlockedResultArrive | .wakeNotice | .stlHeldPerform | .atomicPerformAtHome | .storeApplyAtHome | .remoteStoreFailure | .remoteAccessTimeout
  | .ringCounterUpdate | .barrierArrivalRemote | .generationBroadcast | .splitSwitch | .matrixStart | .drainLand | .mcallComplete
  | .copyStart | .copyComplete | .engineTimeout | .streamComplete | .collInstanceStart | .collComplete | .lakebedCommandHandover
  | .lakebedTaskHandover | .lakebedKernelStart | .lakebedWatchdog | .compressedLineWrite | .submissionWordWrite | .commandWordWrite | .operatorAdmit
  | .coresidentLaunch | .taskPop | .segmentCopyLand | .operatorComplete | .operatorDeadline | .completionWindowClose | .ringRecordWrite
  | .migrationEpochEnd | .migrationSwitch | .walkComplete | .faultTimeout | .weirActionSwitch | .reserveDrain | .recomputeComplete
  | .recomputeFail | .tensorImageLoad | .tensorDelete | .preemptRequest | .contextSave | .partitionResize | .resizeTimeout
  | .partitionReset | .clearStream | .cancel | .preempt | .invalidate | .faultAnswer | .checkpoint
  | .restore | .groupDomain | .qpReset | .graphLaunch | .graphPatch | .graphAbort | .attest
  | .health | .rdmaRequest | .rdmaRequestComplete | .inboundRdmaWrite | .linkDown | .coreRailAlarmRaise | .coreRailAlarmClear
  | .thermalClockLower | .thermalClockRestore | .thermalTrip | .healthBlockSave | .moduleReset | .recoveryImageDownload | .sgwaitLimitExpiry
  | .hangDetectorExpiry | .wellheadRestart | .partitionCreate | .tensorCreate | .domainMapChange | .engineOffline | .rdmaRetryExceeded
  | .powerFail => true
  | _ => false

/-! ### The rows of fetch, skipping and boundaries -/

/-- The context the selected core would issue from. -/
def selCtx (s : State) : Nat := ctxId s.sel.core (coreOf s s.sel.core).cur

/-- NULLIFIER_SKIP (R28): the skipped bundle counts one and has no other effect; stepping stops after it (R357). -/
def execNullifierSkip (s : State) : Host.Outcome State Fault Refusal :=
  .next (modCtx s (selCtx s) (fun c => { c.tick with pc := c.pc + 1, boundary := boundaryTrap c false }))

/-- WRITEBACK_LAND (R19): the due entries of the context's queue are written, in issue order. (DESIGN CHOICE, log 5.) -/
def execWritebackLand (s : State) : Host.Outcome State Fault Refusal := .next (landDue s (selCtx s))

/-- A boundary trap that is due is taken before the next bundle (R357). -/
def takeBoundary (s : State) (cause : Nat) : State :=
  let id := selCtx s
  match (ctxOf s id).boundary with
  | some t => if t.cause = cause then trapCtx (modCtx s id (fun c => { c with boundary := none })) id t else s
  | none => s

/-- SINGLE_STEP (R357). (DEDUCED, log 8.) -/
def execSingleStep (s : State) : Host.Outcome State Fault Refusal := .next (takeBoundary s 0x0C)

/-- BRANCH_TRACE (R357). -/
def execBranchTrace (s : State) : Host.Outcome State Fault Refusal := .next (takeBoundary s 0x0E)

/-- ILLEGAL_OPCODE (R49, R53): the bundle at the PC fails its decode checks, and the context traps with the cause and detail of the first failure. -/
def execIllegalOpcode (s : State) : Host.Outcome State Fault Refusal :=
  let id := selCtx s
  if mayIssue (ctxOf s id) then
    match fetchBundle s id with
    | .word s w =>
      match decodeBundle w with
      | .error f => .next (trapCtx s id (trapOf f.cause f.detail))
      | .ok _ => .next s
    | _ => .next s
  else .next s

/-- WAKE_NOTICE (R98): a context blocked in IDLE becomes ready; otherwise the notice is kept for its next IDLE. A context without a task keeps none (R9). -/
def execWakeNotice (s : State) : Host.Outcome State Fault Refusal :=
  .next (modCtx s (ctxId s.sel.core (s.sel.ctx % 4)) (fun c => if c.running then { c with wake := true } else c))

/-- HDR (R42): the header itself does nothing. -/
def execHdr (_d _c _b : BitVec 8) (s : State) : Host.Outcome State Fault Refusal := runSlot s (fun _ _ => SlotOut.idle .a 0x7E)

/-- NOP (R35): nothing, in whichever slot it stands. -/
def execNop (s : State) : Host.Outcome State Fault Refusal :=
  runSlot s (fun s _ => SlotOut.idle (match s.stage with | some st => (match st.outs.length with | 0 => .a | 1 => .b | 2 => .c | _ => .d) | none => .a) 0)

end Sys2Proof.Machine
end

