-- ==== Sys2Proof/Machine/Preempt.lean ====
section
/-! DEFINITION. Pre-emption: when it is requested (R391, R416), and the save of a context (R393 to R396). -/

namespace Sys2Proof.Machine

/-! ### Requests (R391) -/

/-- The contexts of a partition whose pre-emption is requested and not yet carried out. -/
def requested (s : State) (part : Nat) : List Nat := (s.ctxs.filter (fun e => e.2.running && e.2.preq.isSome && partOfCore s (e.1 / 4) = part)).map (·.1)

/-- The contexts pre-empted with one: its own, and those of the other tasks of a co-resident operator (R166, R391). (DEDUCED, log 45.) -/
def preemptedWith (s : State) (id : Nat) : List Nat :=
  let c := ctxOf s id
  if c.reserved.isSome then id :: (s.ctxs.filter (fun e => e.1 != id && e.2.running && !e.2.halted && e.2.reserved = c.reserved)).map (·.1) else [id]

/-- A request for a context, and for those that go with it, while the save pool has an area for each (R391). (DEDUCED, log 45.) -/
def requestSave (s : State) (id why : Nat) : State :=
  let part := partOfCore s (id / 4)
  let ids := preemptedWith s id
  if (partOf s part).saveAreas.length < (requested s part).length + ids.length || ids.any (fun i => (ctxOf s i).preq.isSome) then s
  else ids.foldl (fun s i => modCtx s i (fun c => { c with preq := some (if i = id then why else 2) })) s

/-- Context `x` of core `core` runs a task that a queued record of a higher class could replace (R174, R391). -/
def replaceable (s : State) (core x : Nat) : Bool :=
  let c := ctxOf s (ctxId core x)
  let die := dieOfCore core
  let p := partOf s (partOfCore s core)
  c.running && !c.halted && (List.range 16).any (fun q => queueOwned p (die * 16 + q) && (tget [] s.queues (die * 16 + q)).any (fun t => decide (c.tclass < t.cls) && eligible s core x t))

/-- The task of a core that is pre-empted: the lowest class, then the most recently started or resumed, then the highest context (R391). -/
def preemptVictim (s : State) (core : Nat) : Option Nat :=
  let before (a b : Nat) : Bool :=
    let x := ctxOf s (ctxId core a)
    let y := ctxOf s (ctxId core b)
    decide (x.tclass < y.tclass) || (x.tclass = y.tclass && (decide (y.since < x.since) || (x.since = y.since && decide (b < a))))
  ((List.range 4).filter (replaceable s core)).foldl (fun b x => match b with | none => some x | some y => some (if before x y then x else y)) none

/-- What the Wellhead asks of a core whose slice leaves its partition in a resize (R309, R391): with `keep` of Lakebed core `core`, whose running kernel then leaves; otherwise of context `ctx` of core `core`. (DEDUCED, log 45.) -/
def requestChange (s : State) : State :=
  let core := s.sel.core
  let id := ctxId core (s.sel.ctx % 4)
  let gone (slice : Nat) : Bool := (leaving (partOf s (partOfSlice s slice))).getLsbD slice
  if s.sel.keep then (if gone (lakeSlice core) && (lakeOf s core).run.isSome then setLake s core { lakeOf s core with preq := true } else s)
  else if gone (core / 8) && (ctxOf s id).running && !(ctxOf s id).halted then requestSave s id 1
  else s

/-- Pre-emption for priority on the selected core (R391): of the task that has run MINRUN × 1,024 cycles of the die's clock. One request for priority is outstanding on a core at a time. (DEDUCED, log 45.) -/
def requestPriority (s : State) : State :=
  let core := s.sel.core
  let p := partOf s (partOfCore s core)
  let busy := (List.range 4).all (fun x => (ctxOf s (ctxId core x)).running)
  let pending := (List.range 4).any (fun x => (ctxOf s (ctxId core x)).preq.isSome)
  if 8 ≤ partOfCore s core || !p.prectl.getLsbD 31 || !busy || pending then s
  else
    let s := applyAging s (dieOfCore core)
    match preemptVictim s core with
    | some x => if bitsOf p.prectl.toNat 0 16 * 1024 ≤ arithAt s (dieOfCore core) - (ctxOf s (ctxId core x)).since then requestSave s (ctxId core x) 0 else s
    | none => s

/-- PREEMPT_REQUEST (R391): with `flag`, for a partition change; otherwise for priority. (DEDUCED, log 45.) -/
def execPreemptRequest (s : State) : Host.Outcome State Fault Refusal := .next (if s.sel.flag then requestChange s else requestPriority s)

/-- PREEMPT (R416): the host's request for context A32 [1:0] of core A16, which runs a task of the partition. (DEDUCED, log 45.) -/
def execPreempt (s : State) : Host.Outcome State Fault Refusal :=
  runCommand s 3 (fun s part c =>
    let id := ctxId c.a16 (c.a32 % 4)
    let x := ctxOf s id
    endCommand (if c.a16 < 256 && partOfCore s c.a16 = part && x.running && !x.halted then requestSave s id 3 else s) part c none)

/-! ### What a save waits for (R393) -/

/-- An access whose outcome the context itself is to take: a result, a handle, an extra value (R23, R393). -/
def RKind.settles (k : RKind) : Bool :=
  match k with
  | .load _ _ _ _ _ _ _ | .roLoad _ _ _ _ _ | .value _ | .hbind _ | .hsetxv _ _ | .record => true
  | .atomic _ _ _ dest _ => dest.isSome
  | _ => false

/-- The context has settled: its interlocked results have arrived, its running call is at a step boundary, its drains have landed (R393 step 2). -/
def settled (s : State) (id : Nat) : Bool :=
  let c := ctxOf s id
  let k := coreOf s (id / 4)
  s.remotes.all (fun r => r.uid != c.uid || !r.kind.settles)
  && (match k.mcall with | some r => r.op.uid != c.uid || (r.atStep && !r.ended) | none => true)
  && k.pool.all (fun e => e.uid != c.uid || e.landed)

/-! ### The bytes of a save area (R394, R395) -/

/-- A task record (R170). -/
def taskBytes (t : TaskRec) : List Byte :=
  let bit (b : Bool) (i : Nat) : Nat := if b then 2 ^ i else 0
  leBytes (t.entry.toNat + t.prio % 4 * 2 ^ 18 + bit t.affk 20 + bit t.jv 21 + bit t.fv 22) 4 ++ leBytes t.aff 4 ++ leBytes t.ftid 4 ++ leBytes t.foff 4
  ++ leBytes t.jtid 4 ++ leBytes t.joff 4 ++ leBytes t.arg0 4 ++ leBytes t.arg1 4

/-- The next bundle of a context is blocked: what it waits for is not over (R158, R395). Its turn is no wait. (DEDUCED, log 46.) -/
def nextBlocked (s : State) (id : Nat) (c : Ctx) : Bool := c.ending || (match c.block with | some b => !blockOver s id b | none => false)

/-- A context that is saved once the recompute it waited for is over waits for it no longer (R389). -/
def dropWaiter (s : State) (id : Nat) (c : Ctx) : Ctx :=
  match c.block with
  | some (.suspended p t) => if blockOver s id (.suspended p t) then { c with block := none } else c
  | _ => c

/-- The reason word (R395). -/
def reasonWord (s : State) (id why : Nat) (c : Ctx) : Nat :=
  s.cycle % 2 ^ 32 * 2 ^ 32 + id % 4 * 2 ^ 24 + id / 4 % 256 * 2 ^ 16 + (if nextBlocked s id c then 2 ^ 11 else 0) + (if c.mode then 2 ^ 10 else 0) + why % 4 * 2 ^ 8 + 0x70

def handleBytes (h : Handle) : List Byte := leBytes (h.kind.code + h.dev % 2 ^ 20 * 2 ^ 12 + h.tid % 2 ^ 20 * 2 ^ 32) 8 ++ leBytes h.ext 8

/-- Bits of a table of Booleans, in bytes. -/
def flagBytes (t : Tab Bool) (n : Nat) : List Byte := (List.range n).map (fun i => (List.range 8).foldl (fun b j => if tget false t (8 * i + j) then b ||| BitVec.ofNat 8 (2 ^ j) else b) 0)

/-- The lanes that a mask of bits touches, and the bits written of each: 32, or the narrow width of R127. -/
def maskLanes (mask : VWord) : Nat := ((List.range 128).map (fun l => if bitsOf mask.toNat (32 * l) 32 = 0 then 0 else 2 ^ l)).sum
def maskWidth (mask : VWord) : Nat := ((List.range 128).map (fun l => ((List.range 32).filter (fun i => mask.getLsbD (32 * l + i))).length)).foldl max 0

/-- The header of a queue entry: class, width and number of its destination, distance, data offset, in the first header the queue's bundle count, and last 16 bytes: the lane set of a vector or a predicate, the value of a shorter result, or the offset and length of a transform result. Then its data. The places within the header are the model's. (DESIGN CHOICE, log 46.) -/
def queueEntry (e : WbEntry) (now at' count : Nat) : List Byte × List Byte :=
  let head (cls num width last : Nat) : List Byte := leBytes cls 1 ++ leBytes width 1 ++ leBytes num 2 ++ leBytes (e.due - now) 4 ++ leBytes at' 4 ++ leBytes count 4 ++ leBytes last 16
  match e.res with
  | .vec n mask v => (head 2 n (maskWidth mask) (maskLanes mask), leBytes v.toNat 512)
  | .pred n mask v => (head 3 n 0 mask.toNat, leBytes v.toNat 16)
  | .scalar n v => (head 0 n 0 v.toNat, [])
  | .guard n v => (head 1 n 0 (if v then 1 else 0), [])
  | .lc v => (head 6 0 0 v.toNat, [])
  | .ec v => (head 6 1 0 v.toNat, [])
  | .vrb v => (head 6 2 0 v.toNat, [])
  | .prb v => (head 6 3 0 v.toNat, [])
  | .param n v => (head 5 n 0 v.toNat, [])
  | .bytes off data => (head 9 0 0 (off + data.length * 2 ^ 64), data)

/-- A writeback queue's region: headers, the first of them with the queue's bundle count even where the queue is empty, then from +2,048 the data in issue order (R394). -/
def queueRegion (q : List WbEntry) (now : Nat) : List (Nat × List Byte) :=
  let r := q.foldl (fun (acc : List Byte × List Byte) e => let x := queueEntry e now acc.2.length (if acc.1.isEmpty then now else 0); (acc.1 ++ x.1, acc.2 ++ x.2)) ([], [])
  let heads := if q.isEmpty then List.replicate 12 0 ++ leBytes now 4 else r.1
  [(0, (heads ++ List.replicate (2048 - heads.length) 0).take 2048), (2048, r.2)]

/-- What an engine operation's record keeps: opcode, tokens with their bindings, x, parameters (R394). (DESIGN CHOICE, log 46.) -/
def opBytes (o : EngineOp) : List Byte :=
  let bind (b : Bind) : List Byte := match b with | .ok => leBytes 0 8 | .fault r => leBytes (2 ^ 63 + r.cause) 8 | .linked j => leBytes (j + 1) 8
  leBytes o.opc 1 ++ leBytes o.kd 1 ++ leBytes o.x 1 ++ (List.range 3).flatMap (fun i => leBytes (o.kin.getD i 0) 1) ++ [0, 0] ++ (o.ins.take 3).flatMap bind ++ (List.range 8).flatMap (fun m => leBytes (o.param m).toNat 8)

/-- The suspended call (R394). (DESIGN CHOICE, log 46.) -/
def runBytes (r : McallRun) : List Byte :=
  ([r.routine, r.pc, r.ea, r.ic, r.ilen.getD (2 ^ 32 - 1), r.endk, r.dn, r.aoff.toNat, r.boff.toNat, r.moff.toNat] ++ (List.range 4).map (fun i => (tget 0 r.ctr i).toNat)).flatMap (fun v => leBytes v 4)
  ++ leBytes r.xva.toNat 2 ++ leBytes r.xvb.toNat 2 ++ leBytes r.op.kd 4 ++ (List.range 8).flatMap (fun m => leBytes (r.op.param m).toNat 8)

/-- What a save takes along: the context, its tiles and landed entries, its call on the array and the calls queued behind it. -/
structure SaveSet where
  ctx : Ctx
  tiles : Tab Tile
  pool : List PoolEntry
  mcall : Option McallRun
  queued : List EngineOp
  deriving DecidableEq, Repr

def saveSet (s : State) (id : Nat) : SaveSet :=
  let c := ctxOf s id
  let k := coreOf s (id / 4)
  let run := (k.mcall.filter (fun r => r.op.uid = c.uid)).or (k.resumed.find? (fun r => r.op.uid = c.uid))
  { ctx := c, tiles := k.tiles.filter (fun e => e.2.owner = some c.uid), pool := k.pool.filter (fun e => e.uid = c.uid), mcall := run,
    queued := k.queue.filter (fun o => (o.opc = 1 || o.opc = 2) && o.uid = c.uid && (match run with | some r => r.op.id != o.id | none => true)) }

/-- Blocks of each tile and entry, by the first block of each (R394). -/
def firstBlocks (l : List Nat) : List Nat := (l.foldl (fun (acc : List Nat × Nat) n => (acc.1 ++ [acc.2], acc.2 + n)) ([], 0)).1

/-- The blocks of a tile: none for an empty one, which holds no values (R394). -/
def tileData (t : Tile) : List Byte :=
  let v (i : Nat) : Nat := (tget 0 t.vals i).toNat
  if t.kind = .empty then [] else (List.range 8192).flatMap (fun i => leBytes (v i) 4) ++ (if t.kind = .int then (List.range 8192).flatMap (fun i => leBytes (v i / 2 ^ 32) 2) else [])

/-- The tile and pool directory (R394). -/
def directoryBytes (x : SaveSet) (first : List Nat) : List Byte :=
  let n := x.tiles.length
  let tile (t : Nat) : Nat :=
    match (List.range n).find? (fun i => ((x.tiles.getD i (0, Tile.free)).1 = t)) with
    | some i => (match (x.tiles.getD i (0, Tile.free)).2.kind with | .empty => 1 | .float => 3 | .int => 5) + first.getD i 0 * 16
    | none => 0
  let entry (e : Nat) : Nat := match nth x.pool e with | some p => 1 + p.xfer % 65536 * 2 ^ 16 + first.getD (n + e) 0 % 16 * 2 ^ 32 | none => 0
  (List.range 4).flatMap (fun t => leBytes (tile t) 1) ++ leBytes 0 4 ++ (List.range 4).flatMap (fun e => leBytes (entry e) 8)
  ++ (List.range 4).flatMap (fun e => leBytes (match nth x.pool e with | some p => p.committed.toNat | none => 0) 8)

/-- The pieces of the saved state and their offsets in the area (R394). (DESIGN CHOICE, log 46.) -/
def saveImage (s : State) (id why : Nat) (x : SaveSet) : List (Nat × List Byte) :=
  let c := x.ctx
  let w64 (v : Nat) : List Byte := leBytes v 8
  let first := firstBlocks (x.tiles.map (fun e => tileBlocks e.2) ++ x.pool.map (fun _ => 2))
  let marks : Nat := (c.marks.map (fun m => if m.cls = 0 then 2 ^ (m.num % 32) else 2 ^ (32 + m.num % 64))).foldl (· ||| ·) 0
  [(0x0, (List.range 64).flatMap (fun n => leBytes (tget 0 c.v n).toNat 512)),
   (0x8000, (List.range 32).flatMap (fun n => w64 (readS c (BitVec.ofNat 5 n)).toNat)),
   (0x8100, (List.range 16).flatMap (fun n => leBytes (if n = 0 then 2 ^ 128 - 1 else if n = 1 then 0 else (tget 0 c.p n).toNat) 16)),
   (0x8200, w64 (guardMask c).toNat),
   (0x8208, w64 (c.lc.toNat + c.ec.toNat * 2 ^ 32 + c.vrb.toNat * 2 ^ 40 + c.prb.toNat * 2 ^ 45)),
   (0x8210, w64 (c.pc.toNat + c.count % 2 ^ 32 * 2 ^ 32)),
   (0x8218, w64 (reasonWord s id why c)),
   (0x8220, w64 (ctxstat c (id % 4)) ++ w64 c.cause.toNat ++ w64 c.epc.toNat ++ w64 c.tvec.toNat ++ w64 c.fhandle.toNat ++ w64 c.foffset.toNat
      ++ (List.range 4).flatMap (fun i => w64 (tget 0 c.hsave i).toNat) ++ w64 c.dbgctl.toNat ++ w64 c.watchlo.toNat ++ w64 c.watchhi.toNat),
   (0x82A0, (List.range 8).flatMap (fun m => w64 (readM c m).toNat)),
   (0x82E0, (List.range 16).flatMap (fun h => handleBytes (readH c h))),
   (0x83E0, (List.range 15).flatMap (fun i => tokenBytes (readK c (i + 1)))),
   (0x85C0, leBytes marks 16),
   (0x85D0, taskBytes c.task ++ leBytes (c.launch % 2 ^ 24 + (if c.wake then 2 ^ 24 else 0)) 4 ++ leBytes c.op 8),
   (0x9000, directoryBytes x first),
   (0x9100, match x.mcall with | some r => runBytes r | none => []),
   (0x9200, x.queued.flatMap opBytes),
   (0xA000, (List.range 4).flatMap (fun t => flagBytes (match tfind x.tiles t with | some e => e.clamps | none => []) 1024)),
   (0xB000, (List.range 4).flatMap (fun e => flagBytes (match nth x.pool e with | some p => p.sat | none => []) 1024))]
  ++ (queueRegion c.wq c.count).map (fun r => (0xC000 + r.1, r.2))
  ++ (if c.trapq then (queueRegion c.hq c.hcount).map (fun r => (0x12000 + r.1, r.2)) else [])
  ++ ((x.tiles.map (fun e => tileData e.2) ++ x.pool.map (fun p => (List.range 8192).flatMap (fun i => leBytes (tget 0 p.vals i).toNat 4))).zip first).map
      (fun r => (0x18000 + r.2 * 16384, r.1))

/-! ### The save (R393, R396) -/

/-- Writes bytes at a virtual address with the checks of a store; none when one fails. -/
def writeChecked (s : State) (part va : Nat) (data : List Byte) : Option State :=
  ((pieces va data.length).foldl (fun (acc : Option (State × List Byte)) p =>
    match acc with
    | none => none
    | some (s, d) =>
      match walk s part p.1 with
      | .error _ => none
      | .ok l =>
        if !leafAllows l 2 || (retiredCause s l p.1).isSome || (l.tier = 3 && !blockDecodes s (memKey l.home 3 (l.frame + p.1 % l.size) / 512 * 512)) then none
        else
          let (s, l) := setAD s l true
          some (writeLocs s 0 (leafLoc l p.1) (d.take p.2), d.drop p.2)) (some (s, data))).map (·.1)

def writeImage (s : State) (part area : Nat) (l : List (Nat × List Byte)) : Option State :=
  l.foldl (fun acc e => acc.bind (fun s => writeChecked s part (area + e.1) e.2)) (some s)

/-- The save area may not be written yet: a page of it is under migration or has no place for more dirty lines (R213, R336), or a token of its last owner is still on its way. -/
def areaHeld (s : State) (part area : Nat) (l : List (Nat × List Byte)) : Bool :=
  s.remotes.any (fun r => r.slot = 4 && r.part = part)
  || heldWrite s s.fresh (l.flatMap (fun e => (pieces (area + e.1) e.2.length).filterMap (fun p => match walk s part p.1 with | .ok lf => some ⟨leafLoc lf p.1, p.2⟩ | .error _ => none)))

/-- The context leaves its core for the save area (R393 steps 3 and 4). -/
def saveCtx (s : State) (id why area : Nat) : State :=
  let core := id / 4
  let part := partOfCore s core
  let x := saveSet s id
  let image := saveImage s id why x
  match writeImage s part area image with
  | none => failOp s x.ctx.op 0x6D core
  | some s =>
    let s := modPart s part (fun p => { p with saveAreas := p.saveAreas.erase area })
    let s := { s with saved := s.saved ++ [⟨core, part, x.ctx.tclass, dropWaiter s id x.ctx, x.tiles, x.pool, x.mcall, x.queued, area, nextBlocked s id x.ctx⟩] }
    dropCtx s id

/-- CONTEXT_SAVE (R393, R396): context `ctx` of the selected core, whose pre-emption is requested, is saved once it has settled and its demand is ten blocks or fewer. -/
def execContextSave (s : State) : Host.Outcome State Fault Refusal :=
  let id := ctxId s.sel.core (s.sel.ctx % 4)
  let c := ctxOf s id
  match c.preq, (partOf s (partOfCore s s.sel.core)).saveAreas with
  | some why, area :: _ => .next (if !c.running || c.halted || entering c || 10 < saveDemand s id || !settled s id || areaHeld s (partOfCore s s.sel.core) area (saveImage s id why (saveSet s id)) then s else saveCtx s id why area)
  | _, _ => .next s

end Sys2Proof.Machine
end

