-- ==== Sys2Proof/Machine/Partitions.lean ====
section
/-! DEFINITION. Partitions: their creation (R371, R398), resize (R400) and reset (R401), and the change of a domain map (R406, R411). -/

namespace Sys2Proof.Machine

/-! ### What a slice owns (R398) -/

/-- A slice is one of a mask. -/
def inSlices (w : W32) (slice : Nat) : Bool := w.getLsbD slice
/-- The slice of a task queue (R172, R398). -/
def queueSlice (q : Nat) : Nat := q / 16 * 8 + q % 16 / 2
/-- The slice that owns the home of a sector; 32 when none does. -/
def sectorSlice (k : Nat) : Nat :=
  let n := k * 32
  if 2 ^ 62 ≤ n then 32 else if 2 ^ 60 ≤ n then (n - 2 ^ 60) / 0x200000 / 8 else keySlice (n % 2 ^ 58)
/-- The slice whose pool a frame belongs to. -/
def frameSlice (f : Nat) : Nat := keySlice (f * 65536)


/-- The base dies without the free runs and inverted blocks of the slices (R335). -/
def scrubStacks (s : State) (w : W32) : Tab Stack :=
  let keep (stack : Nat) (r : Nat × Nat) : Bool := !inSlices w (chunkSlice stack r.1)
  s.bases.map (fun e => (e.1, { free := e.2.free.filter (keep e.1), inverted := e.2.inverted.filter (fun k => !inSlices w (keySlice k)), unlisted := e.2.unlisted.filter (keep e.1) }))

/-- Every storage of the slices is zeroed and its poison cleared, their rings are off, their split code is 2, their queues are empty (R400 step 6, R401). Corrections counted and units taken offline stay as they are. -/
def scrubSlices (s : State) (w : W32) : State :=
  let gone (slice : Nat) : Bool := inSlices w slice
  { s with
    ctxs := s.ctxs.filter (fun e => !gone (e.1 / 32)),
    cores := s.cores.map (fun e => if gone (e.1 / 8) then (e.1, { Core.fresh with errcnt := e.2.errcnt, offline := e.2.offline }) else e),
    splitCode := s.splitCode.filter (fun e => !gone e.1), splits := s.splits.filter (fun r => !gone r.cluster), ro := s.ro.filter (fun e => !gone e.1),
    roBad := s.roBad.filter (fun e => !gone e.1), mem := s.mem.filter (fun e => !gone (keySlice e.1)), sram := s.sram.filter (fun e => !gone (e.1 / 0x200000 / 8)),
    granules := s.granules.filter (fun e => !gone (e.1 / 16384 / 8)), poison := s.poison.filter (fun e => !gone (sectorSlice e.1)),
    tags := s.tags.filter (fun e => !gone (sectorSlice e.1)), dirty3 := s.dirty3.filter (fun e => !gone (keySlice (e.1 * 128))),
    used := s.used.filter (fun e => !gone (frameSlice e.1)), pageCount := s.pageCount.filter (fun e => !gone (frameSlice e.1)),
    queues := s.queues.filter (fun e => !gone (queueSlice e.1)), rings := s.rings.filter (fun e => !gone (e.1 / 64)),
    lakes := s.lakes.filter (fun e => !gone (lakeSlice e.1)), bases := scrubStacks s w, reserve := s.reserve.filter (fun r => !gone r.slice) }

/-- The dispatch numbers of the slices' queues go back to 0 (R423). -/
def resetDispatch (s : State) (w : W32) : State :=
  { s with dispatched := s.dispatched.filter (fun e => !inSlices w (queueSlice e.1)) }

/-- The frames of structures that the host maps itself are taken: those it names, and the root table's (R371). -/
def markMapped (s : State) (p : Partition) : State :=
  let root := match p.root with | some (stack, addr) => [stackKey stack addr / 65536] | none => []
  { s with used := (p.mapped ++ root).foldl (fun t f => if hasSlice p (frameSlice f) then tset t f true else t) s.used }

/-! ### Creation (R371, R398, R406, R414) -/

/-- A partition as it is created: the values the Wellhead gives it, with nothing under way. Reserved bits of MIGCTL and PRECTL read 0 (R7, R212, R392), and a device in no domain has an empty map (R406). -/
def newPartition (s : State) (c : Partition) : Partition :=
  { c with live := true, migctl := c.migctl &&& 0x80FFFFFF, prectl := c.prectl &&& 0x8000FFFF, map := if s.devnum < 192 then c.map else [], imageLoaded := false, wdepth := min 8 c.wdepth, rings := c.rings.map (fun r => { r with written := 0, waiting := [] }), streams := [],
           cmdHead := 0, cmdTail := 0, launchNext := 0, reportSeq := 0, window := none, checkpoint := false, resize := none,
           epochAt := (List.range 4).map (fun d => (d, arithAt s d)), qps := c.qps.map (fun q => (q.1, { q.2 with error := false, taken := 0, doors := [], posted := [] })) }

/-- The rotations of a partition start at 0 (R174). -/
def resetRotation (s : State) (part : Nat) : Tab Nat := s.rr.filter (fun e => e.1 / 16 != part)

/-- What the host attachment asks of a partition's queue pairs and rings: ports of the dies that hold its slices (R413), and three rings, each on a reliable-connection pair of the partition, with an entry count that is a power of two from 64 to 65,536 (R414). -/
def attachmentGood (c : Partition) : Bool :=
  c.qps.all (fun q => (List.range 8).any (fun i => hasSlice c (8 * (q.2.port / 2) + i))) && decide (c.rings.length = 3)
  && c.rings.all (fun r => (List.range 11).any (fun i => r.count = 2 ^ (6 + i)) && (match tfind c.qps r.qp with | some q => q.reliable | none => false))

/-- PARTITION_CREATE (R371, R398, R413, R414): the Wellhead makes partition `part` with the values of `cfg`, out of free slices and group entries. (DEDUCED, log 44; DEDUCED, log 47.) -/
def execPartitionCreate (s : State) : Host.Outcome State Fault Refusal :=
  let part := s.sel.part
  let c := s.sel.cfg
  let taken := s.parts.any (fun e => e.2.live && (e.1 = part || e.2.slices &&& c.slices != 0 || meets c.groupLo c.groupHi e.2.groupLo e.2.groupHi))
  if 8 ≤ part || c.slices = 0 || 256 < c.groupHi || taken || !attachmentGood c then .next s
  else
    let p := newPartition s c
    let s := resetDispatch { s with splitCode := s.splitCode.filter (fun e => !inSlices p.slices e.1), rings := s.rings.filter (fun e => !inSlices p.slices (e.1 / 64)),
                                    groups := s.groups.filter (fun e => !(decide (p.groupLo ≤ e.1) && decide (e.1 < p.groupHi))),
                                    queues := s.queues.filter (fun e => !inSlices p.slices (queueSlice e.1)), rr := resetRotation s part } p.slices
    .next (markMapped (setPart s part p) p)

/-! ### Reset (R401) -/

/-- Every unretired operator of the partition fails with PARTITION_RESET, whatever it had failed with before, and its record is written. (DEDUCED, log 47.) -/
def failAll (s : State) (part cause : Nat) : State :=
  (s.ops.filter (fun e => e.2.part = part && e.2.phase != .retired)).foldl (fun s e =>
    let s := modOp (failOp s e.1 cause 0) e.1 (fun o => { o with fail := some (cause, 0) })
    match opOf s e.1 with
    | some o => if o.weir.isSome then setOp s e.1 { o with phase := .retired } else postCompletion (setOp s e.1 { o with phase := .retired }) part o.seq o.stream (o.fail.map (·.1))
    | none => s) s

/-- What is under way for a partition ends without effect: accesses, engine operations, saved tasks, Weir actions, walks and reports. -/
def dropAll (s : State) (part : Nat) : State :=
  let p := partOf s part
  let inRange (g : Nat) : Bool := decide (p.groupLo ≤ g) && decide (g < p.groupHi)
  { s with
    remotes := s.remotes.filter (fun r => r.part != part), tlbs := s.tlbs.map (fun e => (e.1, e.2.filter (fun t => t.part != part))),
    walks := s.walks.filter (fun w => w.part != part), answered := s.answered.filter (fun a => a.part != part), peers := s.peers.filter (fun x => x.req.part != part),
    reports := s.reports.filter (fun r => r.part != part),
    tensors := s.tensors.filter (fun e => e.1 / 0x100000 != part), copies := s.copies.map (fun e => (e.1, e.2.filter (fun k => k / 0x100000 != part))),
    copyMask := s.copyMask.filter (fun e => e.1 / 0x100000 != part), acts := s.acts.filter (fun a => a.part != part),
    recomputes := s.recomputes.filter (fun r => r.part != part), retry := s.retry.filter (fun r => r.1 != part),
    migrations := s.migrations.filter (fun m => m.part != part), groups := s.groups.filter (fun e => !inRange e.1),
    streams := s.streams.filter (fun r => r.op.part != part), joins := s.joins.filter (fun o => o.part != part),
    colls := s.colls.filter (fun i => !inRange i.group), saved := s.saved.filter (fun x => x.part != part), rr := resetRotation s part }

/-- Requests of other devices that wait are refused as the partition is reset (R411). -/
def refusePeers (s : State) (part : Nat) : State := (s.peers.filter (fun x => x.req.part = part)).foldl (fun s x => answerPeer s x.req 0x29 []) s

/-- PARTITION_RESET (R401): everything partition `part` runs ends, the requests of other devices that wait here are refused (R411), its queue pairs are in error, the fault records that still wait for the host are withdrawn, and its slices are zeroed. Host commands already read go on. (DEDUCED, log 47.) -/
def execPartitionReset (s : State) : Host.Outcome State Fault Refusal :=
  let part := s.sel.part
  if !(partOf s part).live then .next s
  else
    let s := refusePeers (failAll s part 0x7C) part
    let areas := (s.saved.filter (fun x => x.part = part)).map (·.area)
    let s := modPart (dropAll s part) part (fun p => { p with
      imageLoaded := false, saveAreas := p.saveAreas ++ areas, rings := (match nth p.rings 1 with | some r => setNth p.rings 1 { r with waiting := [] } | none => p.rings), qps := p.qps.map (fun q => (q.1, { q.2 with error := true, doors := [], posted := [] })) })
    let p := partOf s part
    .next (markMapped (resetDispatch (scrubSlices s p.slices) p.slices) p)

/-! ### Resize (R400) -/


/-- A queued record of a leaving slice goes to a queue of a slice that stays: on the same die, or on the lowest-numbered other die. -/
def moveRecord (s : State) (part die : Nat) (t : TaskRec) : State :=
  let p := partOf s part
  let qs := (List.range 16).map (fun i => die * 16 + i) ++ (List.range 64).filter (fun q => q / 16 != die)
  let owned := qs.filter (queueOwned p)
  match (owned.find? (fun q => decide ((tget [] s.queues q).length < queueCapOf p q))).or owned.head? with
  | some q => { s with queues := tset s.queues q (tget [] s.queues q ++ [t]) }
  | none => s

/-- The hold of a resize (R400 step 1): records move, and no context of a leaving slice stays reserved. -/
def holdResize (s : State) (part : Nat) (w : W32) : State :=
  let s := modPart s part (fun p => { p with resize := some (w, s.cycle) })
  let out := leaving (partOf s part)
  let moved := s.queues.filter (fun e => inSlices out (queueSlice e.1))
  let s := { s with queues := s.queues.filter (fun e => !inSlices out (queueSlice e.1)),
                    ctxs := s.ctxs.map (fun e => if inSlices out (e.1 / 32) && !e.2.running then (e.1, { e.2 with reserved := none }) else e) }
  moved.foldl (fun s e => e.2.foldl (fun s t => moveRecord s part (e.1 / 16) t) s) s

/-- No task runs or is saved on a leaving core, and no kernel is on a leaving Lakebed core (R400 step 2). -/
def quiesced (s : State) (out : W32) : Bool :=
  s.ctxs.all (fun e => !(inSlices out (e.1 / 32) && e.2.running)) && s.saved.all (fun x => !inSlices out (x.core / 8))
  && s.lakes.all (fun e => !inSlices out (lakeSlice e.1) || (e.2.run.isNone && e.2.buf.isEmpty))

/-- No operation or access of a leaving core is outstanding (R400 step 3), no page is being moved, and no access of the partition translated before the seal is on its way to a frame that is to be evacuated (R380, R400 step 4). -/
def drainedCores (s : State) (part : Nat) (out : W32) : Bool :=
  (liveOps s ++ s.joins).all (fun o => !inSlices out (o.core / 8)) && s.remotes.all (fun r => !inSlices out (r.core / 8))
  && s.remotes.all (fun r => r.part != part || r.segs.all (fun g => !inSlices out (sectorSlice (sectorOf g.loc))))
  && s.acts.all (fun a => a.part != part) && s.migrations.all (fun m => m.part != part)

/-- Slices that stay: those of a die, then the others. -/
def stayFirst (keep : W32) (die : Nat) : List Nat :=
  let l := (List.range 32).filter (fun i => inSlices keep i)
  l.filter (fun i => i / 8 = die) ++ l.filter (fun i => i / 8 != die)

/-- Frames that a resize moves together: `lo` up to but not `hi`, to a place of the same remainder by `align`; where they hold a page table they stay in HBM4E (R199). -/
structure MoveRun where
  lo : Nat
  hi : Nat
  align : Nat
  table : Bool
  deriving DecidableEq, Repr

/-- The frames in which a page table of `size` bytes at `k` lies. -/
def tableRun (k size : Nat) : MoveRun := ⟨k / 65536, (k + size - 1) / 65536 + 1, 1, true⟩

/-- The frames of the page that an entry maps, or of the table that it leads to. -/
def entryRun (l : Leaf) : MoveRun := if l.ends then ⟨frameOf l, frameOf l + l.size / 65536, l.size / 65536, false⟩ else tableRun l.table 4096

/-- Runs by first frame, those that share a frame joined into one: what a frame holds is moved once, whatever entries lead to it. -/
def joinRuns (l : List MoveRun) : List MoveRun :=
  (sortBy (fun a b => decide (a.lo < b.lo)) l.eraseDups).foldl (fun acc r =>
    match acc with
    | a :: t => if r.lo < a.hi then ⟨a.lo, max a.hi r.hi, max a.align r.align, a.table || r.table⟩ :: t else r :: acc
    | [] => [r]) []

/-- What of a partition's pages and page tables lies in leaving slices (R400 step 4). -/
def leavingRuns (s : State) (part : Nat) (out : W32) : List MoveRun :=
  let root := match (partOf s part).root with | some (stack, addr) => [tableRun (stackKey stack addr) (tableSize walkLevels)] | none => []
  joinRuns ((root ++ (tableEntries s part).map entryRun).filter (fun r => inSlices out (frameSlice r.lo) || inSlices out (frameSlice (r.hi - 1))))

/-- Free frames of a die's tier in slices that stay, one after another, to which a run can go: the first of them (R199, R305, R371). -/
def freeRegion (s : State) (keep : W32) (die tier : Nat) (r : MoveRun) : Option Nat :=
  let first := memKey die tier 0 / 65536 + r.lo % r.align
  let n := r.hi - r.lo
  ((List.range (tierSize tier / (65536 * r.align))).map (fun i => first + i * r.align)).find? (fun b =>
    decide (keyAddr (b * 65536) + n * 65536 ≤ tierSize tier)
    && (List.range n).all (fun i => inSlices keep (frameSlice (b + i)) && !((tier = 1 || tier = 3) && reservedHbm (keyAddr ((b + i) * 65536))))
    && s.used.all (fun e => !(e.2 && decide (b ≤ e.1) && decide (e.1 < b + n))))

/-- Frames of one tier for a run, taken from their pools: the first of them. -/
def framesOut (s : State) (keep : W32) (r : MoveRun) (tier : Nat) : Option (Nat × State) :=
  let l := stayFirst keep (keyDie (r.lo * 65536))
  if r.hi = r.lo + 1 then takeFrameOf s l tier
  else
    (l.map (fun i => i / 8)).eraseDups.findSome? (fun die =>
      (freeRegion s keep die tier r).map (fun b => (b, { s with used := (List.range (r.hi - r.lo)).foldl (fun u i => tset u (b + i) true) s.used })))

/-- A place for a run among the slices that stay: of its tier, or of tier 2 (R400 step 4). -/
def placeRun (s : State) (keep : W32) (r : MoveRun) : Option (Nat × State) :=
  match framesOut s keep r (keySpace (r.lo * 65536)) with
  | some x => some x
  | none => if r.table then none else framesOut s keep r 2

/-- Places for all runs; none when no frames can be found for one, or a compressed page of one cannot be read. -/
def placeRuns (s : State) (keep : W32) (l : List MoveRun) : Option (List (MoveRun × Nat) × State) :=
  match l with
  | [] => some ([], s)
  | r :: t =>
    if keySpace (r.lo * 65536) = 3 && !(List.range (r.hi - r.lo)).all (fun i => pageDecodes s (r.lo + i)) then none
    else (placeRun s keep r).bind (fun x => (placeRuns x.2 keep t).map (fun y => ((r, x.1) :: y.1, y.2)))

/-- Where a frame is after the runs have moved, and so where an address is. -/
def movedFrame (l : List (MoveRun × Nat)) (f : Nat) : Nat :=
  match l.find? (fun x => decide (x.1.lo ≤ f) && decide (f < x.1.hi)) with
  | some x => x.2 + (f - x.1.lo)
  | none => f
def movedKey (l : List (MoveRun × Nat)) (k : Nat) : Nat := movedFrame l (k / 65536) * 65536 + k % 65536

/-- The word of an entry once what it leads to has moved. -/
def movedWord (l : List (MoveRun × Nat)) (e : Leaf) : Nat :=
  if e.ends then
    let f := movedFrame l (frameOf e)
    if f = frameOf e then e.word else leafWord f (keySpace (f * 65536)) (keyDie (f * 65536)) e.word
  else
    let k := movedKey l e.table
    keyStackAddr k + keyStack k % 2 * 2 ^ 6 + keyStack k / 2 * 2 ^ 4 + e.word % 2

/-- Every page, and every page table, in frames of leaving slices moves to frames of slices that stay, with its bytes and its poison, and each entry follows what it leads to (R400 step 4); none when no frames can be found. (DEDUCED, log 48.) -/
def moveOut (s : State) (part : Nat) (out keep : W32) : Option State :=
  let es := tableEntries s part
  (placeRuns s keep (leavingRuns s part out)).map (fun x =>
    let eachFrame (s : State) (f : State → Nat → Nat → State) : State := x.1.foldl (fun s m => (List.range (m.1.hi - m.1.lo)).foldl (fun s i => f s (m.1.lo + i) (m.2 + i)) s) s
    let s := eachFrame x.2 movePage
    let s := { s with mem := es.foldl (fun m e => cellsSet m (movedKey x.1 e.key) (leBytes (movedWord x.1 e) 8)) s.mem }
    let s := modPart s part (fun p => { p with
      root := p.root.map (fun r => let k := movedKey x.1 (stackKey r.1 r.2); (keyStack k, keyStackAddr k)), mapped := p.mapped.map (movedFrame x.1) })
    eachFrame s (fun s f _ => releaseFrame s f))

/-- The addresses of the pages of a partition's page table, each 64 KiB of a tier-3 one for itself. -/
def partPages (s : State) (part : Nat) : List Nat :=
  ((tableEntries s part).filter Leaf.ends).flatMap (fun l => if l.tier = 3 then (List.range (l.size / 65536)).map (fun i => l.base + 65536 * i) else [l.base])

/-- The run of a compressed block that stays, if it lies in a leaving slice, moves to one that stays (R335, R400 step 4); none when no run is left. (DEDUCED, log 48.) -/
def moveRun (s : State) (out : W32) (k : Nat) : Option State :=
  let st := keyStack k
  let t := tailAt s k
  if !isCompressed s k || t.chunks = 0 || !inSlices out (chunkSlice st t.run) then some s
  else
    (takeRun (runOpen s k) (baseOf s st).free t.chunks).map (fun r =>
      let payload := cellsGet s.mem (runKey st (32 * t.run)) (32 * t.chunks)
      let s := setBase s st { baseOf s st with free := r.2 }
      { s with mem := cellsSet (cellsSet s.mem (runKey st (32 * r.1)) payload) (k + 480) (tailBytes t.codes t.chunks t.lres r.1 t.ridx (marker s st)) })

/-- The runs of the compressed page at `va` leave the leaving slices. -/
def movePageRuns (s : State) (part : Nat) (out : W32) (va : Nat) : Option State :=
  match walk s part va with
  | .ok l => if l.tier = 3 then (blocksOf (frameOf l + va % l.size / 65536)).foldl (fun acc k => acc.bind (fun s => moveRun s out k)) (some s) else some s
  | .error _ => some s

/-- Evacuates the leaving slices: the pages and the page tables, then the runs of the compressed pages; none when frames or runs run out. -/
def evacuate (s : State) (part : Nat) (out keep : W32) : Option State :=
  (moveOut s part out keep).bind (fun s => (partPages s part).foldl (fun acc va => acc.bind (fun s => movePageRuns s part out va)) (some s))

/-- The partition's lines dirty in L2 are written back on the dies whose clusters change; tags there die, and read-only caches are cleared (R400 step 5). -/
def rehome (s : State) (part : Nat) (changed : List Nat) : State :=
  let here (slice : Nat) : Bool := partOfSlice s slice = part && changed.contains (slice / 8)
  let lines := (s.dirty3.filter (fun e => here (keySlice (e.1 * 128)))).map (·.1)
  let s := lines.foldl flushLine3 s
  { s with tags := s.tags.filter (fun e => !(partOfSector s e.1 = part && changed.contains (sectorSlice e.1 / 8))), ro := s.ro.filter (fun e => !hasSlice (partOf s part) e.1),
           tlbs := s.tlbs.map (fun e => (e.1, e.2.filter (fun t => t.part != part))) }

/-- Lakebed cores that join a partition whose image is loaded receive it (R304). -/
def loadJoined (s : State) (part : Nat) (joined : W32) : State :=
  if !(partOf s part).imageLoaded then s
  else
    match ((lakesOf s part).filter (fun i => !inSlices joined (lakeSlice i))).head? with
    | some j => ((lakesOf s part).filter (fun i => inSlices joined (lakeSlice i))).foldl (fun s i => setLake s i { lakeOf s i with ktable := (lakeOf s j).ktable, istore := (lakeOf s j).istore, badStore := [] }) s
    | none => s

/-- The end of a resize (R400 steps 4 to 7). (DEDUCED, log 48.) -/
def finishResize (s : State) (part : Nat) (w : W32) : State :=
  let p := partOf s part
  let out := p.slices &&& ~~~w
  let joined := w &&& ~~~p.slices
  match evacuate s part out (p.slices &&& w) with
  | none => modPart s part (fun p => { p with resize := none })
  | some s =>
    let changed := (List.range 4).filter (fun d => (List.range 8).any (fun i => inSlices (out ||| joined) (8 * d + i)))
    let s := scrubSlices (rehome s part changed) (out ||| joined)
    let s := modPart s part (fun p => { p with slices := w, resize := none, mapped := p.mapped.filter (fun f => !inSlices out (frameSlice f)) })
    loadJoined s part joined

/-- PARTITION_RESIZE (R400): with none under way, a resize of partition `part` to the slices `word` begins, those that join being free; then it ends once the leaving slices are quiet. (DEDUCED, log 48.) -/
def execPartitionResize (s : State) : Host.Outcome State Fault Refusal :=
  let part := s.sel.part
  let p := partOf s part
  if !p.live then .next s
  else
    match p.resize with
    | none =>
      let w : W32 := s.sel.word.truncate 32
      let free := (List.range 32).all (fun i => !inSlices (w &&& ~~~p.slices) i || partOfSlice s i = 8)
      .next (if w &&& p.slices = 0 || !free then s else holdResize s part w)
    | some (w, _) => .next (if quiesced s (leaving p) && drainedCores s part (leaving p) then finishResize s part w else s)

/-- The operators that still use a leaving resource (R400 step 2). -/
def usingLeaving (s : State) (out : W32) : List Nat :=
  let tasks : List Nat := (s.ctxs.filter (fun e => inSlices out (e.1 / 32) && e.2.running)).map (fun e => e.2.op)
  let saved : List Nat := (s.saved.filter (fun x => inSlices out (x.core / 8))).map (fun x => x.ctx.op)
  let kernels : List Kernel := (s.lakes.filter (fun e => inSlices out (lakeSlice e.1))).flatMap (fun e => e.2.run.toList ++ e.2.buf)
  (tasks ++ saved ++ kernels.map (fun (k : Kernel) => match k.cmd with | some o => o.op | none => k.op)).eraseDups

/-- RESIZE_TIMEOUT (R400): RESIZETMO µs after the hold, each operator that still uses a leaving resource fails, and its kernels on the leaving Lakebed cores go. (DEDUCED, log 48.) -/
def execResizeTimeout (s : State) : Host.Outcome State Fault Refusal :=
  let part := s.sel.part
  let p := partOf s part
  match p.resize with
  | none => .next s
  | some (_, since) =>
    if s.cycle < since + microseconds p.resizetmo.toNat then .next s
    else
      let out := leaving p
      let s := (usingLeaving s out).foldl (fun s id => failOp s id 0x7C 0) s
      .next { s with lakes := s.lakes.map (fun e => if inSlices out (lakeSlice e.1) then (e.1, { e.2 with run := none, buf := [] }) else e) }

/-! ### The domain map (R406, R411, R412) -/

/-- A partition has another domain map from now on: requests to a device that leaves are refused, and incomplete instances lose it (R406, R411, R412). -/
def changeMap (s : State) (part : Nat) (map : Tab Nat) : State :=
  let p := partOf s part
  let lost := (p.map.map (·.1)).filter (fun d => (tfind map d).isNone)
  let s := setPart s part { p with map := map }
  let s := (s.remotes.filter (fun r => r.part = part && r.far && lost.contains (r.hk.dev - 1))).foldl (fun s r => failRemote s r 0x29) s
  lost.foldl (fun s d => loseDevice s part d) s

/-- DOMAIN_MAP_CHANGE (R406): with `flag`, the fabric manager gives this device the number `num`, or takes it out of its domain, and every map is then empty; otherwise partition `part` has the domain map of `cfg` from now on. (DESIGN CHOICE, log 49.) -/
def execDomainMapChange (s : State) : Host.Outcome State Fault Refusal :=
  if s.sel.flag then
    .next (if s.sel.num < 192 then { s with devnum := s.sel.num }
           else ((s.parts.filter (fun e => e.2.live)).map (·.1)).foldl (fun s i => changeMap s i []) { s with devnum := 0xFF })
  else if !(partOf s s.sel.part).live || 192 ≤ s.devnum then .next s
  else .next (changeMap s s.sel.part s.sel.cfg.map)

end Sys2Proof.Machine
end

