-- ==== Sys2Proof/Machine/Scalar.lean ====
section
/-! DEFINITION. The shared scalar block: integer arithmetic and logic, division, compares and guard logic (R73 to R81), scalar loads and stores (R87, R88). -/

namespace Sys2Proof.Machine

/-- A register form that reads sa and sb: its result, latency and debug checks. -/
def regOut (sl : AB) (opc : Nat) (g : GReg) (sd sa sb : SReg) (lat : Nat) (f : W64 → W64 → W64) (dbg : W64 → W64 → List (Nat × Nat)) (s : State) (id : Nat) : SlotOut :=
  let c := ctxOf s id
  guarded sl.slot opc g c (fun o =>
    let a := readS c sa
    let b := readS c sb
    { o with reads := o.reads ++ [sItem sa, sItem sb], writes := scalarItems sd, debug := dbg a b, effects := scalarEffects lat sd (f a b) })

/-- A form that reads sa alone. -/
def unOut (sl : AB) (opc : Nat) (g : GReg) (sd sa : SReg) (f : W64 → W64) (dbg : W64 → List (Nat × Nat)) (s : State) (id : Nat) : SlotOut :=
  let c := ctxOf s id
  guarded sl.slot opc g c (fun o =>
    { o with reads := o.reads ++ [sItem sa], writes := scalarItems sd, debug := dbg (readS c sa), effects := scalarEffects 1 sd (f (readS c sa)) })

def noChecks2 (_ _ : W64) : List (Nat × Nat) := []
def noChecks1 (_ : W64) : List (Nat × Nat) := []
/-- SHIFT_RANGE: a register shift amount at or above 64 (R362). -/
def shiftCheck (_ b : W64) : List (Nat × Nat) := fires 0x1A (decide (64 ≤ b.toNat))

/-- Results of the register forms (R73). -/
def shlS (a b : W64) : W64 := a <<< (b.toNat % 64)
def shrS (a b : W64) : W64 := a >>> (b.toNat % 64)
def sraS (a b : W64) : W64 := a.sshiftRight (b.toNat % 64)
def minS (a b : W64) : W64 := if a.slt b then a else b
def maxS (a b : W64) : W64 := if a.slt b then b else a
def minU (a b : W64) : W64 := if a.ult b then a else b
def maxU (a b : W64) : W64 := if a.ult b then b else a
def mulHigh (a b : W64) : W64 := BitVec.ofInt 64 ((a.toInt * b.toInt) / 2 ^ 64)
def mulHighU (a b : W64) : W64 := BitVec.ofNat 64 (a.toNat * b.toNat / 2 ^ 64)

/-- ADD (R73). -/
def execAdd (sl : AB) (g : GReg) (sd sa sb : SReg) (s : State) : Host.Outcome State Fault Refusal :=
  runSlot s (regOut sl 0x01 g sd sa sb 1 (· + ·) (fun a b => fires 0x18 (wraps64 (a.toInt + b.toInt))))
/-- SUB (R73). -/
def execSub (sl : AB) (g : GReg) (sd sa sb : SReg) (s : State) : Host.Outcome State Fault Refusal :=
  runSlot s (regOut sl 0x02 g sd sa sb 1 (· - ·) (fun a b => fires 0x18 (wraps64 (a.toInt - b.toInt))))
/-- AND (R73). -/
def execAnd (sl : AB) (g : GReg) (sd sa sb : SReg) (s : State) : Host.Outcome State Fault Refusal := runSlot s (regOut sl 0x03 g sd sa sb 1 (· &&& ·) noChecks2)
/-- OR (R73). -/
def execOr (sl : AB) (g : GReg) (sd sa sb : SReg) (s : State) : Host.Outcome State Fault Refusal := runSlot s (regOut sl 0x04 g sd sa sb 1 (· ||| ·) noChecks2)
/-- XOR (R73). -/
def execXor (sl : AB) (g : GReg) (sd sa sb : SReg) (s : State) : Host.Outcome State Fault Refusal := runSlot s (regOut sl 0x05 g sd sa sb 1 (· ^^^ ·) noChecks2)
/-- SHL (R73). -/
def execShl (sl : AB) (g : GReg) (sd sa sb : SReg) (s : State) : Host.Outcome State Fault Refusal := runSlot s (regOut sl 0x06 g sd sa sb 1 shlS shiftCheck)
/-- SHR (R73). -/
def execShr (sl : AB) (g : GReg) (sd sa sb : SReg) (s : State) : Host.Outcome State Fault Refusal := runSlot s (regOut sl 0x07 g sd sa sb 1 shrS shiftCheck)
/-- SRA (R73). -/
def execSra (sl : AB) (g : GReg) (sd sa sb : SReg) (s : State) : Host.Outcome State Fault Refusal := runSlot s (regOut sl 0x08 g sd sa sb 1 sraS shiftCheck)
/-- MIN (R73). -/
def execMin (sl : AB) (g : GReg) (sd sa sb : SReg) (s : State) : Host.Outcome State Fault Refusal := runSlot s (regOut sl 0x09 g sd sa sb 1 minS noChecks2)
/-- MAX (R73). -/
def execMax (sl : AB) (g : GReg) (sd sa sb : SReg) (s : State) : Host.Outcome State Fault Refusal := runSlot s (regOut sl 0x0A g sd sa sb 1 maxS noChecks2)
/-- MINN (R73). -/
def execMinn (sl : AB) (g : GReg) (sd sa sb : SReg) (s : State) : Host.Outcome State Fault Refusal := runSlot s (regOut sl 0x0B g sd sa sb 1 minU noChecks2)
/-- MAXN (R73). -/
def execMaxn (sl : AB) (g : GReg) (sd sa sb : SReg) (s : State) : Host.Outcome State Fault Refusal := runSlot s (regOut sl 0x0C g sd sa sb 1 maxU noChecks2)
/-- MUL (R73). -/
def execMul (sl : AB) (g : GReg) (sd sa sb : SReg) (s : State) : Host.Outcome State Fault Refusal :=
  runSlot s (regOut sl 0x0D g sd sa sb Config.latMul (· * ·) (fun a b => fires 0x18 (wraps64 (a.toInt * b.toInt))))
/-- MULH (R73). -/
def execMulh (sl : AB) (g : GReg) (sd sa sb : SReg) (s : State) : Host.Outcome State Fault Refusal := runSlot s (regOut sl 0x0E g sd sa sb Config.latMul mulHigh noChecks2)
/-- MULHN (R73). -/
def execMulhn (sl : AB) (g : GReg) (sd sa sb : SReg) (s : State) : Host.Outcome State Fault Refusal := runSlot s (regOut sl 0x0F g sd sa sb Config.latMul mulHighU noChecks2)

/-- A form whose destination is its third source (R73, R76). -/
def accOut (sl : AB) (opc : Nat) (g : GReg) (sd sa : SReg) (more : List SReg) (lat : Nat) (f : Ctx → W64) (s : State) (id : Nat) : SlotOut :=
  let c := ctxOf s id
  guarded sl.slot opc g c (fun o => { o with reads := o.reads ++ [sItem sd, sItem sa] ++ more.map sItem, writes := scalarItems sd, effects := scalarEffects lat sd (f c) })

/-- MADD (R73). -/
def execMadd (sl : AB) (g : GReg) (sd sa sb : SReg) (s : State) : Host.Outcome State Fault Refusal :=
  runSlot s (accOut sl 0x18 g sd sa [sb] Config.latMul (fun c => readS c sd + readS c sa * readS c sb))

/-- ADDI (R74). -/
def execAddi (sl : AB) (g : GReg) (sd sa : SReg) (imm : BitVec 19) (s : State) : Host.Outcome State Fault Refusal :=
  runSlot s (unOut sl 0x10 g sd sa (fun a => a + imm.signExtend 64) (fun a => fires 0x18 (wraps64 (a.toInt + imm.toInt))))
/-- ANDI (R74). -/
def execAndi (sl : AB) (g : GReg) (sd sa : SReg) (imm : BitVec 19) (s : State) : Host.Outcome State Fault Refusal := runSlot s (unOut sl 0x11 g sd sa (fun a => a &&& imm.signExtend 64) noChecks1)
/-- ORI (R74). -/
def execOri (sl : AB) (g : GReg) (sd sa : SReg) (imm : BitVec 19) (s : State) : Host.Outcome State Fault Refusal := runSlot s (unOut sl 0x12 g sd sa (fun a => a ||| imm.signExtend 64) noChecks1)
/-- XORI (R74). -/
def execXori (sl : AB) (g : GReg) (sd sa : SReg) (imm : BitVec 19) (s : State) : Host.Outcome State Fault Refusal := runSlot s (unOut sl 0x13 g sd sa (fun a => a ^^^ imm.signExtend 64) noChecks1)
/-- SHLI (R74). -/
def execShli (sl : AB) (g : GReg) (sd sa : SReg) (n : BitVec 6) (s : State) : Host.Outcome State Fault Refusal := runSlot s (unOut sl 0x14 g sd sa (fun a => a <<< n.toNat) noChecks1)
/-- SHRI (R74). -/
def execShri (sl : AB) (g : GReg) (sd sa : SReg) (n : BitVec 6) (s : State) : Host.Outcome State Fault Refusal := runSlot s (unOut sl 0x15 g sd sa (fun a => a >>> n.toNat) noChecks1)
/-- SRAI (R74). -/
def execSrai (sl : AB) (g : GReg) (sd sa : SReg) (n : BitVec 6) (s : State) : Host.Outcome State Fault Refusal := runSlot s (unOut sl 0x16 g sd sa (fun a => a.sshiftRight n.toNat) noChecks1)

/-- LUI (R74). -/
def execLui (sl : AB) (g : GReg) (sd : SReg) (imm : BitVec 24) (s : State) : Host.Outcome State Fault Refusal :=
  runSlot s (fun s id => guarded sl.slot 0x17 g (ctxOf s id) (fun o => { o with writes := scalarItems sd, effects := scalarEffects 1 sd (imm.signExtend 64 <<< 16) }))

/-- Leading zero bits of a word (R75). -/
def leadingZeros (a : W64) : Nat := if a = 0 then 64 else 63 - Nat.log2 a.toNat
/-- One bits of a word (R75). -/
def onesOf (n v : Nat) : Nat := ((List.range n).filter (fun i => v.testBit i)).length

/-- CLZ (R75). -/
def execClz (sl : AB) (g : GReg) (sd sa : SReg) (s : State) : Host.Outcome State Fault Refusal := runSlot s (unOut sl 0x19 g sd sa (fun a => BitVec.ofNat 64 (leadingZeros a)) noChecks1)
/-- POPC (R75). -/
def execPopc (sl : AB) (g : GReg) (sd sa : SReg) (s : State) : Host.Outcome State Fault Refusal := runSlot s (unOut sl 0x1A g sd sa (fun a => BitVec.ofNat 64 (onesOf 64 a.toNat)) noChecks1)

/-- A field extracted (R76); the width field holds the width minus one. -/
def extractField (a : W64) (pos wm1 : Nat) : W64 := BitVec.ofNat 64 (a.toNat / 2 ^ pos % 2 ^ (wm1 + 1))
/-- A field inserted (R76). -/
def insertField (d a : W64) (pos wm1 : Nat) : W64 :=
  let mask : W64 := BitVec.ofNat 64 ((2 ^ (wm1 + 1) - 1) * 2 ^ pos)
  (d &&& ~~~mask) ||| ((a <<< pos) &&& mask)

/-- BFX (R76). -/
def execBfx (sl : AB) (g : GReg) (sd sa : SReg) (wm1 : BitVec 5) (pos : BitVec 6) (s : State) : Host.Outcome State Fault Refusal :=
  runSlot s (unOut sl 0x1B g sd sa (fun a => extractField a pos.toNat wm1.toNat) noChecks1)
/-- BFI (R76). -/
def execBfi (sl : AB) (g : GReg) (sd sa : SReg) (wm1 : BitVec 5) (pos : BitVec 6) (s : State) : Host.Outcome State Fault Refusal :=
  runSlot s (accOut sl 0x1C g sd sa [] 1 (fun c => insertField (readS c sd) (readS c sa) pos.toNat wm1.toNat))

/-- SEL (R77). -/
def execSel (sl : AB) (g : GReg) (sd sa sb : SReg) (gc : GReg) (s : State) : Host.Outcome State Fault Refusal :=
  runSlot s (fun s id =>
    let c := ctxOf s id
    guarded sl.slot 0x1D g c (fun o =>
      { o with reads := o.reads ++ [sItem sa, sItem sb, guardItem gc], writes := scalarItems sd, effects := scalarEffects 1 sd (if readG c gc then readS c sa else readS c sb) }))

/-- Division forms (R78): a zero divisor traps with the slot in the detail. -/
def divOut (sl : AB) (opc : Nat) (g : GReg) (sd sa sb : SReg) (signed : Bool) (f : W64 → W64 → W64) (s : State) (id : Nat) : SlotOut :=
  let o := regOut sl opc g sd sa sb Config.latDiv f (fun a b => fires 0x19 (signed && a == BitVec.intMin 64 && b == BitVec.allOnes 64)) s id
  if o.active && readS (ctxOf s id) sb == 0 then { o with trap := some (trapOf 0x10 (Slot.num sl.slot)) } else o

/-- Quotients and remainders toward zero; −2^63 by −1 gives −2^63 and 0 (R78). -/
def divS (a b : W64) : W64 := BitVec.ofInt 64 (a.toInt.tdiv b.toInt)
def remS (a b : W64) : W64 := BitVec.ofInt 64 (a.toInt.tmod b.toInt)

/-- DIV (R78). -/
def execDiv (sl : AB) (g : GReg) (sd sa sb : SReg) (s : State) : Host.Outcome State Fault Refusal := runSlot s (divOut sl 0x1E g sd sa sb true divS)
/-- DIVN (R78). -/
def execDivn (sl : AB) (g : GReg) (sd sa sb : SReg) (s : State) : Host.Outcome State Fault Refusal := runSlot s (divOut sl 0x1F g sd sa sb false (fun a b => BitVec.ofNat 64 (a.toNat / b.toNat)))
/-- REM (R78). -/
def execRem (sl : AB) (g : GReg) (sd sa sb : SReg) (s : State) : Host.Outcome State Fault Refusal := runSlot s (divOut sl 0x20 g sd sa sb true remS)
/-- REMN (R78). -/
def execRemn (sl : AB) (g : GReg) (sd sa sb : SReg) (s : State) : Host.Outcome State Fault Refusal := runSlot s (divOut sl 0x21 g sd sa sb false (fun a b => BitVec.ofNat 64 (a.toNat % b.toNat)))

/-- A compare that writes a guard pair (R79). -/
def pairOut (sl : Slot) (opc : Nat) (g : GReg) (pair : BitVec 3) (lat : Nat) (reads : List (Nat × Nat × Nat)) (v : Ctx → Bool) (s : State) (id : Nat) : SlotOut :=
  let c := ctxOf s id
  guarded sl opc g c (fun o => { o with reads := o.reads ++ reads, writes := pairItems pair, debug := pairDebug pair, effects := pairEffects lat pair (v c) })

/-- CMP (R79). -/
def execCmp (sl : AB) (g : GReg) (pair cc : BitVec 3) (sa sb : SReg) (s : State) : Host.Outcome State Fault Refusal :=
  runSlot s (pairOut sl.slot 0x22 g pair 1 [sItem sa, sItem sb] (fun c => condScalar cc (readS c sa) (readS c sb)))

/-- The immediate of CMPI: zero-extended under cc 100 and 101 (R38, R79). -/
def cmpiImm (cc : BitVec 3) (imm : BitVec 18) : W64 := if cc = 4 || cc = 5 then imm.zeroExtend 64 else imm.signExtend 64

/-- CMPI (R79). -/
def execCmpi (sl : AB) (g : GReg) (pair cc : BitVec 3) (sa : SReg) (imm : BitVec 18) (s : State) : Host.Outcome State Fault Refusal :=
  runSlot s (pairOut sl.slot 0x23 g pair 1 [sItem sa] (fun c => condScalar cc (readS c sa) (cmpiImm cc imm)))
/-- GLOG (R80). -/
def execGlog (sl : AB) (g : GReg) (pair fn : BitVec 3) (ga gb : GReg) (s : State) : Host.Outcome State Fault Refusal :=
  runSlot s (pairOut sl.slot 0x24 g pair 1 [guardItem ga, guardItem gb] (fun c => guardFn fn (readG c ga) (readG c gb)))

/-- MOVG (R81), both directions. -/
def execMovg (sl : AB) (g : GReg) (toGuards : Bool) (r : SReg) (s : State) : Host.Outcome State Fault Refusal :=
  runSlot s (fun s id =>
    let c := ctxOf s id
    guarded sl.slot 0x2D g c (fun o =>
      let all := (List.range 14).map (fun i => i + 2)
      if toGuards then
        { o with reads := o.reads ++ [sItem r], writes := all.map (fun i => (1, i)), effects := all.map (fun i => .result 1 (.guard i ((readS c r).getLsbD i))) }
      else
        { o with reads := o.reads ++ all.map (fun i => (1, i, i)), writes := scalarItems r, effects := scalarEffects 1 r ((guardMask c).zeroExtend 64) }))

/-! ### Loads and stores (R87, R88) -/

/-- LDB (R87). -/
def execLdb (sl : AB) (g : GReg) (sd : SReg) (h : HReg) (sa : SReg) (imm : BitVec 15) (s : State) : Host.Outcome State Fault Refusal := runSlot s (loadOut sl.slot 0x40 g sd h sa imm.toNat 1 false)
/-- LDH (R87). -/
def execLdh (sl : AB) (g : GReg) (sd : SReg) (h : HReg) (sa : SReg) (imm : BitVec 15) (s : State) : Host.Outcome State Fault Refusal := runSlot s (loadOut sl.slot 0x41 g sd h sa imm.toNat 2 false)
/-- LDW (R87). -/
def execLdw (sl : AB) (g : GReg) (sd : SReg) (h : HReg) (sa : SReg) (imm : BitVec 15) (s : State) : Host.Outcome State Fault Refusal := runSlot s (loadOut sl.slot 0x42 g sd h sa imm.toNat 4 false)
/-- LDD (R87). -/
def execLdd (sl : AB) (g : GReg) (sd : SReg) (h : HReg) (sa : SReg) (imm : BitVec 15) (s : State) : Host.Outcome State Fault Refusal := runSlot s (loadOut sl.slot 0x43 g sd h sa imm.toNat 8 false)
/-- LDBX (R87). -/
def execLdbx (sl : AB) (g : GReg) (sd : SReg) (h : HReg) (sa : SReg) (imm : BitVec 15) (s : State) : Host.Outcome State Fault Refusal := runSlot s (loadOut sl.slot 0x44 g sd h sa imm.toNat 1 true)
/-- LDHX (R87). -/
def execLdhx (sl : AB) (g : GReg) (sd : SReg) (h : HReg) (sa : SReg) (imm : BitVec 15) (s : State) : Host.Outcome State Fault Refusal := runSlot s (loadOut sl.slot 0x45 g sd h sa imm.toNat 2 true)
/-- LDWX (R87). -/
def execLdwx (sl : AB) (g : GReg) (sd : SReg) (h : HReg) (sa : SReg) (imm : BitVec 15) (s : State) : Host.Outcome State Fault Refusal := runSlot s (loadOut sl.slot 0x46 g sd h sa imm.toNat 4 true)
/-- STB (R87). -/
def execStb (sl : AB) (g : GReg) (ss : SReg) (h : HReg) (sa : SReg) (imm : BitVec 15) (s : State) : Host.Outcome State Fault Refusal := runSlot s (storeOut sl.slot 0x47 g ss h sa imm.toNat 1)
/-- STH (R87). -/
def execSth (sl : AB) (g : GReg) (ss : SReg) (h : HReg) (sa : SReg) (imm : BitVec 15) (s : State) : Host.Outcome State Fault Refusal := runSlot s (storeOut sl.slot 0x48 g ss h sa imm.toNat 2)
/-- STW (R87). -/
def execStw (sl : AB) (g : GReg) (ss : SReg) (h : HReg) (sa : SReg) (imm : BitVec 15) (s : State) : Host.Outcome State Fault Refusal := runSlot s (storeOut sl.slot 0x49 g ss h sa imm.toNat 4)
/-- STD (R87). -/
def execStd (sl : AB) (g : GReg) (ss : SReg) (h : HReg) (sa : SReg) (imm : BitVec 15) (s : State) : Host.Outcome State Fault Refusal := runSlot s (storeOut sl.slot 0x4A g ss h sa imm.toNat 8)

end Sys2Proof.Machine
end

