-- ==== Sys2Proof/Machine/ScalarFp.lean ====
section
/-! DEFINITION. Scalar floating point: FADD to FMAX, FCMP and FCVT (R82 to R86). -/

namespace Sys2Proof.Machine

/-- The format of a format field; 11 falls back to f32 (R41, R55). -/
def fpFmt (fmt : BitVec 2) : FFmt := if fmt = 1 then .bf16 else if fmt = 2 then .f16 else .f32
/-- A scalar operand's low bits as a code of the format (R82). -/
def fpCode (f : FFmt) (a : W64) : Nat := a.toNat % 2 ^ (1 + f.eb + f.fb)
/-- A rounding field that falls back on an operation that does not narrow: SAT-RNE and the codes above it (R55). -/
def rmFalls (rm : BitVec 3) : Bool := decide (4 ≤ rm.toNat)

/-- FADD, FSUB, FMUL and FFMA (R82, R83). -/
def fpOut (sl : AB) (opc : Nat) (g : GReg) (sd sa sb : SReg) (op : FOp) (ftz : Bool) (rm : BitVec 3) (fmt : BitVec 2) (s : State) (id : Nat) : SlotOut :=
  let c := ctxOf s id
  guarded sl.slot opc g c (fun o =>
    let t := fpFmt fmt
    let r := t.arith op (rmOf rm.toNat) ftz (fpCode t (readS c sa)) (fpCode t (readS c sb)) (fpCode t (readS c sd))
    fellBack (rmFalls rm || fmt == 3) (checked 0 r.sat r.causes
      { o with reads := o.reads ++ [sItem sa, sItem sb] ++ (if op = .fma then [sItem sd] else []), writes := scalarItems sd, effects := scalarEffects Config.latFp sd (BitVec.ofNat 64 r.code) }))

/-- FADD (R82). -/
def execFadd (sl : AB) (g : GReg) (sd sa sb : SReg) (ftz : Bool) (rm : BitVec 3) (fmt : BitVec 2) (s : State) : Host.Outcome State Fault Refusal :=
  runSlot s (fpOut sl 0x25 g sd sa sb .add ftz rm fmt)
/-- FSUB (R82). -/
def execFsub (sl : AB) (g : GReg) (sd sa sb : SReg) (ftz : Bool) (rm : BitVec 3) (fmt : BitVec 2) (s : State) : Host.Outcome State Fault Refusal :=
  runSlot s (fpOut sl 0x26 g sd sa sb .sub ftz rm fmt)
/-- FMUL (R82). -/
def execFmul (sl : AB) (g : GReg) (sd sa sb : SReg) (ftz : Bool) (rm : BitVec 3) (fmt : BitVec 2) (s : State) : Host.Outcome State Fault Refusal :=
  runSlot s (fpOut sl 0x27 g sd sa sb .mul ftz rm fmt)
/-- FFMA (R82). -/
def execFfma (sl : AB) (g : GReg) (sd sa sb : SReg) (ftz : Bool) (rm : BitVec 3) (fmt : BitVec 2) (s : State) : Host.Outcome State Fault Refusal :=
  runSlot s (fpOut sl 0x28 g sd sa sb .fma ftz rm fmt)

/-- FMIN and FMAX (R84): a flushed operand is returned as the zero it was read as. -/
def fminmaxOut (sl : AB) (opc : Nat) (g : GReg) (sd sa sb : SReg) (ftz : Bool) (fmt : BitVec 2) (wantMax : Bool) (s : State) (id : Nat) : SlotOut :=
  let c := ctxOf s id
  guarded sl.slot opc g c (fun o =>
    let t := fpFmt fmt
    let a := fpCode t (readS c sa)
    let b := fpCode t (readS c sb)
    fellBack (fmt == 3) (checked 0 false (causeIf (t.isSubnormal a || t.isSubnormal b) 0x16)
      { o with reads := o.reads ++ [sItem sa, sItem sb], writes := scalarItems sd,
               effects := scalarEffects Config.latFp sd (BitVec.ofNat 64 (t.minMax wantMax (t.flush ftz a) (t.flush ftz b))) }))

/-- FMIN (R84). -/
def execFmin (sl : AB) (g : GReg) (sd sa sb : SReg) (ftz : Bool) (fmt : BitVec 2) (s : State) : Host.Outcome State Fault Refusal := runSlot s (fminmaxOut sl 0x29 g sd sa sb ftz fmt false)
/-- FMAX (R84). -/
def execFmax (sl : AB) (g : GReg) (sd sa sb : SReg) (ftz : Bool) (fmt : BitVec 2) (s : State) : Host.Outcome State Fault Refusal := runSlot s (fminmaxOut sl 0x2A g sd sa sb ftz fmt true)

/-- FCMP (R85). -/
def execFcmp (sl : AB) (g : GReg) (pair cc : BitVec 3) (sa sb : SReg) (ftz : Bool) (fmt : BitVec 2) (s : State) : Host.Outcome State Fault Refusal :=
  runSlot s (fun s id =>
    let t := fpFmt fmt
    let code (c : Ctx) (r : SReg) : Nat := fpCode t (readS c r)
    let value (c : Ctx) (r : SReg) : FVal := t.decode (t.flush ftz (code c r))
    let o := pairOut sl.slot 0x2B g pair Config.latFp [sItem sa, sItem sb] (fun c => condFloat cc (FVal.order (value c sa) (value c sb))) s id
    if o.active then fellBack (fmt == 3) (checked 0 false (causeIf (t.isSubnormal (code (ctxOf s id) sa) || t.isSubnormal (code (ctxOf s id) sb)) 0x16) o) else o)

/-- The conversion of a code of FCVT: source and destination formats (R86). -/
def fcvtFormats (conv : Nat) : NFmt × NFmt :=
  match conv with
  | 0 => (.ieee .f32, .ieee .bf16)
  | 1 => (.ieee .f32, .ieee .f16)
  | 2 => (.ieee .bf16, .ieee .f32)
  | 3 => (.ieee .f16, .ieee .f32)
  | 4 => (.ieee .bf16, .ieee .f16)
  | 5 => (.ieee .f16, .ieee .bf16)
  | 6 => (.ieee .f32, .int 32 true)
  | 7 => (.ieee .f32, .int 32 false)
  | 8 => (.ieee .f32, .int 64 true)
  | 9 => (.ieee .f32, .int 64 false)
  | 10 => (.int 32 true, .ieee .f32)
  | 11 => (.int 32 false, .ieee .f32)
  | 12 => (.int 64 true, .ieee .f32)
  | _ => (.int 64 false, .ieee .f32)

/-- The result of FCVT (R86). -/
def fcvtResult (conv : Nat) (ftz : Bool) (rm : Nat) (a : W64) : FRes :=
  let fs := fcvtFormats conv
  convertCode fs.1 fs.2 (rmOf rm) (rm = 4) ftz (a.toNat % 2 ^ fs.1.width)

/-- FCVT (R86): an i32 is sign-extended into sd, everything else zero-extended. -/
def execFcvt (sl : AB) (g : GReg) (sd sa : SReg) (conv : BitVec 5) (ftz : Bool) (rm : BitVec 3) (s : State) : Host.Outcome State Fault Refusal :=
  runSlot s (fun s id =>
    let c := ctxOf s id
    guarded sl.slot 0x2C g c (fun o =>
      let r := fcvtResult conv.toNat ftz rm.toNat (readS c sa)
      let v : W64 := if conv = 6 then BitVec.ofInt 64 (sextNat 32 r.code) else BitVec.ofNat 64 r.code
      fellBack (decide (5 ≤ rm.toNat) || ((conv = 2 || conv = 3) && rm == 4)) (checked 0 r.sat r.causes
        { o with reads := o.reads ++ [sItem sa], writes := scalarItems sd, effects := scalarEffects Config.latCvt sd v })))

end Sys2Proof.Machine
end

