-- ==== Sys2Proof/Machine/Transforms.lean ====
section
/-! DEFINITION. The transform units TXPOSE, TCONV and TEXPAND (R292 to R295). -/

namespace Sys2Proof.Machine

/-- A byte of a transform's operand lies beyond the share. -/
def transformBound (s : State) (id off len : Nat) : Option Trap :=
  let n := shareOf s (id / 4)
  if off + len ≤ n then none else some (accTrap 0x24 3 0 ⟨.scratch, 0, 0, 0, 0⟩ (max off n))

def reservedTrap (opc : Nat) : Trap := trapOf 0x04 (opc * 2 ^ 13 + 3)

/-- A transform: its checks in order, its source bytes, its results at latency `lat` (R292). -/
def transformOut (opc lat : Nat) (g : GReg) (reserved : Ctx → Bool) (odd : Ctx → Option Nat) (src dst : Ctx → List (Nat × Nat)) (results : State → Ctx → List (Nat × List Byte))
    (f : Ctx → SlotOut → SlotOut) (s : State) (id : Nat) : SlotOut :=
  let c := ctxOf s id
  guarded .d opc g c (fun o =>
    let hk : Handle := ⟨.scratch, 0, 0, 0, 0⟩
    let trap := if reserved c then some (reservedTrap opc)
      else match odd c with
        | some off => some (accTrap 0x25 3 0 hk off)
        | none => (src c ++ dst c).findSome? (fun e => transformBound s id e.1 e.2)
    if trap.isSome then { o with trap := trap }
    else f c { o with words := wordsOf (src c), poison := localPoison s id 3 (src c), stall := acquiring s c.uid,
                      effects := (results s c).map (fun r => .result lat (.bytes r.1 r.2)) })

/-! ### TXPOSE (R293) -/

def txposeSize (v : BitVec 5) : Nat := if v = 0 then 4 else if v = 1 then 2 else 1

/-- The rows of a block through m1 or m2. -/
def txposeRows (c : Ctx) (m : Nat) (v : BitVec 5) : List (Nat × Nat) := (List.range (32 / txposeSize v)).map (fun i => (wordOff (readM c m) + i * wordStride (readM c m), 32))

/-- TXPOSE (R293); variants 3 to 31 are not defined (R292). -/
def execTxpose (g : GReg) (variant : BitVec 5) (s : State) : Host.Outcome State Fault Refusal :=
  runSlot s (fun s id =>
    transformOut 0x0A Config.latTxpose g
      (fun c => decide (2 < variant.toNat) || bitsOf (readM c 1).toNat 32 8 != 0 || bitsOf (readM c 2).toNat 32 8 != 0)
      (fun c => [1, 2].findSome? (fun m => if wordOff (readM c m) % 32 != 0 || wordStride (readM c m) % 32 != 0 then some (wordOff (readM c m)) else none))
      (fun c => txposeRows c 1 variant) (fun c => txposeRows c 2 variant)
      (fun s c =>
        let e := txposeSize variant
        let rows := (txposeRows c 1 variant).map (fun r => localBytes s id r.1 32)
        let n := 32 / e
        ((List.range n).zip (txposeRows c 2 variant)).map (fun p => (p.2.1, (List.range n).flatMap (fun j => ((rows.getD j []).drop (e * p.1)).take e))))
      (fun _ o => o) s id)

/-! ### TCONV (R294) -/

/-- The conversion does not narrow (R86, R112, R114): an integer goes into one of at least its width (R140), or the target holds every value of the source. -/
def holdsEvery (src dst : NFmt) : Bool :=
  match src, dst with
  | .int w _, .int w' _ => decide (w ≤ w')
  | .ieee a, .ieee b => decide (a.eb ≤ b.eb) && decide (a.fb ≤ b.fb)
  | .int w sg, .ieee b => decide ((if sg then w - 1 else w) ≤ b.fb + 1)
  | _, _ =>
    decide (src.width ≤ 8) && (List.range (2 ^ src.width)).all (fun c =>
      let v := src.decode .zero c
      v.isNan || sameValue (dst.decode .zero (dst.round .rne false v).1) v)

/-- The formats and SAT of m3 (R294). -/
def convFormats (c : Ctx) : Nat × Nat × Bool := (bitsOf (readM c 3).toNat 0 5, bitsOf (readM c 3).toNat 8 5, (readM c 3).getLsbD 16)
def convCode (n : Nat) : Bool := decide (n ≤ 14) || n = 16 || n = 17 || n = 18
def convReserved (c : Ctx) : Bool :=
  let m3 := (readM c 3).toNat
  bitsOf m3 5 3 != 0 || bitsOf m3 13 3 != 0 || bitsOf m3 17 47 != 0 || !convCode (m3 % 32) || !convCode (bitsOf m3 8 5)
    || bitsOf (readM c 1).toNat 32 32 != 0 || bitsOf (readM c 2).toNat 32 32 != 0

/-- One element converted as TCONV and TEXPAND do (R112, R116, R294). -/
def convElem (c : Ctx) (rm : BitVec 3) (x : Nat) : FRes :=
  let (a, b, sat) := convFormats c
  let fa := nfmtOf a
  let fb := nfmtOf b
  let satRne := rm == 4 && !holdsEvery fa fb
  convertCode fa fb (rmOf rm.toNat) (satRne || (sat && fa.isInt && fb.isInt)) false x

/-- The rounding mode falls back (R55, R294). -/
def convFallback (c : Ctx) (rm : BitVec 3) : Bool := decide (5 ≤ rm.toNat) || (rm == 4 && holdsEvery (nfmtOf (convFormats c).1) (nfmtOf (convFormats c).2.1))

/-- The bytes of `n` packed elements. -/
def packedBytes (w n : Nat) : Nat := (w * n + 7) / 8

/-- The converted elements of TCONV. -/
def tconvResults (s : State) (id : Nat) (c : Ctx) (rm : BitVec 3) : List FRes :=
  let w := (nfmtOf (convFormats c).1).width
  (unpackRow w 0 128 (localBytes s id (wordOff (readM c 1)) (packedBytes w 128))).map (convElem c rm)

/-- TCONV (R294): x[2:0] is the rounding mode, and x[4:3] must be 0 when the bundle issues (R292). -/
def execTconv (g : GReg) (x : BitVec 5) (s : State) : Host.Outcome State Fault Refusal :=
  runSlot s (fun s id =>
    let rm : BitVec 3 := x.truncate 3
    let wd (c : Ctx) : Nat := (nfmtOf (convFormats c).2.1).width
    transformOut 0x0B Config.latTconv g (fun c => decide (8 ≤ x.toNat) || convReserved c) (fun _ => none)
      (fun c => [(wordOff (readM c 1), packedBytes (nfmtOf (convFormats c).1).width 128)]) (fun c => [(wordOff (readM c 2), packedBytes (wd c) 128)])
      (fun s c => [(wordOff (readM c 2), packRow (wd c) ((tconvResults s id c rm).map (·.code)))])
      (fun c o => let rs := tconvResults s id c rm; fellBack (convFallback c rm) (checked 0 (rs.any (·.sat)) (rs.flatMap (·.causes)) o)) s id)

/-! ### TEXPAND (R295) -/

def texpandN (n : BitVec 2) : Nat := if n = 0 then 6 else if n = 1 then 8 else if n = 2 then 12 else 16

/-- One group of 24 positions: the stored elements go to the set bits of the mask in order. -/
def expandGroup (mask : Nat) (es : List FRes) (pos : Nat) : Nat → List FRes
  | 0 => []
  | n + 1 =>
    if mask.testBit pos then
      match es with
      | e :: r => e :: expandGroup mask r (pos + 1) n
      | [] => plainRes 0 :: expandGroup mask [] (pos + 1) n
    else plainRes 0 :: expandGroup mask es (pos + 1) n

/-- The 192 positions of TEXPAND. -/
def texpandResults (s : State) (id : Nat) (c : Ctx) (n : BitVec 2) (rm : BitVec 3) : List FRes :=
  let k := texpandN n
  let w := (nfmtOf (convFormats c).1).width
  let es := unpackRow w 0 (8 * k) (localBytes s id (wordOff (readM c 1)) (packedBytes w (8 * k)))
  let masks := localBytes s id (wordOff (readM c 4)) 32
  (List.range 8).flatMap (fun gr => expandGroup (leNat ((masks.drop (4 * gr)).take 3)) (((es.drop (k * gr)).take k).map (convElem c rm)) 0 24)

/-- TEXPAND (R295): the debug checks do not cover it (R360). -/
def execTexpand (g : GReg) (n : BitVec 2) (rm : BitVec 3) (s : State) : Host.Outcome State Fault Refusal :=
  runSlot s (fun s id =>
    let wd (c : Ctx) : Nat := (nfmtOf (convFormats c).2.1).width
    transformOut 0x0C Config.latTexpand g (fun c => convReserved c || bitsOf (readM c 4).toNat 32 32 != 0) (fun _ => none)
      (fun c => [(wordOff (readM c 1), packedBytes (nfmtOf (convFormats c).1).width (8 * texpandN n)), (wordOff (readM c 4), 32)])
      (fun c => [(wordOff (readM c 2), packedBytes (wd c) 192)])
      (fun s c => [(wordOff (readM c 2), packRow (wd c) ((texpandResults s id c n rm).map (·.code)))])
      (fun c o => { o with effects := o.effects ++ (if convFallback c rm then [.warnFallback] else []) ++ (if (texpandResults s id c n rm).any (·.sat) then [.warnSat] else []) }) s id)

end Sys2Proof.Machine
end

