-- ==== Sys2Proof/Machine/Dispatch.lean ====
section
/-! DEFINITION. One arm for each instruction: the call of its meaning, or its rejection by name. -/

namespace Sys2Proof.Machine

def exec (i : Instr) (s : State) : Host.Outcome State Fault Refusal :=
  match i with
  | .hdr d c b => Sys2Proof.Machine.execHdr d c b s
  | .add sl g sd sa sb => Sys2Proof.Machine.execAdd sl g sd sa sb s
  | .sub sl g sd sa sb => Sys2Proof.Machine.execSub sl g sd sa sb s
  | .and sl g sd sa sb => Sys2Proof.Machine.execAnd sl g sd sa sb s
  | .or sl g sd sa sb => Sys2Proof.Machine.execOr sl g sd sa sb s
  | .xor sl g sd sa sb => Sys2Proof.Machine.execXor sl g sd sa sb s
  | .shl sl g sd sa sb => Sys2Proof.Machine.execShl sl g sd sa sb s
  | .shr sl g sd sa sb => Sys2Proof.Machine.execShr sl g sd sa sb s
  | .sra sl g sd sa sb => Sys2Proof.Machine.execSra sl g sd sa sb s
  | .min sl g sd sa sb => Sys2Proof.Machine.execMin sl g sd sa sb s
  | .max sl g sd sa sb => Sys2Proof.Machine.execMax sl g sd sa sb s
  | .minn sl g sd sa sb => Sys2Proof.Machine.execMinn sl g sd sa sb s
  | .maxn sl g sd sa sb => Sys2Proof.Machine.execMaxn sl g sd sa sb s
  | .mul sl g sd sa sb => Sys2Proof.Machine.execMul sl g sd sa sb s
  | .mulh sl g sd sa sb => Sys2Proof.Machine.execMulh sl g sd sa sb s
  | .mulhn sl g sd sa sb => Sys2Proof.Machine.execMulhn sl g sd sa sb s
  | .madd sl g sd sa sb => Sys2Proof.Machine.execMadd sl g sd sa sb s
  | .addi sl g sd sa imm => Sys2Proof.Machine.execAddi sl g sd sa imm s
  | .andi sl g sd sa imm => Sys2Proof.Machine.execAndi sl g sd sa imm s
  | .ori sl g sd sa imm => Sys2Proof.Machine.execOri sl g sd sa imm s
  | .xori sl g sd sa imm => Sys2Proof.Machine.execXori sl g sd sa imm s
  | .shli sl g sd sa n => Sys2Proof.Machine.execShli sl g sd sa n s
  | .shri sl g sd sa n => Sys2Proof.Machine.execShri sl g sd sa n s
  | .srai sl g sd sa n => Sys2Proof.Machine.execSrai sl g sd sa n s
  | .lui sl g sd imm => Sys2Proof.Machine.execLui sl g sd imm s
  | .clz sl g sd sa => Sys2Proof.Machine.execClz sl g sd sa s
  | .popc sl g sd sa => Sys2Proof.Machine.execPopc sl g sd sa s
  | .bfx sl g sd sa wm1 pos => Sys2Proof.Machine.execBfx sl g sd sa wm1 pos s
  | .bfi sl g sd sa wm1 pos => Sys2Proof.Machine.execBfi sl g sd sa wm1 pos s
  | .sel sl g sd sa sb gc => Sys2Proof.Machine.execSel sl g sd sa sb gc s
  | .div sl g sd sa sb => Sys2Proof.Machine.execDiv sl g sd sa sb s
  | .divn sl g sd sa sb => Sys2Proof.Machine.execDivn sl g sd sa sb s
  | .rem sl g sd sa sb => Sys2Proof.Machine.execRem sl g sd sa sb s
  | .remn sl g sd sa sb => Sys2Proof.Machine.execRemn sl g sd sa sb s
  | .cmp sl g pair cc sa sb => Sys2Proof.Machine.execCmp sl g pair cc sa sb s
  | .cmpi sl g pair cc sa imm => Sys2Proof.Machine.execCmpi sl g pair cc sa imm s
  | .glog sl g pair fn ga gb => Sys2Proof.Machine.execGlog sl g pair fn ga gb s
  | .movg sl g toGuards r => Sys2Proof.Machine.execMovg sl g toGuards r s
  | .fadd sl g sd sa sb ftz rm fmt => Sys2Proof.Machine.execFadd sl g sd sa sb ftz rm fmt s
  | .fsub sl g sd sa sb ftz rm fmt => Sys2Proof.Machine.execFsub sl g sd sa sb ftz rm fmt s
  | .fmul sl g sd sa sb ftz rm fmt => Sys2Proof.Machine.execFmul sl g sd sa sb ftz rm fmt s
  | .ffma sl g sd sa sb ftz rm fmt => Sys2Proof.Machine.execFfma sl g sd sa sb ftz rm fmt s
  | .fmin sl g sd sa sb ftz fmt => Sys2Proof.Machine.execFmin sl g sd sa sb ftz fmt s
  | .fmax sl g sd sa sb ftz fmt => Sys2Proof.Machine.execFmax sl g sd sa sb ftz fmt s
  | .fcmp sl g pair cc sa sb ftz fmt => Sys2Proof.Machine.execFcmp sl g pair cc sa sb ftz fmt s
  | .fcvt sl g sd sa conv ftz rm => Sys2Proof.Machine.execFcvt sl g sd sa conv ftz rm s
  | .ldb sl g sd h sa imm => Sys2Proof.Machine.execLdb sl g sd h sa imm s
  | .ldh sl g sd h sa imm => Sys2Proof.Machine.execLdh sl g sd h sa imm s
  | .ldw sl g sd h sa imm => Sys2Proof.Machine.execLdw sl g sd h sa imm s
  | .ldd sl g sd h sa imm => Sys2Proof.Machine.execLdd sl g sd h sa imm s
  | .ldbx sl g sd h sa imm => Sys2Proof.Machine.execLdbx sl g sd h sa imm s
  | .ldhx sl g sd h sa imm => Sys2Proof.Machine.execLdhx sl g sd h sa imm s
  | .ldwx sl g sd h sa imm => Sys2Proof.Machine.execLdwx sl g sd h sa imm s
  | .stb sl g ss h sa imm => Sys2Proof.Machine.execStb sl g ss h sa imm s
  | .sth sl g ss h sa imm => Sys2Proof.Machine.execSth sl g ss h sa imm s
  | .stw sl g ss h sa imm => Sys2Proof.Machine.execStw sl g ss h sa imm s
  | .std sl g ss h sa imm => Sys2Proof.Machine.execStd sl g ss h sa imm s
  | .br g hint disp => Sys2Proof.Machine.execBr g hint disp s
  | .call g hint disp => Sys2Proof.Machine.execCall g hint disp s
  | .ret g hint => Sys2Proof.Machine.execRet g hint s
  | .jr g hint sa => Sys2Proof.Machine.execJr g hint sa s
  | .loops g pair sa ec => Sys2Proof.Machine.execLoops g pair sa ec s
  | .loopr g hint disp => Sys2Proof.Machine.execLoopr g hint disp s
  | .loopc g hint disp => Sys2Proof.Machine.execLoopc g hint disp s
  | .spawn g h sa imm => Sys2Proof.Machine.execSpawn g h sa imm s
  | .endTask g => Sys2Proof.Machine.execEndTask g s
  | .waitk g k => Sys2Proof.Machine.execWaitk g k s
  | .segmark g n => Sys2Proof.Machine.execSegmark g n s
  | .trap g n => Sys2Proof.Machine.execTrap g n s
  | .bkpt g n => Sys2Proof.Machine.execBkpt g n s
  | .eret g => Sys2Proof.Machine.execEret g s
  | .sysrd g sd n => Sys2Proof.Machine.execSysrd g sd n s
  | .syswr g ss n => Sys2Proof.Machine.execSyswr g ss n s
  | .kstat g sd k => Sys2Proof.Machine.execKstat g sd k s
  | .kclr g k => Sys2Proof.Machine.execKclr g k s
  | .idle g => Sys2Proof.Machine.execIdle g s
  | .vld g vd h sa mode imm => Sys2Proof.Machine.execVld g vd h sa mode imm s
  | .vst g vs h sa mode imm => Sys2Proof.Machine.execVst g vs h sa mode imm s
  | .vlds g vd h sa mode imm => Sys2Proof.Machine.execVlds g vd h sa mode imm s
  | .vsts g vs h sa mode imm => Sys2Proof.Machine.execVsts g vs h sa mode imm s
  | .ldro g sd h sa imm => Sys2Proof.Machine.execLdro g sd h sa imm s
  | .vldro g vd h sa mode imm => Sys2Proof.Machine.execVldro g vd h sa mode imm s
  | .roinv g => Sys2Proof.Machine.execRoinv g s
  | .lda g sd h sa size scope => Sys2Proof.Machine.execLda g sd h sa size scope s
  | .stl g ss h sa size scope => Sys2Proof.Machine.execStl g ss h sa size scope s
  | .amo g sd h sa fn scope => Sys2Proof.Machine.execAmo g sd h sa fn scope s
  | .acas g sd h sa scope => Sys2Proof.Machine.execAcas g sd h sa scope s
  | .fadda g sd h sa old scope => Sys2Proof.Machine.execFadda g sd h sa old scope s
  | .fence g scope => Sys2Proof.Machine.execFence g scope s
  | .drain g scope => Sys2Proof.Machine.execDrain g scope s
  | .hbind g h sa => Sys2Proof.Machine.execHbind g h sa s
  | .hinfo g sd h sa imm => Sys2Proof.Machine.execHinfo g sd h sa imm s
  | .hsetxv g h sa => Sys2Proof.Machine.execHsetxv g h sa s
  | .mset g ss m => Sys2Proof.Machine.execMset g ss m s
  | .mget g sd m => Sys2Proof.Machine.execMget g sd m s
  | .tuse g h sa imm => Sys2Proof.Machine.execTuse g h sa imm s
  | .pref g h sa imm => Sys2Proof.Machine.execPref g h sa imm s
  | .awaitf g ring th => Sys2Proof.Machine.execAwaitf g ring th s
  | .rels g ring sa imm => Sys2Proof.Machine.execRels g ring sa imm s
  | .rpush g ring sa imm => Sys2Proof.Machine.execRpush g ring sa imm s
  | .barr g gs => Sys2Proof.Machine.execBarr g gs s
  | .barw g gs sa => Sys2Proof.Machine.execBarw g gs sa s
  | .bart g gs pair sa => Sys2Proof.Machine.execBart g gs pair sa s
  | .split g code => Sys2Proof.Machine.execSplit g code s
  | .vadd p vd va vb ty => Sys2Proof.Machine.execVadd p vd va vb ty s
  | .vsub p vd va vb ty => Sys2Proof.Machine.execVsub p vd va vb ty s
  | .vmul p vd va vb ty => Sys2Proof.Machine.execVmul p vd va vb ty s
  | .vfma p vd va vb ty => Sys2Proof.Machine.execVfma p vd va vb ty s
  | .vmin p vd va vb ty => Sys2Proof.Machine.execVmin p vd va vb ty s
  | .vmax p vd va vb ty => Sys2Proof.Machine.execVmax p vd va vb ty s
  | .vabs p vd va ty => Sys2Proof.Machine.execVabs p vd va ty s
  | .vneg p vd va ty => Sys2Proof.Machine.execVneg p vd va ty s
  | .vand p vd va vb ty => Sys2Proof.Machine.execVand p vd va vb ty s
  | .vor p vd va vb ty => Sys2Proof.Machine.execVor p vd va vb ty s
  | .vxor p vd va vb ty => Sys2Proof.Machine.execVxor p vd va vb ty s
  | .vshl p vd va vb ty => Sys2Proof.Machine.execVshl p vd va vb ty s
  | .vshr p vd va vb ty => Sys2Proof.Machine.execVshr p vd va vb ty s
  | .vsra p vd va vb ty => Sys2Proof.Machine.execVsra p vd va vb ty s
  | .vmulh p vd va vb ty => Sys2Proof.Machine.execVmulh p vd va vb ty s
  | .vadds p vd va sb ty => Sys2Proof.Machine.execVadds p vd va sb ty s
  | .vsubs p vd va sb ty => Sys2Proof.Machine.execVsubs p vd va sb ty s
  | .vmuls p vd va sb ty => Sys2Proof.Machine.execVmuls p vd va sb ty s
  | .vfmas p vd va sb ty => Sys2Proof.Machine.execVfmas p vd va sb ty s
  | .vmins p vd va sb ty => Sys2Proof.Machine.execVmins p vd va sb ty s
  | .vmaxs p vd va sb ty => Sys2Proof.Machine.execVmaxs p vd va sb ty s
  | .vands p vd va sb ty => Sys2Proof.Machine.execVands p vd va sb ty s
  | .vors p vd va sb ty => Sys2Proof.Machine.execVors p vd va sb ty s
  | .vxors p vd va sb ty => Sys2Proof.Machine.execVxors p vd va sb ty s
  | .vshls p vd va sb ty => Sys2Proof.Machine.execVshls p vd va sb ty s
  | .vshrs p vd va sb ty => Sys2Proof.Machine.execVshrs p vd va sb ty s
  | .vsras p vd va sb ty => Sys2Proof.Machine.execVsras p vd va sb ty s
  | .vmulhs p vd va sb ty => Sys2Proof.Machine.execVmulhs p vd va sb ty s
  | .vcmp p pair cc va vb ty => Sys2Proof.Machine.execVcmp p pair cc va vb ty s
  | .vcmps p pair cc va sb ty => Sys2Proof.Machine.execVcmps p pair cc va sb ty s
  | .vsel p vd va vb ty => Sys2Proof.Machine.execVsel p vd va vb ty s
  | .vmov p vd va ty => Sys2Proof.Machine.execVmov p vd va ty s
  | .vbcast p vd sb ty => Sys2Proof.Machine.execVbcast p vd sb ty s
  | .vidx p vd imm ty => Sys2Proof.Machine.execVidx p vd imm ty s
  | .vcvt p vd va fmt unpack sat ty => Sys2Proof.Machine.execVcvt p vd va fmt unpack sat ty s
  | .vpack p vd va vb ty => Sys2Proof.Machine.execVpack p vd va vb ty s
  | .vunpk p vd va half ty => Sys2Proof.Machine.execVunpk p vd va half ty s
  | .vred p toScalar dst va fn ty => Sys2Proof.Machine.execVred p toScalar dst va fn ty s
  | .vscan p vd va fn ty => Sys2Proof.Machine.execVscan p vd va fn ty s
  | .vperm p vd va vb ty => Sys2Proof.Machine.execVperm p vd va vb ty s
  | .vrot p vd va sb ty => Sys2Proof.Machine.execVrot p vd va sb ty s
  | .vexp2 p vd va ty => Sys2Proof.Machine.execVexp2 p vd va ty s
  | .vlog2 p vd va ty => Sys2Proof.Machine.execVlog2 p vd va ty s
  | .vrcp p vd va ty => Sys2Proof.Machine.execVrcp p vd va ty s
  | .vrsq p vd va ty => Sys2Proof.Machine.execVrsq p vd va ty s
  | .vtanh p vd va ty => Sys2Proof.Machine.execVtanh p vd va ty s
  | .vscac p vd va vb ty => Sys2Proof.Machine.execVscac p vd va vb ty s
  | .pcommit p vd part sb ty => Sys2Proof.Machine.execPcommit p vd part sb ty s
  | .vtopk p vd va vb ty => Sys2Proof.Machine.execVtopk p vd va vb ty s
  | .vmaxi p vd va vb ty => Sys2Proof.Machine.execVmaxi p vd va vb ty s
  | .pand p pd pa pb => Sys2Proof.Machine.execPand p pd pa pb s
  | .por p pd pa pb => Sys2Proof.Machine.execPor p pd pa pb s
  | .pxor p pd pa pb => Sys2Proof.Machine.execPxor p pd pa pb s
  | .pnot p pd pa => Sys2Proof.Machine.execPnot p pd pa s
  | .pmov p pd pa => Sys2Proof.Machine.execPmov p pd pa s
  | .pcnt p sd pa => Sys2Proof.Machine.execPcnt p sd pa s
  | .vget p sd va lane => Sys2Proof.Machine.execVget p sd va lane s
  | .vset p vd lane sb => Sys2Proof.Machine.execVset p vd lane sb s
  | .vrnd p vd va rm ty => Sys2Proof.Machine.execVrnd p vd va rm ty s
  | .vclamp p vd va vb ty => Sys2Proof.Machine.execVclamp p vd va vb ty s
  | .mcall g kd ka kb kc n => Sys2Proof.Machine.execMcall g kd ka kb kc n s
  | .mzero g kd ka kb kc tile => Sys2Proof.Machine.execMzero g kd ka kb kc tile s
  | .mloop kleft l target => Sys2Proof.Machine.execMloop kleft l target s
  | .madv dest src set imm => Sys2Proof.Machine.execMadv dest src set imm s
  | .kjoin g kd ka kb kc => Sys2Proof.Machine.execKjoin g kd ka kb kc s
  | .xcopy g kd ka kb kc x => Sys2Proof.Machine.execXcopy g kd ka kb kc x s
  | .xload g kd ka kb kc x => Sys2Proof.Machine.execXload g kd ka kb kc x s
  | .xstore g kd ka kb kc x => Sys2Proof.Machine.execXstore g kd ka kb kc x s
  | .xgather g kd ka kb kc x => Sys2Proof.Machine.execXgather g kd ka kb kc x s
  | .xscatter g kd ka kb kc x => Sys2Proof.Machine.execXscatter g kd ka kb kc x s
  | .xfill g kd ka kb kc x => Sys2Proof.Machine.execXfill g kd ka kb kc x s
  | .txpose g variant => Sys2Proof.Machine.execTxpose g variant s
  | .tconv g x => Sys2Proof.Machine.execTconv g x s
  | .texpand g n rm => Sys2Proof.Machine.execTexpand g n rm s
  | .tstream g kd ka kb kc x => Sys2Proof.Machine.execTstream g kd ka kb kc x s
  | .coll g kd ka kb kc op gs => Sys2Proof.Machine.execColl g kd ka kb kc op gs s
  | .nmcall g kd ka kb kc n => Sys2Proof.Machine.execNmcall g kd ka kb kc n s
  | .nmred g kd ka kb kc => Sys2Proof.Machine.execNmred g kd ka kb kc s
  | .nmired g kd ka kb kc => Sys2Proof.Machine.execNmired g kd ka kb kc s
  | .ompenAdd d a b => Sys2Proof.Machine.execOmpenAdd d a b s
  | .ompenSub d a b => Sys2Proof.Machine.execOmpenSub d a b s
  | .ompenAnd d a b => Sys2Proof.Machine.execOmpenAnd d a b s
  | .ompenOr d a b => Sys2Proof.Machine.execOmpenOr d a b s
  | .ompenXor d a b => Sys2Proof.Machine.execOmpenXor d a b s
  | .ompenShl d a b => Sys2Proof.Machine.execOmpenShl d a b s
  | .ompenShr d a b => Sys2Proof.Machine.execOmpenShr d a b s
  | .ompenSra d a b => Sys2Proof.Machine.execOmpenSra d a b s
  | .ompenMul d a b => Sys2Proof.Machine.execOmpenMul d a b s
  | .ompenMin d a b => Sys2Proof.Machine.execOmpenMin d a b s
  | .ompenMax d a b => Sys2Proof.Machine.execOmpenMax d a b s
  | .ompenMinn d a b => Sys2Proof.Machine.execOmpenMinn d a b s
  | .ompenMaxn d a b => Sys2Proof.Machine.execOmpenMaxn d a b s
  | .ompenAddi d a imm => Sys2Proof.Machine.execOmpenAddi d a imm s
  | .ompenAndi d a imm => Sys2Proof.Machine.execOmpenAndi d a imm s
  | .ompenShli d a n => Sys2Proof.Machine.execOmpenShli d a n s
  | .ompenShri d a n => Sys2Proof.Machine.execOmpenShri d a n s
  | .ompenSrai d a n => Sys2Proof.Machine.execOmpenSrai d a n s
  | .ompenLui d imm => Sys2Proof.Machine.execOmpenLui d imm s
  | .beq a b disp => Sys2Proof.Machine.execBeq a b disp s
  | .bne a b disp => Sys2Proof.Machine.execBne a b disp s
  | .blt a b disp => Sys2Proof.Machine.execBlt a b disp s
  | .bge a b disp => Sys2Proof.Machine.execBge a b disp s
  | .bltn a b disp => Sys2Proof.Machine.execBltn a b disp s
  | .bgen a b disp => Sys2Proof.Machine.execBgen a b disp s
  | .jmp disp => Sys2Proof.Machine.execJmp disp s
  | .loop a disp => Sys2Proof.Machine.execLoop a disp s
  | .rds d code => Sys2Proof.Machine.execRds d code s
  | .ld d a size imm => Sys2Proof.Machine.execLd d a size imm s
  | .st d a size imm => Sys2Proof.Machine.execSt d a size imm s
  | .ldx d a e size imm => Sys2Proof.Machine.execLdx d a e size imm s
  | .stx d a e size imm => Sys2Proof.Machine.execStx d a e size imm s
  | .wld d a imm => Sys2Proof.Machine.execWld d a imm s
  | .wst d a imm => Sys2Proof.Machine.execWst d a imm s
  | .wldx d a e imm => Sys2Proof.Machine.execWldx d a e imm s
  | .wstx d a e imm => Sys2Proof.Machine.execWstx d a e imm s
  | .wfma d a b z ty => Sys2Proof.Machine.execWfma d a b z ty s
  | .wadd d a b z ty => Sys2Proof.Machine.execWadd d a b z ty s
  | .wmin d a b z ty => Sys2Proof.Machine.execWmin d a b z ty s
  | .wmax d a b z ty => Sys2Proof.Machine.execWmax d a b z ty s
  | .wcvt d a z fn => Sys2Proof.Machine.execWcvt d a z fn s
  | .wbcast d a z => Sys2Proof.Machine.execWbcast d a z s
  | .wget d a lane => Sys2Proof.Machine.execWget d a lane s
  | .wcmp d a b z cc ty => Sys2Proof.Machine.execWcmp d a b z cc ty s
  | .wred d a b z fn ty => Sys2Proof.Machine.execWred d a b z fn ty s
  | .topk d a b ty => Sys2Proof.Machine.execTopk d a b ty s
  | .sectexp d a b => Sys2Proof.Machine.execSectexp d a b s
  | .sectcmp d a b => Sys2Proof.Machine.execSectcmp d a b s
  | .ired d a b e => Sys2Proof.Machine.execIred d a b e s
  | .flagst r a e => Sys2Proof.Machine.execFlagst r a e s
  | .rngf d r t => Sys2Proof.Machine.execRngf d r t s
  | .bfxt d r t => Sys2Proof.Machine.execBfxt d r t s
  | .sgwait d r t => Sys2Proof.Machine.execSgwait d r t s
  | .dispx d r t => Sys2Proof.Machine.execDispx d r t s
  | .walog d r t => Sys2Proof.Machine.execWalog d r t s
  | .wacommit d r t => Sys2Proof.Machine.execWacommit d r t s
  | .mpdataWrite g ss => Sys2Proof.Machine.execMpdataWrite g ss s
  | .ringcfgWrite g ss => Sys2Proof.Machine.execRingcfgWrite g ss s
  | .wpinWrite g ss => Sys2Proof.Machine.execWpinWrite g ss s
  | .wunpinWrite g ss => Sys2Proof.Machine.execWunpinWrite g ss s
  | .nop => Sys2Proof.Machine.execNop s
  | .nullifierSkip => Sys2Proof.Machine.execNullifierSkip s
  | .writebackLand => Sys2Proof.Machine.execWritebackLand s
  | .interlockedResultArrive => Sys2Proof.Machine.execInterlockedResultArrive s
  | .singleStep => Sys2Proof.Machine.execSingleStep s
  | .branchTrace => Sys2Proof.Machine.execBranchTrace s
  | .wakeNotice => Sys2Proof.Machine.execWakeNotice s
  | .stlHeldPerform => Sys2Proof.Machine.execStlHeldPerform s
  | .atomicPerformAtHome => Sys2Proof.Machine.execAtomicPerformAtHome s
  | .storeApplyAtHome => Sys2Proof.Machine.execStoreApplyAtHome s
  | .remoteStoreFailure => Sys2Proof.Machine.execRemoteStoreFailure s
  | .remoteAccessTimeout => Sys2Proof.Machine.execRemoteAccessTimeout s
  | .ringCounterUpdate => Sys2Proof.Machine.execRingCounterUpdate s
  | .barrierArrivalRemote => Sys2Proof.Machine.execBarrierArrivalRemote s
  | .generationBroadcast => Sys2Proof.Machine.execGenerationBroadcast s
  | .splitSwitch => Sys2Proof.Machine.execSplitSwitch s
  | .matrixStart => Sys2Proof.Machine.execMatrixStart s
  | .mla => Sys2Proof.Machine.execMla s
  | .mlb => Sys2Proof.Machine.execMlb s
  | .mstep => Sys2Proof.Machine.execMstep s
  | .mdrain => Sys2Proof.Machine.execMdrain s
  | .msync => Sys2Proof.Machine.execMsync s
  | .mend => Sys2Proof.Machine.execMend s
  | .microopCountExpiry => Sys2Proof.Machine.execMicroopCountExpiry s
  | .drainLand => Sys2Proof.Machine.execDrainLand s
  | .mcallComplete => Sys2Proof.Machine.execMcallComplete s
  | .copyStart => Sys2Proof.Machine.execCopyStart s
  | .copyComplete => Sys2Proof.Machine.execCopyComplete s
  | .engineTimeout => Sys2Proof.Machine.execEngineTimeout s
  | .streamComplete => Sys2Proof.Machine.execStreamComplete s
  | .collInstanceStart => Sys2Proof.Machine.execCollInstanceStart s
  | .collComplete => Sys2Proof.Machine.execCollComplete s
  | .lakebedCommandHandover => Sys2Proof.Machine.execLakebedCommandHandover s
  | .lakebedTaskHandover => Sys2Proof.Machine.execLakebedTaskHandover s
  | .lakebedKernelStart => Sys2Proof.Machine.execLakebedKernelStart s
  | .lakebedWatchdog => Sys2Proof.Machine.execLakebedWatchdog s
  | .ompenNop => Sys2Proof.Machine.execOmpenNop s
  | .ompenFence => Sys2Proof.Machine.execOmpenFence s
  | .yield => Sys2Proof.Machine.execYield s
  | .done => Sys2Proof.Machine.execDone s
  | .compressedLineWrite => Sys2Proof.Machine.execCompressedLineWrite s
  | .submissionWordWrite => Sys2Proof.Machine.execSubmissionWordWrite s
  | .commandWordWrite => Sys2Proof.Machine.execCommandWordWrite s
  | .operatorAdmit => Sys2Proof.Machine.execOperatorAdmit s
  | .coresidentLaunch => Sys2Proof.Machine.execCoresidentLaunch s
  | .taskPop => Sys2Proof.Machine.execTaskPop s
  | .segmentCopyLand => Sys2Proof.Machine.execSegmentCopyLand s
  | .operatorComplete => Sys2Proof.Machine.execOperatorComplete s
  | .operatorDeadline => Sys2Proof.Machine.execOperatorDeadline s
  | .completionWindowClose => Sys2Proof.Machine.execCompletionWindowClose s
  | .ringRecordWrite => Sys2Proof.Machine.execRingRecordWrite s
  | .migrationEpochEnd => Sys2Proof.Machine.execMigrationEpochEnd s
  | .migrationSwitch => Sys2Proof.Machine.execMigrationSwitch s
  | .walkComplete => Sys2Proof.Machine.execWalkComplete s
  | .faultTimeout => Sys2Proof.Machine.execFaultTimeout s
  | .weirActionSwitch => Sys2Proof.Machine.execWeirActionSwitch s
  | .reserveDrain => Sys2Proof.Machine.execReserveDrain s
  | .recomputeComplete => Sys2Proof.Machine.execRecomputeComplete s
  | .recomputeFail => Sys2Proof.Machine.execRecomputeFail s
  | .tensorImageLoad => Sys2Proof.Machine.execTensorImageLoad s
  | .tensorDelete => Sys2Proof.Machine.execTensorDelete s
  | .preemptRequest => Sys2Proof.Machine.execPreemptRequest s
  | .contextSave => Sys2Proof.Machine.execContextSave s
  | .partitionResize => Sys2Proof.Machine.execPartitionResize s
  | .resizeTimeout => Sys2Proof.Machine.execResizeTimeout s
  | .partitionReset => Sys2Proof.Machine.execPartitionReset s
  | .clearStream => Sys2Proof.Machine.execClearStream s
  | .cancel => Sys2Proof.Machine.execCancel s
  | .preempt => Sys2Proof.Machine.execPreempt s
  | .invalidate => Sys2Proof.Machine.execInvalidate s
  | .faultAnswer => Sys2Proof.Machine.execFaultAnswer s
  | .checkpoint => Sys2Proof.Machine.execCheckpoint s
  | .restore => Sys2Proof.Machine.execRestore s
  | .groupDomain => Sys2Proof.Machine.execGroupDomain s
  | .qpReset => Sys2Proof.Machine.execQpReset s
  | .graphLaunch => Sys2Proof.Machine.execGraphLaunch s
  | .graphPatch => Sys2Proof.Machine.execGraphPatch s
  | .graphAbort => Sys2Proof.Machine.execGraphAbort s
  | .attest => Sys2Proof.Machine.execAttest s
  | .health => Sys2Proof.Machine.execHealth s
  | .rdmaRequest => Sys2Proof.Machine.execRdmaRequest s
  | .rdmaRequestComplete => Sys2Proof.Machine.execRdmaRequestComplete s
  | .inboundRdmaWrite => Sys2Proof.Machine.execInboundRdmaWrite s
  | .linkDown => Sys2Proof.Machine.execLinkDown s
  | .coreRailAlarmRaise => Sys2Proof.Machine.execCoreRailAlarmRaise s
  | .coreRailAlarmClear => Sys2Proof.Machine.execCoreRailAlarmClear s
  | .thermalClockLower => Sys2Proof.Machine.execThermalClockLower s
  | .thermalClockRestore => Sys2Proof.Machine.execThermalClockRestore s
  | .thermalTrip => Sys2Proof.Machine.execThermalTrip s
  | .healthBlockSave => Sys2Proof.Machine.execHealthBlockSave s
  | .moduleReset => Sys2Proof.Machine.execModuleReset s
  | .recoveryImageDownload => Sys2Proof.Machine.execRecoveryImageDownload s
  | .sgwaitLimitExpiry => Sys2Proof.Machine.execSgwaitLimitExpiry s
  | .hangDetectorExpiry => Sys2Proof.Machine.execHangDetectorExpiry s
  | .wellheadRestart => Sys2Proof.Machine.execWellheadRestart s
  | .illegalOpcode => Sys2Proof.Machine.execIllegalOpcode s
  | .ompenIllegalOpcode => Sys2Proof.Machine.execOmpenIllegalOpcode s
  | .partitionCreate => Sys2Proof.Machine.execPartitionCreate s
  | .tensorCreate => Sys2Proof.Machine.execTensorCreate s
  | .domainMapChange => Sys2Proof.Machine.execDomainMapChange s
  | .engineOffline => Sys2Proof.Machine.execEngineOffline s
  | .rdmaRetryExceeded => Sys2Proof.Machine.execRdmaRetryExceeded s
  | .powerFail => Sys2Proof.Machine.execPowerFail s

end Sys2Proof.Machine
end

