-- ==== Sys2Proof/Machine/Riscv.lean ====
section
/-! DEFINITION. The base instruction set of the Wellhead's processors: R421 names RV64IMAC with the machine and supervisor levels and describes none of it; what follows is that of the RISC-V standard (PRESUMED, log 19). The instructions are no rows of the opcode table: they are carried out from their words. -/

namespace Sys2Proof.Machine

/-! ### Control and status registers -/

def rvCsr (w : Well) (n : Nat) : W64 := tget 0 w.csr n
def setRvCsr (w : Well) (n : Nat) (v : W64) : Well := { w with csr := tset w.csr n v }

/-- The interrupts that are pending: what software has written to mip, and the lines of the turn. -/
def rvPending (w : Well) (lines : W64) : W64 := (rvCsr w 0x344 ||| lines) &&& 0xAAA

/-- The fields of mstatus that sstatus shows. -/
def sstatusMask : W64 := 0x22

/-- A register's value, for those that exist. SXL reads 2, and SPP, in mstatus as in sstatus, 1: there is no level below supervisor. (PRESUMED, log 19.) -/
def rvCsrRead (die cp : Nat) (w : Well) (lines free : W64) (n : Nat) : Option W64 :=
  if n = 0x300 then some (w.mstatus ||| 0x800000100)
  else if n = 0x301 then some 0x8000000000041105
  else if n ∈ [0x302, 0x303, 0x304, 0x306, 0x340, 0x105, 0x106, 0x140, 0x141, 0x142, 0x143] then some (rvCsr w n)
  else if n = 0x305 then some w.mtvec
  else if n = 0x341 then some w.mepc
  else if n = 0x342 then some w.mcause
  else if n = 0x343 then some w.mtval
  else if n = 0x344 then some (rvPending w lines)
  else if n = 0xF14 then some (BitVec.ofNat 64 (4 * die + cp))
  else if n = 0x100 then some ((w.mstatus &&& sstatusMask) ||| 0x100)
  else if n = 0x104 then some (rvCsr w 0x304 &&& rvCsr w 0x303)
  else if n = 0x144 then some (rvPending w lines &&& rvCsr w 0x303)
  else if n ∈ [0xB00, 0xB02, 0xC00, 0xC01, 0xC02] then some free
  else if n ∈ [0x180, 0x30A, 0x10A, 0x320, 0xF11, 0xF12, 0xF13, 0xF15] then some 0
  else if decide (0x323 ≤ n ∧ n ≤ 0x33F) || decide (0x3A0 ≤ n ∧ n ≤ 0x3EF) || decide (0xB03 ≤ n ∧ n ≤ 0xB1F) || decide (0xC03 ≤ n ∧ n ≤ 0xC1F) then some 0
  else none

/-- A word with the bits of a mask replaced. -/
def withBits (old new mask : W64) : W64 := (old &&& ~~~mask) ||| (new &&& mask)

/-- A write of a register; MPP takes only the two levels there are, satp and the protection registers stay 0. (PRESUMED, log 19.) -/
def rvCsrWrite (w : Well) (n : Nat) (v : W64) : Well :=
  if n = 0x300 then
    let x := withBits w.mstatus v 0x7000AA
    { w with mstatus := if bitsOf v.toNat 11 2 = 1 || bitsOf v.toNat 11 2 = 3 then withBits x v 0x1800 else x }
  else if n = 0x100 then { w with mstatus := withBits w.mstatus v sstatusMask }
  else if n = 0x302 then setRvCsr w n (v &&& 0x3FF)
  else if n = 0x303 then setRvCsr w n (v &&& 0x222)
  else if n = 0x304 then setRvCsr w n (v &&& 0xAAA)
  else if n = 0x104 then setRvCsr w 0x304 (withBits (rvCsr w 0x304) v (rvCsr w 0x303))
  else if n = 0x344 then setRvCsr w n (withBits (rvCsr w n) v 0x222)
  else if n = 0x144 then setRvCsr w 0x344 (withBits (rvCsr w 0x344) v (rvCsr w 0x303 &&& 0x2))
  else if n = 0x305 then { w with mtvec := v &&& ~~~(2 : W64) }
  else if n = 0x105 then setRvCsr w n (v &&& ~~~(2 : W64))
  else if n = 0x341 then { w with mepc := v &&& ~~~(1 : W64) }
  else if n = 0x141 then setRvCsr w n (v &&& ~~~(1 : W64))
  else if n = 0x342 then { w with mcause := v }
  else if n = 0x343 then { w with mtval := v }
  else if n ∈ [0x306, 0x106] then setRvCsr w n (v &&& 7)
  else if n ∈ [0x340, 0x140, 0x142, 0x143] then setRvCsr w n v
  else w

/-- The register may be accessed at the processor's level. -/
def rvCsrAllowed (w : Well) (n : Nat) (write : Bool) : Bool :=
  decide (bitsOf n 8 2 ≤ w.mode) && !(write && bitsOf n 10 2 = 3) && !(n = 0x180 && w.mode = 1 && w.mstatus.getLsbD 20)
    && !(decide (0xC00 ≤ n ∧ n ≤ 0xC1F) && w.mode = 1 && !(rvCsr w 0x306).getLsbD (n % 32))

/-! ### Traps -/

/-- A trap taken in supervisor mode. -/
def rvTrapS (s : State) (die cp : Nat) (cause tval : Nat) : State :=
  let w := wellOf s die cp
  let w1 := setRvCsr (setRvCsr (setRvCsr w 0x141 w.pc) 0x142 (BitVec.ofNat 64 cause)) 0x143 (BitVec.ofNat 64 tval)
  setWell s die cp { w1 with
    mstatus := (w.mstatus &&& ~~~(0x22 : W64)) ||| (if w.mstatus.getLsbD 1 then 0x20 else 0),
    mode := 1, pc := rvCsr w 0x105 &&& ~~~(3 : W64), waitSince := none }

/-- An exception of a base instruction, in supervisor mode where medeleg hands it over. (PRESUMED, log 19.) -/
def rvException (s : State) (die cp cause tval : Nat) : State :=
  let w := wellOf s die cp
  if w.mode = 1 && (rvCsr w 0x302).getLsbD cause then rvTrapS s die cp cause tval else wellException s die cp cause tval

/-- The interrupt a processor takes before its next instruction, with the level that takes it. (PRESUMED, log 19.) -/
def rvInterrupt (w : Well) (lines : W64) : Option (Nat × Bool) :=
  let on := rvPending w lines &&& rvCsr w 0x304
  let pick (m : W64) : Option Nat := [11, 3, 7, 9, 1, 5].find? (fun i => m.getLsbD i)
  let m := on &&& ~~~(rvCsr w 0x303)
  let sup := on &&& rvCsr w 0x303
  match (if w.mode < 3 || w.mstatus.getLsbD 3 then pick m else none) with
  | some i => some (i, true)
  | none => ((if w.mode = 1 && w.mstatus.getLsbD 1 then pick sup else none).map (fun i => (i, false)))

/-- The entry of an interrupt; a vectored base is followed by four bytes for each cause. (PRESUMED, log 19.) -/
def rvTakeInterrupt (s : State) (die cp i : Nat) (machine : Bool) : State :=
  let w := wellOf s die cp
  let base := if machine then w.mtvec else rvCsr w 0x105
  let s := if machine then wellException s die cp (2 ^ 63 + i) 0 else rvTrapS s die cp (2 ^ 63 + i) 0
  let x := wellOf s die cp
  if base.getLsbD 0 then setWell s die cp { x with pc := x.pc + BitVec.ofNat 64 (4 * i) } else s

/-! ### Compressed words -/

/-- A word of the R, I, S, B, U and J layouts from its fields. -/
def rvI (imm rs1 f3 rd op : Nat) : Nat := imm % 4096 * 2 ^ 20 + rs1 * 2 ^ 15 + f3 * 2 ^ 12 + rd * 2 ^ 7 + op
def rvR (f7 rs2 rs1 f3 rd op : Nat) : Nat := f7 * 2 ^ 25 + rs2 * 2 ^ 20 + rs1 * 2 ^ 15 + f3 * 2 ^ 12 + rd * 2 ^ 7 + op
def rvS (imm rs2 rs1 f3 : Nat) : Nat := imm / 32 % 128 * 2 ^ 25 + rs2 * 2 ^ 20 + rs1 * 2 ^ 15 + f3 * 2 ^ 12 + imm % 32 * 2 ^ 7 + 0x23
def rvB (imm rs1 f3 : Nat) : Nat :=
  bitsOf imm 12 1 * 2 ^ 31 + bitsOf imm 5 6 * 2 ^ 25 + rs1 * 2 ^ 15 + f3 * 2 ^ 12 + bitsOf imm 1 4 * 2 ^ 8 + bitsOf imm 11 1 * 2 ^ 7 + 0x63
def rvJ (imm rd : Nat) : Nat := bitsOf imm 20 1 * 2 ^ 31 + bitsOf imm 1 10 * 2 ^ 21 + bitsOf imm 11 1 * 2 ^ 20 + bitsOf imm 12 8 * 2 ^ 12 + rd * 2 ^ 7 + 0x6F

/-- `n` with bit `k` as the sign, as a number of `w` bits. -/
def signTo (k w n : Nat) : Nat := if n.testBit k then n + 2 ^ w - 2 ^ (k + 1) else n

/-- The word a compressed word stands for. (PRESUMED, log 19.) -/
def rvExpand (h : Nat) : Option Nat :=
  let b (i : Nat) : Nat := bitsOf h i 1
  let rd := bitsOf h 7 5
  let rs := bitsOf h 2 5
  let p := 8 + bitsOf h 7 3
  let q := 8 + bitsOf h 2 3
  let imm6 := signTo 5 12 (b 12 * 32 + rs)
  let sh := b 12 * 32 + rs
  let uw := bitsOf h 10 3 * 8 + b 6 * 4 + b 5 * 64
  let ud := bitsOf h 10 3 * 8 + bitsOf h 5 2 * 64
  let jmp := signTo 11 21 (b 12 * 2048 + b 11 * 16 + bitsOf h 9 2 * 256 + b 8 * 1024 + b 7 * 64 + b 6 * 128 + bitsOf h 3 3 * 2 + b 2 * 32)
  let br := signTo 8 13 (b 12 * 256 + bitsOf h 10 2 * 8 + bitsOf h 5 2 * 64 + bitsOf h 3 2 * 2 + b 2 * 32)
  match h % 4, bitsOf h 13 3 with
  | 0, 0 =>
    let imm := bitsOf h 11 2 * 16 + bitsOf h 7 4 * 64 + b 6 * 4 + b 5 * 8
    if imm = 0 then none else some (rvI imm 2 0 q 0x13)
  | 0, 2 => some (rvI uw p 2 q 0x03)
  | 0, 3 => some (rvI ud p 3 q 0x03)
  | 0, 6 => some (rvS uw q p 2)
  | 0, 7 => some (rvS ud q p 3)
  | 1, 0 => some (rvI imm6 rd 0 rd 0x13)
  | 1, 1 => if rd = 0 then none else some (rvI imm6 rd 0 rd 0x1B)
  | 1, 2 => some (rvI imm6 0 0 rd 0x13)
  | 1, 3 =>
    if rd = 2 then
      let imm := signTo 9 12 (b 12 * 512 + b 6 * 16 + b 5 * 64 + bitsOf h 3 2 * 128 + b 2 * 32)
      if imm = 0 then none else some (rvI imm 2 0 2 0x13)
    else if sh = 0 then none
    else some (signTo 5 20 sh * 2 ^ 12 + rd * 2 ^ 7 + 0x37)
  | 1, 4 =>
    match bitsOf h 10 2 with
    | 0 => some (rvI sh p 5 p 0x13)
    | 1 => some (rvI (sh + 0x400) p 5 p 0x13)
    | 2 => some (rvI imm6 p 7 p 0x13)
    | _ =>
      match b 12, bitsOf h 5 2 with
      | 0, 0 => some (rvR 0x20 q p 0 p 0x33)
      | 0, 1 => some (rvR 0 q p 4 p 0x33)
      | 0, 2 => some (rvR 0 q p 6 p 0x33)
      | 0, _ => some (rvR 0 q p 7 p 0x33)
      | _, 0 => some (rvR 0x20 q p 0 p 0x3B)
      | _, 1 => some (rvR 0 q p 0 p 0x3B)
      | _, _ => none
  | 1, 5 => some (rvJ jmp 0)
  | 1, 6 => some (rvB br p 0)
  | 1, 7 => some (rvB br p 1)
  | 2, 0 => some (rvI sh rd 1 rd 0x13)
  | 2, 2 => if rd = 0 then none else some (rvI (b 12 * 32 + bitsOf h 4 3 * 4 + bitsOf h 2 2 * 64) 2 2 rd 0x03)
  | 2, 3 => if rd = 0 then none else some (rvI (b 12 * 32 + bitsOf h 5 2 * 8 + bitsOf h 2 3 * 64) 2 3 rd 0x03)
  | 2, 4 =>
    if b 12 = 0 then
      if rs = 0 then (if rd = 0 then none else some (rvI 0 rd 0 0 0x67)) else some (rvR 0 rs 0 0 rd 0x33)
    else if rs = 0 then (if rd = 0 then some 0x00100073 else some (rvI 0 rd 0 1 0x67))
    else some (rvR 0 rs rd 0 rd 0x33)
  | 2, 6 => some (rvS (bitsOf h 9 4 * 4 + bitsOf h 7 2 * 64) rs 2 2)
  | 2, 7 => some (rvS (bitsOf h 10 3 * 8 + bitsOf h 7 3 * 64) rs 2 3)
  | _, _ => none

/-! ### Arithmetic -/

/-- The 32-bit result of a word instruction, sign-extended. -/
def rvWord (v : W64) : W64 := (v.truncate 32).signExtend 64

/-- Signed division and remainder at a width, with the standard's results for a divisor of 0 and for overflow. -/
def rvDiv (w : Nat) (a b : Int) : Int := if b = 0 then -1 else if a = -2 ^ (w - 1) && b = -1 then a else a.tdiv b
def rvRem (a b : Int) : Int := if b = 0 then a else a.tmod b

/-- The multiply and divide forms. -/
def rvMul (f3 : Nat) (a b : W64) : W64 :=
  match f3 with
  | 0 => a * b
  | 1 => BitVec.ofInt 64 (a.toInt * b.toInt / 2 ^ 64)
  | 2 => BitVec.ofInt 64 (a.toInt * (b.toNat : Int) / 2 ^ 64)
  | 3 => BitVec.ofNat 64 (a.toNat * b.toNat / 2 ^ 64)
  | 4 => BitVec.ofInt 64 (rvDiv 64 a.toInt b.toInt)
  | 5 => if b = 0 then BitVec.allOnes 64 else a / b
  | 6 => BitVec.ofInt 64 (rvRem a.toInt b.toInt)
  | _ => if b = 0 then a else a % b

/-- The 32-bit multiply and divide forms. -/
def rvMulW (f3 : Nat) (a b : W64) : Option W64 :=
  let x : W32 := a.truncate 32
  let y : W32 := b.truncate 32
  match f3 with
  | 0 => some (rvWord (a * b))
  | 4 => some ((BitVec.ofInt 32 (rvDiv 32 x.toInt y.toInt)).signExtend 64)
  | 5 => some ((if y = 0 then BitVec.allOnes 32 else x / y).signExtend 64)
  | 6 => some ((BitVec.ofInt 32 (rvRem x.toInt y.toInt)).signExtend 64)
  | 7 => some ((if y = 0 then x else x % y).signExtend 64)
  | _ => none

/-- The integer forms; `alt` is the bit that turns an addition into a subtraction and a shift into an arithmetic one. -/
def rvAlu (f3 : Nat) (alt : Bool) (a b : W64) : W64 :=
  match f3 with
  | 0 => if alt then a - b else a + b
  | 1 => a <<< (b.toNat % 64)
  | 2 => if a.slt b then 1 else 0
  | 3 => if a.ult b then 1 else 0
  | 4 => a ^^^ b
  | 5 => if alt then a.sshiftRight (b.toNat % 64) else a >>> (b.toNat % 64)
  | 6 => a ||| b
  | _ => a &&& b

/-- The 32-bit integer forms. -/
def rvAluW (f3 : Nat) (alt : Bool) (a b : W64) : Option W64 :=
  let x : W32 := a.truncate 32
  match f3 with
  | 0 => some (rvWord (if alt then a - b else a + b))
  | 1 => some ((x <<< (b.toNat % 32)).signExtend 64)
  | 5 => some ((if alt then x.sshiftRight (b.toNat % 32) else x >>> (b.toNat % 32)).signExtend 64)
  | _ => none

def rvBranch (f3 : Nat) (a b : W64) : Option Bool :=
  match f3 with
  | 0 => some (a == b)
  | 1 => some (a != b)
  | 4 => some (a.slt b)
  | 5 => some (b.sle a)
  | 6 => some (a.ult b)
  | 7 => some (b.ule a)
  | _ => none

/-- What an atomic instruction writes back (the second operand is the register's). -/
def rvAmo (f5 : Nat) (m r : Int) (um ur : Nat) : Option Int :=
  match f5 with
  | 0x00 => some (m + r)
  | 0x01 => some r
  | 0x04 => some (((um ^^^ ur : Nat)) : Int)
  | 0x08 => some (((um ||| ur : Nat)) : Int)
  | 0x0C => some (((um &&& ur : Nat)) : Int)
  | 0x10 => some (if m ≤ r then m else r)
  | 0x14 => some (if m ≤ r then r else m)
  | 0x18 => some (if um ≤ ur then m else r)
  | 0x1C => some (if um ≤ ur then r else m)
  | _ => none

/-! ### Running a word -/

/-- How a base instruction ends: it writes a register and goes on, it goes elsewhere, it takes an exception, or it meets an address of which no rule speaks. -/
inductive RvRes where
  | done (s : State) (d : XReg) (v : W64)
  | jump (s : State) (d : XReg) (v : W64) (target : W64)
  | trap (cause tval : Nat)
  | noMemory

/-- A store of a processor; the reservations of its die on a byte of it end. -/
def rvStore (s : State) (die addr : Nat) (data : List Byte) : State :=
  (List.range 4).foldl (fun s cp =>
    match (wellOf s die cp).res with
    | some (a, l) => if a < addr + data.length && addr < a + l.length then setWell s die cp { wellOf s die cp with res := none } else s
    | none => s) (wellStore s die addr data)

/-- The extension of loaded bytes. -/
def rvLoaded (f3 : Nat) (v : Nat) : W64 :=
  match f3 with
  | 0 => (BitVec.ofNat 8 v).signExtend 64
  | 1 => (BitVec.ofNat 16 v).signExtend 64
  | 2 => (BitVec.ofNat 32 v).signExtend 64
  | _ => BitVec.ofNat 64 v

/-- A load-reserved, store-conditional or atomic instruction of `n` bytes. (PRESUMED, log 19.) -/
def rvAtomic (s : State) (die cp : Nat) (f5 n : Nat) (d : XReg) (a : Nat) (r : W64) (second : Nat) : RvRes :=
  let w := wellOf s die cp
  let out (v : Nat) : W64 := if n = 4 then (BitVec.ofNat 32 v).signExtend 64 else BitVec.ofNat 64 v
  if f5 = 0x02 && second != 0 then .trap 2 0
  else if a % n != 0 then .trap (if f5 = 0x02 then 4 else 6) a
  else if !wellHas a n then .noMemory
  else
    let l := wellBytes s die a n
    if f5 = 0x02 then .done (setWell s die cp { w with res := some (a, l) }) d (out (leNat l))
    else if f5 = 0x03 then
      let s' := setWell s die cp { w with res := none }
      if w.res = some (a, l) then .done (rvStore s' die a (leBytes (r.toNat % 2 ^ (8 * n)) n)) d 0 else .done s' d 1
    else
      let um := leNat l
      let ur := r.toNat % 2 ^ (8 * n)
      match rvAmo f5 (sextNat (8 * n) um) (sextNat (8 * n) ur) um ur with
      | some v => .done (rvStore s die a (leBytes (v % 2 ^ (8 * n)).toNat n)) d (out um)
      | none => .trap 2 0

/-- The instructions of the SYSTEM opcode. (PRESUMED, log 19.) -/
def rvSystem (s : State) (die cp word : Nat) : RvRes :=
  let w := wellOf s die cp
  let d := BitVec.ofNat 5 (bitsOf word 7 5)
  let rs1 := bitsOf word 15 5
  let f3 := bitsOf word 12 3
  let n := bitsOf word 20 12
  if f3 = 0 then
    if word = 0x00000073 then .trap (if w.mode = 1 then 9 else 11) 0
    else if word = 0x00100073 then .trap 3 0
    else if word = 0x10500073 then .done s 0 0
    else if word = 0x30200073 && w.mode = 3 then
      let x := { w with mstatus := (w.mstatus &&& ~~~(0x88 : W64)) ||| (if w.mstatus.getLsbD 7 then 0x88 else 0x80), mode := if bitsOf w.mstatus.toNat 11 2 = 1 then 1 else 3 }
      .jump (setWell s die cp { x with mstatus := (if x.mode = 1 then x.mstatus &&& ~~~(0x20000 : W64) else x.mstatus) ||| 0x1800 }) 0 0 w.mepc
    else if word = 0x10200073 && !(w.mode = 1 && w.mstatus.getLsbD 22) then
      .jump (setWell s die cp { w with mstatus := (w.mstatus &&& ~~~(0x20022 : W64)) ||| (if w.mstatus.getLsbD 5 then 0x22 else 0x20), mode := 1 }) 0 0 (rvCsr w 0x141)
    else if bitsOf word 25 7 = 0x09 && bitsOf word 7 5 = 0 && !(w.mode = 1 && w.mstatus.getLsbD 20) then .done s 0 0
    else .trap 2 word
  else if f3 = 4 then .trap 2 word
  else
    let write := f3 % 4 = 1 || rs1 != 0
    match rvCsrAllowed w n write, rvCsrRead die cp w s.sel.word (Config.freeWord s.fresh) n with
    | true, some old =>
      let v := if 4 ≤ f3 then BitVec.ofNat 64 rs1 else readX w (BitVec.ofNat 5 rs1)
      let new := if f3 % 4 = 1 then v else if f3 % 4 = 2 then old ||| v else old &&& ~~~v
      .done { setWell s die cp (if write then rvCsrWrite w n new else w) with fresh := s.fresh + 1 } d old
    | _, _ => .trap 2 word

/-- A word of the base set, `len` bytes long as it was fetched. (PRESUMED, log 19.) -/
def rvRun (s : State) (die cp word len : Nat) : RvRes :=
  let w := wellOf s die cp
  let op := word % 128
  let d := BitVec.ofNat 5 (bitsOf word 7 5)
  let f3 := bitsOf word 12 3
  let f7 := bitsOf word 25 7
  let a := readX w (BitVec.ofNat 5 (bitsOf word 15 5))
  let b := readX w (BitVec.ofNat 5 (bitsOf word 20 5))
  let immI : W64 := (BitVec.ofNat 12 (bitsOf word 20 12)).signExtend 64
  let immS : W64 := (BitVec.ofNat 12 (f7 * 32 + bitsOf word 7 5)).signExtend 64
  let immB : W64 := (BitVec.ofNat 13 (bitsOf word 31 1 * 4096 + bitsOf word 7 1 * 2048 + bitsOf word 25 6 * 32 + bitsOf word 8 4 * 2)).signExtend 64
  let immU : W64 := (BitVec.ofNat 32 (bitsOf word 12 20 * 4096)).signExtend 64
  let immJ : W64 := (BitVec.ofNat 21 (bitsOf word 31 1 * 2 ^ 20 + bitsOf word 12 8 * 4096 + bitsOf word 20 1 * 2048 + bitsOf word 21 10 * 2)).signExtend 64
  let link : W64 := w.pc + BitVec.ofNat 64 len
  let illegal : RvRes := .trap 2 word
  let done (v : W64) : RvRes := .done s d v
  let shift6 := bitsOf word 20 6
  if op = 0x37 then done immU
  else if op = 0x17 then done (w.pc + immU)
  else if op = 0x6F then .jump s d link (w.pc + immJ)
  else if op = 0x67 then (if f3 = 0 then .jump s d link ((a + immI) &&& ~~~(1 : W64)) else illegal)
  else if op = 0x63 then (match rvBranch f3 a b with | some t => .jump s 0 0 (if t then w.pc + immB else link) | none => illegal)
  else if op = 0x03 then
    let n := 2 ^ (f3 % 4)
    let x := (a + immI).toNat
    if f3 = 7 then illegal else if x % n != 0 then .trap 4 x else if !wellHas x n then .noMemory else done (rvLoaded f3 (leNat (wellBytes s die x n)))
  else if op = 0x23 then
    let n := 2 ^ f3
    let x := (a + immS).toNat
    if 4 ≤ f3 then illegal else if x % n != 0 then .trap 6 x else if !wellHas x n then .noMemory else .done (rvStore s die x (leBytes (b.toNat % 2 ^ (8 * n)) n)) 0 0
  else if op = 0x13 then
    if f3 = 1 then (if bitsOf word 26 6 = 0 then done (a <<< shift6) else illegal)
    else if f3 = 5 then (if bitsOf word 26 6 = 0 then done (a >>> shift6) else if bitsOf word 26 6 = 0x10 then done (a.sshiftRight shift6) else illegal)
    else done (rvAlu f3 false a immI)
  else if op = 0x1B then
    if f3 = 0 then done (rvWord (a + immI))
    else if f7 = 0 && (f3 = 1 || f3 = 5) || (f7 = 0x20 && f3 = 5) then (match rvAluW f3 (f7 = 0x20) a (BitVec.ofNat 64 (bitsOf word 20 5)) with | some v => done v | none => illegal)
    else illegal
  else if op = 0x33 then
    if f7 = 1 then done (rvMul f3 a b) else if f7 = 0 || (f7 = 0x20 && (f3 = 0 || f3 = 5)) then done (rvAlu f3 (f7 = 0x20) a b) else illegal
  else if op = 0x3B then
    match (if f7 = 1 then rvMulW f3 a b else if f7 = 0 || (f7 = 0x20 && (f3 = 0 || f3 = 5)) then rvAluW f3 (f7 = 0x20) a b else none) with
    | some v => done v
    | none => illegal
  else if op = 0x2F then
    if f3 = 2 || f3 = 3 then (match rvAtomic s die cp (f7 / 4) (2 ^ f3) d a.toNat b (bitsOf word 20 5) with | .trap 2 _ => illegal | r => r) else illegal
  else if op = 0x0F then (if f3 ≤ 1 then .done s 0 0 else illegal)
  else if op = 0x73 then rvSystem s die cp word
  else illegal

/-- A base instruction of a processor; FENCE and FENCE.I find every earlier access performed (R421). (PRESUMED, log 19.) -/
def rvStep (s : State) (die cp word len raw : Nat) : Host.Outcome State Fault Refusal :=
  let ended (s : State) (d : XReg) (v pc : W64) : State := let w := wellOf s die cp; setWell s die cp { writeX w d v with pc := pc, waitSince := none }
  match rvRun s die cp word len with
  | .done s' d v => .next (ended s' d v ((wellOf s die cp).pc + BitVec.ofNat 64 len))
  | .jump s' d v t => .next (ended s' d v t)
  | .trap c v => .next (rvException s die cp c (if c = 2 then raw else v))
  | .noMemory => .fault .noSuchAddress

end Sys2Proof.Machine
end

