-- ==== Sys2Proof/Machine/Turns.lean ====
section
/-! DEFINITION. The turns of the agents: a core's bundle, a word of a Lakebed core or of a Wellhead processor, a micro-op; and what a turn is taken from. -/

namespace Sys2Proof.Machine

/-- Runs an instruction and goes on from its next state. -/
def thenExec (o : Host.Outcome State Fault Refusal) (i : Instr) : Host.Outcome State Fault Refusal :=
  match o with
  | .next s => exec i s
  | .fault f => .fault f
  | .refused r => .refused r

/-- The four slots of a bundle, run into the stage in the order A to D (R14). (DEDUCED, log 60.) -/
def execSlots (b : Bundle) (s : State) : Host.Outcome State Fault Refusal :=
  thenExec (thenExec (thenExec (exec b.a s) b.b) b.c) b.d

/-- A decoded bundle of a context: skipped (R28), or its slots staged and then issued together. -/
def runBundle (s : State) (core x : Nat) (b : Bundle) : Host.Outcome State Fault Refusal :=
  let id := ctxId core x
  if skippable s id b then exec .nullifierSkip s
  else
    match execSlots b { s with stage := some ⟨core, x, []⟩ } with
    | .next s' =>
      let outs := match s'.stage with | some st => headerFallbacks b st.outs | none => []
      .next (issueOuts { s' with stage := none } id outs)
    | o => o

/-- The turn of a core (R32): its current context, or the next ready one, issues its next bundle; one whose END or ERET has committed ends its task (R176) or returns (R24) once what it waits for is there. -/
def coreTurn (s : State) (core : Nat) : Host.Outcome State Fault Refusal :=
  match pickContext s core with
  | none => .next s
  | some (x, s) =>
    let id := ctxId core x
    if (ctxOf s id).ending then .next (finishTask s id)
    else if (ctxOf s id).returning then .next (if awaiting s (ctxOf s id).uid then s else eretCtx s id)
    else
    match (ctxOf s id).boundary with
    | some t => if t.cause = 0x0C then exec .singleStep s else exec .branchTrace s
    | none =>
      let s := landDue s id
      match fetchBundle s id with
      | .blocked s => .next s
      | .trap s t => .next (trapCtx s id t)
      | .word s w =>
        match decodeBundle w with
        | .error f => if f.cause = 0x01 then exec .illegalOpcode s else .next (trapCtx s id (trapOf f.cause f.detail))
        | .ok b => runBundle s core x b

/-- The word a kernel runs next lies in a poisoned sector of the instruction store; a firmware kernel runs words of the firmware's part (R304, R362, R368). (DEDUCED, log 66.) -/
def badLakeWord (s : State) (i : Nat) (k : Kernel) : Bool :=
  if k.fw = 0 then (lakeOf s i).badStore.contains (k.pc.toNat / 8) else (lakeOf s i).badStore.any (fun n => decide (12288 / 8 ≤ n))

/-- The turn of a Lakebed core: a free one starts a kernel; a running kernel that has to leave is saved at this boundary, once its stores are performed (R309, R337); else its next word runs (R312), or its firmware (R306). -/
def lakeTurn (s : State) (i : Nat) : Host.Outcome State Fault Refusal :=
  match (lakeOf s i).run with
  | none => exec .lakebedKernelStart s
  | some k =>
    if mustYield s i k then .next (if pendingStores s k then s else saveKernel s i k none)
    else if badLakeWord s i k then .next (endKernel s i k (some (if k.fw = 0 then programFault s k 0x4E none 0 else plainFault 0x4E 0)) 0)
    else if k.fw != 0 then .next (fwTurn s i k)
    else
      match decodeOmpen (tget 0 (lakeOf s i).istore k.pc.toNat).toNat with
      | .ok ins => exec ins s
      | .error .illegalOpcode => exec .ompenIllegalOpcode s
      | .error _ => .next (lakeFault s i 0x04)

/-- The turn of a Wellhead processor: an interrupt it has to take, of those software has raised and of the lines `Select.word` of the turn; else the word at its pc, custom (R422) or of the base set (R421). (PRESUMED, log 19.) -/
def wellTurn (s : State) (die cp : Nat) : Host.Outcome State Fault Refusal :=
  let w := wellOf s die cp
  let pc := w.pc.toNat
  match rvInterrupt w s.sel.word with
  | some (i, machine) => .next (rvTakeInterrupt s die cp i machine)
  | none =>
    if !wellHas pc 2 then .fault .noSuchAddress
    else
      let half := leNat (wellBytes s die pc 2)
      if half % 4 != 3 then
        match rvExpand half with
        | some word => rvStep s die cp word 2 half
        | none => .next (rvException s die cp 2 half)
      else
        match wellFetch s die pc with
        | none => .fault .noSuchAddress
        | some word =>
          match decodeWell word with
          | some i => exec i s
          | none => rvStep s die cp word 4 word

/-- The turn of a core's matrix array: the next micro-op of its running MCALL (R256). -/
def arrayTurn (s : State) (core : Nat) : Host.Outcome State Fault Refusal :=
  match (coreOf s core).mcall with
  | none => .next s
  | some r =>
    if r.ended then exec .mcallComplete s
    else if 2 ^ 32 ≤ r.steps then exec .microopCountExpiry s
    else
    match badMicroWord s core r with
    | some a => .next (failMcall s core (plainFault 0x4C a))
    | none =>
    match microWord s core r with
    | none => .next (failMcall s core (plainFault 0x41 8))
    | some w =>
      match decodeMicro w.toNat with
      | some i => exec i (modCore s core (fun k => { k with mcall := some { r with word := w } }))
      | none => .next (failMcall s core (plainFault 0x41 8))

/-- The state as the agent of a turn finds it: the turn taken from the schedule, its inputs selected, its cycles past. (DESIGN CHOICE, log 4; DESIGN CHOICE, log 6.) -/
def takeTurn (s : State) : Turn × State :=
  let t := s.sched.headD s.turn
  let sel : Select := match t.agent with
    | .core c => { t.sel with core := c }
    | .array c => { t.sel with core := c }
    | .lake i => { t.sel with core := i }
    | .well d p => { t.sel with die := d, num := p }
    | .event _ | .upset _ | .reading _ | .firmware _ | .peer _ | .peerAgain _ | .hostRead _ _ _ _ _ => t.sel
  (t, { passLimits s (s.cycle + t.dt) with sched := s.sched.tail, sel := sel, cycle := s.cycle + t.dt })

/-- What still happens in a module stopped for temperature or power (R438, R440): its records reach the host, and a module reset. -/
def whileStopped (i : Instr) : Bool :=
  match i with
  | .moduleReset | .ringRecordWrite | .completionWindowClose | .powerFail => true
  | _ => false

/-- What happens in recovery mode (R428): an image comes, a module reset, and what the package does by itself. -/
def inRecovery (i : Instr) : Bool :=
  match i with
  | .recoveryImageDownload | .moduleReset | .powerFail | .linkDown | .healthBlockSave | .thermalTrip | .thermalClockLower | .thermalClockRestore
  | .coreRailAlarmRaise | .coreRailAlarmClear => true
  | _ => false

/-- An event that the module carries out as it stands. -/
def takesEvent (s : State) (i : Instr) : Bool := isEvent i && (!s.stopped || whileStopped i) && (!s.recovery || inRecovery i)

/-- A kernel that stands in Lakebed core 0 to run a placed word. -/
def placedKernel : Kernel :=
  { id := 1, entry := 0, start := 0, fw := 0, cls := 0, arrival := 0, cmd := none, op := 0, part := 0, index := 0, param := 0, ran := 0, since := 0, dispatched := true,
    parked := none, fin := none, q := [], w := [], z := [], e := [], pc := 0, sram := [] }

/-- A call of routine 5 that stands on the array of core 0 to run a placed micro-op. -/
def placedCall : McallRun :=
  { op := { id := 1, opc := 1, x := 5, kd := 0, ins := [], m := [], h := [], uid := 1, core := 0, part := 0, op := 0, launch := 0, dbgctl := 0, cls := 0, groups := [], held := false, issued := 0 },
    routine := 5, pc := 0, ea := 0, ic := 0, ilen := none, dn := 0, aoff := 0, boff := 0, moff := 0, ctr := [], xva := 0, xvb := 0, endk := 0, steps := 0, stagedA := none, stagedB := none,
    codesA := [], codesB := [], metas := [], word := 0, clamped := false, narrow := false, atStep := true, ended := false }

end Sys2Proof.Machine
end

