-- ==== Sys2Proof/Machine/Step.lean ====
section
/-! DEFINITION. One step of the module: the schedule's next turn names an agent, and that agent carries out one bundle, one micro-op, one Ompen word, one Wellhead word or one event, or a hardware error comes. -/

namespace Sys2Proof.Machine

/-- One step of the module. A module stopped or in recovery mode carries out little (R428, R438, R440); its monitors read on. (DEDUCED, log 54.) -/
def step (s : State) : Host.Outcome State Fault Refusal :=
  let (t, s) := takeTurn s
  match t.agent with
  | .core c => if s.stopped then .next s else coreTurn s c
  | .array c => if s.stopped then .next s else arrayTurn s c
  | .lake i => if s.stopped then .next s else lakeTurn s i
  | .well d p => if s.stopped || s.recovery then .next s else wellTurn s d p
  | .upset u => .next (if s.stopped then s else upsetState s u)
  | .event i => if takesEvent s i then exec i s else .next s
  | .reading r => .next (takeReading s r)
  | .firmware f => .next (if s.stopped || s.recovery then s else firmwareAct s f)
  | .peer q => .next (if s.stopped || s.recovery then s else peerArrive s q)
  | .peerAgain i => .next (if s.stopped || s.recovery then s else peerAgain s i)
  | .hostRead p q k o n => .next (if s.stopped || s.recovery then s else hostRead s p q k o n)

/-- The state with an instruction of the opcode table placed where the next step fetches it. A 32-bit word that is one of the Wellhead's goes to memory at the pc of processor 0 of die 0, any other 32-bit word to word 0 of Lakebed core 0 under a kernel that starts there, a 64-bit word to word 0 of the microprogram store of core 0 under a call of a routine that starts there, and a bundle to instruction memory of core 0 under its current context. (DESIGN CHOICE, log 3.) -/
def State.withFetchWord (s : State) (nbits w : Nat) : State :=
  if nbits ≤ 32 then
    match decodeWell w with
    | some _ =>
      { s with mem := cellsSet s.mem (wellKey 0 (wellOf s 0 0).pc.toNat) (leBytes w 4), turn := ⟨.well 0 0, .none, 1⟩, sched := [], stopped := false, recovery := false }
    | none =>
      { setLake s 0 { lakeOf s 0 with istore := tset (lakeOf s 0).istore 0 (BitVec.ofNat 32 w), run := some placedKernel, preq := false } with
        turn := ⟨.lake 0, .none, 1⟩, sched := [], stopped := false }
  else if nbits ≤ 64 then
    { modCore s 0 (fun k => { k with store := tset k.store 0 (BitVec.ofNat 64 w), rtable := tset k.rtable 5 (BitVec.ofNat 64 (2 ^ 63)), mcall := some placedCall }) with
      turn := ⟨.array 0, .none, 1⟩, sched := [], stopped := false }
  else
    let c := { Ctx.idle with running := true, uid := 1 }
    let s := setCtx s 0 c
    { modCore s 0 (fun k => { k with cur := 0, frames := [(0, ⟨ktabOf s 0, 0, [BitVec.ofNat 128 w], 1⟩)] }) with turn := ⟨.core 0, .none, 1⟩, sched := [], stopped := false, stage := none }

end Sys2Proof.Machine
end

