-- ==== Sys2Proof/WellFormed.lean ====
section
/-! DEFINITION. Which instructions have a word: the field rules of R44 to R48, R256 and R313 on the operands, and which immediates slot A can hold (it never has an extension byte, R43). -/

namespace Sys2Proof

/-- An immediate of `n + 8` bits that slot `sl` can hold: any in slot B, in slot A one that the base field gives (R38, R43). -/
def slotHolds (sl : AB) (signed : Bool) (n : Nat) (imm : BitVec (n + 8)) : Bool :=
  match sl with
  | .a => widen signed n (BitVec.ofNat n imm.toNat) none == imm
  | .b => true

/-- A system register number that SYSWR itself carries: listed, and not one of the four rows with a constructor of their own. -/
def plainSyswr (n : BitVec 16) : Bool :=
  sysregListed n.toNat && n != 0x0131 && n != 0x0141 && n != 0x0164 && n != 0x0165

/-- The operands of the instruction are ones a word can carry. -/
def Instr.wf : Instr → Bool
  | .addi sl _ _ _ i | .andi sl _ _ _ i | .ori sl _ _ _ i | .xori sl _ _ _ i => slotHolds sl true 11 i
  | .lui sl _ _ i => slotHolds sl true 16 i
  | .bfx _ _ _ _ w pos | .bfi _ _ _ _ w pos => decide (pos.toNat + w.toNat + 1 ≤ 64)
  | .cmpi sl _ _ cc _ i => slotHolds sl (!(cc == 4 || cc == 5)) 10 i
  | .fcvt _ _ _ _ conv _ _ => decide (conv.toNat < 14)
  | .ldb sl _ _ _ _ i | .ldh sl _ _ _ _ i | .ldw sl _ _ _ _ i | .ldd sl _ _ _ _ i | .ldbx sl _ _ _ _ i | .ldhx sl _ _ _ _ i
  | .ldwx sl _ _ _ _ i | .stb sl _ _ _ _ i | .sth sl _ _ _ _ i | .stw sl _ _ _ _ i | .std sl _ _ _ _ i => slotHolds sl false 7 i
  | .sysrd _ _ n => sysregListed n.toNat
  | .syswr _ _ n => plainSyswr n
  | .vld _ _ _ _ mode _ | .vldro _ _ _ _ mode _ => decide (mode.toNat ≤ 4)
  | .vst _ _ _ _ mode _ => decide (mode.toNat ≤ 3)
  | .vlds _ _ _ _ mode _ | .vsts _ _ _ _ mode _ => decide (mode.toNat ≤ 2)
  | .amo _ _ _ _ fn _ => decide (fn.toNat ≤ 8)
  | .acas _ sd _ _ _ => decide (sd.toNat ≤ 30)
  | .hbind _ h _ => decide (2 ≤ h.toNat)
  | .split _ code => decide (code.toNat ≤ 4)
  | .vcvt _ _ _ fmt _ _ _ => decide (fmt.toNat ≤ 14)
  | .vred _ _ _ _ fn _ | .vscan _ _ _ fn _ => decide (fn.toNat ≤ 4)
  | .madv _ src _ _ => decide (src.toNat ≤ 2)
  | _ => true

end Sys2Proof
end

