-- ==== Sys2Proof/Safety.lean ====
section
/-! DEFINITION. The terms claims are stated in: memory in canonical form, a bundle that nothing stands in the way of, the state it starts from, what a state looks like when a bundle has committed with given results, and the rational number a float value stands for. -/

namespace Sys2Proof.Machine

/-- Both memories, the dies' and the scratchpads', are in canonical form. -/
def memWf (s : State) : Bool := Memory.wf s.mem && Memory.wf s.sram

/-! ### One bundle of the selected context -/

/-- The state a bundle of the selected context starts from: its due results have landed (R19). (DEDUCED, log 8.) -/
def begun (s : State) : State := landDue s (selCtx s)

/-- The selected context as its bundle finds it. -/
def actor (s : State) : Ctx := ctxOf (begun s) (selCtx s)

/-- No bundle is half staged, the selected context may issue, its debug checks and PENDCHK are off, and no register waits for a result or carries a failed load's mark. -/
def quiet (s : State) : Bool :=
  s.stage.isNone && mayIssue (ctxOf s (selCtx s)) && !(actor s).pendchk && (actor s).dbgctl == 0 && !(actor s).five && (actor s).marks.isEmpty && (markedItems (begun s) (actor s).uid).isEmpty

/-- The context goes on past a committed bundle: one more bundle counts, and the PC moves to `pc` (R17, R30). -/
def Ctx.past (c : Ctx) (pc : Pc) : Ctx := { c.tick with pc := pc, pendFail := none, five := false, spawned := none, boundary := none }

/-- State `s` with the selected context of `s0` changed by `f`, and gone on to the next bundle. -/
def goesOn (s0 s : State) (f : Ctx → Ctx) : State := modCtx s (selCtx s0) (fun c => (f c).past ((actor s0).pc + 1))

/-- The bundle of the selected context has committed, changing the context by `f` and nothing else. -/
def committed (s : State) (f : Ctx → Ctx) : State := goesOn s (begun s) f

/-- The same with a taken control transfer to `target`. -/
def jumped (s : State) (target : Pc) (f : Ctx → Ctx) : State := modCtx (begun s) (selCtx s) (fun c => (f c).past target)

/-- A scalar result of latency `lat` on its way to `d`; one to s0 is discarded (R9, R18). -/
def Ctx.give (c : Ctx) (lat : Nat) (d : SReg) (v : W64) : Ctx := if d = 0 then c else c.push lat (.scalar d.toNat v)

/-- A condition on its way to guard pair `j`, its complement beside it (R39); pair field 0 discards it and falls back (R55). -/
def Ctx.givePair (c : Ctx) (lat : Nat) (j : BitVec 3) (v : Bool) : Ctx :=
  if j = 0 then { c with warnFallback := true } else (c.push lat (.guard (2 * j.toNat) v)).push lat (.guard (2 * j.toNat + 1) (!v))

/-- WARN bits that a bundle adds (R11). -/
def Ctx.warn (c : Ctx) (sat fallback : Bool) : Ctx := { c with warnSat := c.warnSat || sat, warnFallback := c.warnFallback || fallback }

/-- The selected context has trapped: nothing of its bundle is done (R15, R24, R25). -/
def trapped (s : State) (t : Trap) : State := trapCtx (begun s) (selCtx s) t

/-- The bundle has not issued and its context waits (R20, R32). -/
def waits (s : State) (b : Block) : State := blockCtx (begun s) (selCtx s) b

/-- The condition of a compare code, said of the operands as numbers (R40). -/
def numericCond (cc : BitVec 3) (a b : W64) : Bool :=
  match cc.toNat with
  | 0 => a == b
  | 1 => a != b
  | 2 => decide (a.toInt < b.toInt)
  | 3 => decide (b.toInt ≤ a.toInt)
  | 4 => decide (a.toNat < b.toNat)
  | 5 => decide (b.toNat ≤ a.toNat)
  | 6 => (a &&& b) != 0
  | _ => (a &&& b) == 0

/-! ### Accesses -/

/-- The core of the selected context. -/
def hereCore (s : State) : Nat := selCtx s / 4

/-- Bytes [off, off + n) of the core's scratchpad may be read or written at once by an access of size `n`: aligned, inside the current share, and no acquire of the context in flight (R87, R190, R240). -/
def localFits (s : State) (off n align : Nat) : Bool := off % align == 0 && decide (off + n ≤ shareOf (begun s) (hereCore s)) && !acquiring (begun s) (actor s).uid

/-- None of the bytes is poisoned (R370). -/
def localClean (s : State) (off n : Nat) : Bool := (List.range n).all (fun i => !poisoned (begun s) (.scr (hereCore s) (off + i)))

/-- The access through handle `h` of slot `slot` passes the checks of R217 steps 1 to 4 on its elements, each at a multiple of `align`, and its residency and translation end in state `u`. -/
def Reaches (s u : State) (slot h need align cause : Nat) (record : Bool) (elems : List (Nat × Nat)) : Prop :=
  checkOperand (begun s) (selCtx s) slot h record align cause elems = none
  ∧ checkAccesses (begun s) (selCtx s) ((accessOf (begun s) (selCtx s) h need elems).map (fun a => (slot, a))) = (u, .ok)

/-- State `u` with access `r` in flight (R237). -/
def issued (u : State) (r : Remote) : State :=
  { u with fresh := u.fresh + 1, remotes := u.remotes ++ [{ r with id := u.fresh, since := u.cycle, segs := segsOf u r.core r.part r.hk r.ranges }] }

/-- State `u` with result `r` under the scoreboard (R23): it touches no memory. -/
def marked (u : State) (r : Remote) : State := { u with fresh := u.fresh + 1, remotes := u.remotes ++ [{ r with id := u.fresh, since := u.cycle }] }

/-- State `u` with a scalar result `v` for `d` under the scoreboard; one for s0 is discarded (R9, R23). -/
def awaited (s u : State) (d : SReg) (v : W64) : State := if d = 0 then u else marked u (mkRemote (begun s) (selCtx s) 0 0 0 [] (.value [.scalar d.toNat v]))

/-- The access of the selected context, as it issues. -/
def access (s : State) (slot h off n : Nat) (kind : RKind) : Remote := mkRemote (begun s) (selCtx s) slot h off [(off, n)] kind

/-- The byte offset of an LS operand: s[sa] + imm × scale, modulo 2^64 (R87). -/
def operandAt (s : State) (sa : SReg) (imm scale : Nat) : Nat := ((readS (actor s) sa).toNat + imm * scale) % 2 ^ 64

/-- State `u` with each of a vector access's pieces in flight, in order (R241). -/
def issuedAll (u : State) (rs : List Remote) : State := rs.foldl issued u

/-- The pieces of a vector access of slot B through handle `h`, numbered: offset, length and first lane of each. -/
def vectorPieces (s : State) (h : Nat) (elems : List (Nat × Nat)) (kind : Nat → Nat → RKind) : List Remote :=
  (sectorParts elems 0).zipIdx.map (fun p => { access s 1 h p.1.1 p.1.2.1 (kind p.1.2.1 p.1.2.2) with piece := p.2 })

/-- The release and the acquire that an operation at a scope makes; at CTX it makes neither (R240). -/
def released (s u : State) (scope : Nat) : State := if scope = 0 then u else killTags u (partOfCore u (hereCore s)) (hereCore s) scope
def acquired (s u : State) (scope : Nat) : State := if scope = 0 then u else acquireAt u (hereCore s) scope

/-- Every element of a local vector operand fits, and is clean. -/
def vectorFits (s : State) (elems : List (Nat × Nat)) (align : Nat) : Bool := elems.all (fun e => localFits s e.1 e.2 align)
def vectorClean (s : State) (elems : List (Nat × Nat)) : Bool := elems.all (fun e => localClean s e.1 e.2)

/-- The bytes of a local operand, element by element. -/
def operandBytesLocal (s : State) (elems : List (Nat × Nat)) : List Byte := elems.flatMap (fun e => localBytes (begun s) (selCtx s) e.1 e.2)

/-- The scratchpad with a run of bytes laid out over the elements in order. -/
def storedLocal (s : State) (elems : List (Nat × Nat)) (data : List Byte) : State :=
  (elems.foldl (fun (a : State × List Byte) e => (storeLocal a.1 (hereCore s) e.1 (actor s).launch (a.2.take e.2), a.2.drop e.2)) (begun s, data)).1

/-! ### Engine operations -/

/-- An operation as it is numbered at issue (R194, R274). -/
def numbered (u : State) (o : EngineOp) : EngineOp := { o with id := u.fresh, issued := u.fresh, held := u.splits.any (fun r => opTouches o r.cluster r.lo r.hi) }

/-- Context `id` of state `u` has issued operation `o`: it is queued on its core, or among the joins, and its token is PEND (R274, R276, R282). -/
def queued (u : State) (id : Nat) (o : EngineOp) (join : Bool) : State :=
  let t := { u with fresh := u.fresh + 1 }
  let t := if o.kd = 0 then t else modCtx t id (fun c => { c with k := tset c.k o.kd ⟨.pend, .none, u.fresh⟩ })
  if join then { t with joins := t.joins ++ [numbered u o] } else modCore t (id / 4) (fun k => { k with queue := k.queue ++ [numbered u o] })

/-! ### Lakebed kernels -/

/-- The kernel that runs on the selected Lakebed core. -/
def runsKernel (s : State) (k : Kernel) : Prop := (lakeOf s s.sel.core).run = some k
/-- State `u`, the kernel of the selected core of `s` going on as `k` at the word after its PC. -/
def kernelGoes (s u : State) (k : Kernel) : Host.Outcome State Fault Refusal := .next (setRun u s.sel.core (some k.step))
/-- The kernel of the selected core ends with a fault. -/
def kernelEnds (s : State) (k : Kernel) (f : FaultRec) : Host.Outcome State Fault Refusal := .next (endKernel s s.sel.core k (some f) 0)
/-- Bytes [off, off + n) of local SRAM may be reached: aligned to `align`, inside the SRAM (R319). -/
def sramFits (off n align : Nat) : Bool := off % align == 0 && decide (off + n ≤ Config.lakeSramBytes)
/-- An access of kernel `k` through extent `e` to [off, off + n) passes its checks and is placed at `segs`, in state `u` (R319, R321). -/
def ExtentReaches (s u : State) (k : Kernel) (e : EReg) (off n need : Nat) (segs : List Seg) : Prop :=
  let x := tget Extent.unbound k.e e.toNat
  x.valid = true ∧ off % n = 0 ∧ off + n ≤ x.extent ∧ lakePlace s s.sel.core k e.toNat x.handle x.tid x.vbase off n need = (u, .ok segs)
/-- A load's bytes stand at their homes: no store of the kernel to one of them is in flight, and none is poisoned once its lines are flushed (R319, R320). -/
def homeReadable (u : State) (k : Kernel) (segs : List Seg) : Bool := !(u.remotes.any (fun r => r.uid = k.id && segsMeet r.segs segs)) && (firstPoison (snoopFlush u segs) segs).isNone

/-! ### Vector results -/

/-- Instruction `i` delivers to vector register `vd`, with latency `lat`, the codes `f` gives in the fields of `w` bits that `on` names, writes no other bit of it, sets the WARN bits given, and does nothing else (R127). -/
def GivesFields (s : State) (i : Instr) (lat : Nat) (vd : VReg) (w : Nat) (on : List Nat) (f : Nat → Nat) (sat fallback : Bool) : Prop :=
  ∃ mask v : VWord,
    (∀ l, l < 128 → narrowElem mask w l = (if on.contains l then 2 ^ w - 1 else 0) ∧ narrowElem v w l = (if on.contains l then f l % 2 ^ w else 0))
    ∧ mask.toNat < 2 ^ (w * 128) ∧ v.toNat < 2 ^ (w * 128)
    ∧ exec i s = .next (committed s (fun c => (c.push lat (.vec (physV (actor s) vd.toNat) mask v)).warn sat fallback))

/-- The active lanes of the instruction's predicate (R126). -/
def lanesOn (s : State) (p : PReg) : List Nat := activeLanes (readP (actor s) p)

/-- A lane-wise instruction delivers `f` in every active lane (R126, R127). -/
def GivesLanes (s : State) (i : Instr) (lat : Nat) (vd : VReg) (p : PReg) (f : Nat → FRes) (fallback : Bool) : Prop :=
  GivesFields s i lat vd 32 (lanesOn s p) (fun l => (f l).code) ((lanesOn s p).any (fun l => (f l).sat)) fallback

/-! ### Float values -/

/-- The number that a finite value stands for (R104). -/
def FVal.rat (v : FVal) : ℚ :=
  match v with
  | .num s m e => (if s then -1 else 1) * m * 2 ^ e
  | _ => 0

/-! ### Register-only instructions -/

/-- The register a delivered result names: its class (0 scalar, 1 guard, 2 vector, 3 predicate, 5 parameter, 6 loop control, 7 scratchpad bytes) and its physical number. -/
def Result.name (r : Result) : Nat × Nat :=
  match r with
  | .scalar n _ => (0, n)
  | .guard n _ => (1, n)
  | .vec n _ _ => (2, n)
  | .pred n _ _ => (3, n)
  | .lc _ => (6, 0)
  | .ec _ => (6, 1)
  | .vrb _ => (6, 2)
  | .prb _ => (6, 3)
  | .param n _ => (5, n)
  | .bytes off _ => (7, off)

/-- The physical register of a name in a bundle (R28, R93). -/
def physName (c : Ctx) (r : RegName) : Nat × Nat := (r.cls, if r.cls = 2 then physV c r.num else if r.cls = 3 then physP c r.num else r.num)

/-- Instructions that read and write registers only: the scalar block without its loads and stores, the moves of parameters, and slot C without PCOMMIT. -/
def registerOnly : Instr → Bool
  | .nop | .add .. | .sub .. | .and .. | .or .. | .xor .. | .shl .. | .shr .. | .sra .. | .min .. | .max .. | .minn .. | .maxn .. | .mul .. | .mulh .. | .mulhn .. | .madd .. => true
  | .addi .. | .andi .. | .ori .. | .xori .. | .shli .. | .shri .. | .srai .. | .lui .. | .clz .. | .popc .. | .bfx .. | .bfi .. | .sel .. => true
  | .div .. | .divn .. | .rem .. | .remn .. | .cmp .. | .cmpi .. | .glog .. | .movg .. => true
  | .fadd .. | .fsub .. | .fmul .. | .ffma .. | .fmin .. | .fmax .. | .fcmp .. | .fcvt .. | .mset .. | .mget .. => true
  | .vadd .. | .vsub .. | .vmul .. | .vfma .. | .vmin .. | .vmax .. | .vand .. | .vor .. | .vxor .. | .vshl .. | .vshr .. | .vsra .. | .vmulh .. => true
  | .vadds .. | .vsubs .. | .vmuls .. | .vfmas .. | .vmins .. | .vmaxs .. | .vands .. | .vors .. | .vxors .. | .vshls .. | .vshrs .. | .vsras .. | .vmulhs .. => true
  | .vabs .. | .vneg .. | .vcmp .. | .vcmps .. | .vsel .. | .vmov .. | .vbcast .. | .vidx .. | .vcvt .. | .vpack .. | .vunpk .. | .vrnd .. | .vclamp .. => true
  | .vred .. | .vscan .. | .vperm .. | .vrot .. | .vexp2 .. | .vlog2 .. | .vrcp .. | .vrsq .. | .vtanh .. | .vscac .. | .vtopk .. | .vmaxi .. => true
  | .pand .. | .por .. | .pxor .. | .pnot .. | .pmov .. | .pcnt .. | .vget .. | .vset .. => true
  | _ => false

/-- The divisor of an integer division (R78). -/
def divisorOf : Instr → Option SReg
  | .div _ _ _ _ b | .divn _ _ _ _ b | .rem _ _ _ _ b | .remn _ _ _ _ b => some b
  | _ => none

/-! ### Words -/

/-- The slot an instruction's word stands in; none for one that is not a slot's. -/
def slotOf (i : Instr) : Option Slot :=
  match encode i with
  | some e => (match e.place with | .slot sl => some sl | _ => none)
  | none => none

/-- A bundle without a header that holds `i` in slot `sl` and NOPs in the others. -/
def loneBundle (sl : Slot) (i : Instr) (words : List Nat) : Bundle :=
  ⟨if sl = .a then i else .nop, if sl = .b then i else .nop, if sl = .c then i else .nop, if sl = .d then i else .nop, none, words⟩

/-- What the decoder reads from an encoded instruction: slot A has no extension byte (R43). -/
def decodeEncoded (e : Encoded) : Option Instr :=
  match e.place with
  | .slot .a => (decodeSlot .a none e.word).toOption
  | .slot sl => (decodeSlot sl (some (BitVec.ofNat 8 e.ext)) e.word).toOption
  | .ompen => (decodeOmpen e.word).toOption
  | .well => decodeWell e.word
  | .micro => decodeMicro e.word

end Sys2Proof.Machine
end

