-- ==== Sys2Proof/Certificates/Slice0/Obligations.lean ====
section
/-! DEFINITION. The statements for the provers: what the spec's rules say each instruction and the machine do. -/

section

open Sys2Proof Sys2Proof.Machine

/-! ### The step, words and the reset state -/

/-- R12, R14, R28, R32, R256, R312, R422: a step runs what it decodes. A core's turn takes the context that issues, lands its due results and decodes the bundle at its PC: a bundle the nullifier skips is skipped; the four slots of another are worked out from the state before it and issued together; and a bundle whose other slots are empty is exec of its one instruction, at the state in which that context is the core's current one. A micro-op, an Ompen word, a custom Wellhead word and, outside recovery mode, an event are exec of the instruction, at the state in which the turn finds the machine; a word of the Wellhead's base set runs as the log (entry 19) says. Rests also on the model's own choices and readings: log 4, 19, 54, 60. -/
def Obligations.StepRunsWhatItDecodes : Prop :=
  ∀ (s u v w : State) (t : Turn) (c x n : Nat) (b : Bundle) (i : Instr) (r : McallRun) (m : W64) (k : Kernel), takeTurn s = (t, u) → u.stopped = false →
    (t.agent = .core c → pickContext u c = some (x, v) → (ctxOf v (ctxId c x)).returning = false → (ctxOf v (ctxId c x)).ending = false → (ctxOf v (ctxId c x)).boundary = none →
      fetchBundle (landDue v (ctxId c x)) (ctxId c x) = .word w n → decodeBundle n = .ok b →
      (skippable w (ctxId c x) b = true → step s = exec .nullifierSkip w)
      ∧ (skippable w (ctxId c x) b = false → ∀ z st, execSlots b { w with stage := some ⟨c, x, []⟩ } = .next z → z.stage = some st →
        step s = .next (issueOuts { z with stage := none } (ctxId c x) (headerFallbacks b st.outs)))
      ∧ (skippable w (ctxId c x) b = false → s.stage = none → ∀ sl ws, slotOf i = some sl → b = loneBundle sl i ws → step s = exec i v))
    ∧ (t.agent = .array c → (coreOf u c).mcall = some r → r.ended = false → r.steps < 2 ^ 32 → badMicroWord u c r = none → microWord u c r = some m → decodeMicro m.toNat = some i →
      step s = exec i (modCore u c (fun k => { k with mcall := some { r with word := m } })))
    ∧ (t.agent = .lake c → (lakeOf u c).run = some k → mustYield u c k = false → badLakeWord u c k = false → k.fw = 0 → decodeOmpen (tget 0 (lakeOf u c).istore k.pc.toNat).toNat = .ok i → step s = exec i u)
    ∧ (t.agent = .well c x → u.recovery = false → rvInterrupt (wellOf u c x) u.sel.word = none → wellFetch u c (wellOf u c x).pc.toNat = some n →
      (decodeWell n = some i → step s = exec i u) ∧ (n % 4 = 3 → decodeWell n = none → step s = rvStep u c x n 4 n))
    ∧ (t.agent = .event i → isEvent i = true → u.recovery = false → step s = exec i u)

/-- R35, R43 to R48, R313, R422, R256: for every instruction that has a word of its own and whose operands a word can hold, decoding its encoding gives it back, in its slot with its extension byte, as an Ompen word, a Wellhead word or a micro-op; and only the event rows, MLB and MDRAIN (whose flag bits the instruction does not carry) have none. -/
def Obligations.DecodeReadsWhatIsEncoded : Prop :=
  ∀ (i : Instr), i.wf = true →
    (∀ e, encode i = some e → decodeEncoded e = some i)
    ∧ (encode i = none → isEvent i = true ∨ i ∈ [Instr.mlb, .mdrain, .nullifierSkip, .writebackLand, .singleStep, .branchTrace, .illegalOpcode, .ompenIllegalOpcode, .microopCountExpiry])

/-- R35 to R48, R313, R422, R256: words written out field by field from the encodings decode to the instruction they stand for, at least one of each slot, and of the Ompen, Wellhead and micro-op words. -/
def Obligations.WordsOfTheEncodings : Prop :=
  decodeSlot .a none 0x02E32140 = .ok (.add .a 7 3 4 5) ∧ decodeSlot .b none 0x84073202 = .ok (.ldw .b 0 7 3 4 2) ∧ decodeSlot .b none 0xD0000003 = .ok (.split 0 3)
  ∧ decodeSlot .b none 0xAE033044 = .ok (.stl 0 3 3 0 2 4) ∧ decodeSlot .b none 0xAC043044 = .ok (.lda 0 4 3 0 2 4) ∧ decodeSlot .a none 0xA06FFFFF = .ok (.br 3 1 0x7FFFF)
  ∧ decodeSlot .c none 0x0245184A = .ok (.vadd 2 10 12 9 2) ∧ decodeSlot .c none 0x6C810260 = .ok (.pand 4 2 1 12)
  ∧ decodeSlot .d none 0x08123465 = .ok (.xcopy 0 9 1 10 3 5)
  ∧ decodeOmpen 0x04C84005 = .ok (.ompenShl 3 2 1) ∧ decodeOmpen 0xC8000000 = .ok .yield ∧ decodeWell 0x0041918B = some (.bfxt 3 3 4)
  ∧ decodeMicro 0x3000000100000005 = none ∧ decodeMicro 0x1800000000000000 = some .mstep ∧ decodeMicro 0x2900000000000007 = some (.mloop false 2 7)

/-- R11, R99, R212, R252, R253, R270, R284, R353, R354, R360, R424: what the machine holds right after reset. In every context CTXSTAT holds its context number alone, and CAUSE, FHANDLE, MSTAT, CYCLE, MIGCTL, RINGCFG, DBGCTL and ERRCNT read 0, as do the parameter registers; each die's log starts at record 1; and, as the model chooses where the rules are silent (the log entry on reset values), no context runs, no partition is live, no MCALL and no kernel runs, nothing is queued, resident or in flight, and every byte reads 0 in memories of canonical form. Rests also on the model's own choices and readings: log 1, 2. -/
def Obligations.ResetLeaves : Prop :=
  (∀ id, id < 1024 → sysValue State.reset id 0x00 = id % 4 * 16 ∧ (∀ n ∈ [0x01, 0x04, 0x23, 0x30, 0x123, 0x141, 0x150, 0x154], sysValue State.reset id n = 0) ∧ ∀ m, readM (ctxOf State.reset id) m = 0)
  ∧ (∀ d, (wellDie State.reset d).lsn = 1)
  ∧ (∀ id, (ctxOf State.reset id).running = false ∧ (ctxOf State.reset id).wq = [] ∧ (ctxOf State.reset id).count = 0)
  ∧ (∀ p, (partOf State.reset p).live = false) ∧ (∀ c, (coreOf State.reset c).mcall = none ∧ (coreOf State.reset c).queue = []) ∧ (∀ i, (lakeOf State.reset i).run = none)
  ∧ (∀ a, cellGet State.reset.mem a = 0 ∧ cellGet State.reset.sram a = 0) ∧ memWf State.reset = true
  ∧ State.reset.remotes = [] ∧ State.reset.ops = [] ∧ State.reset.tensors = [] ∧ State.reset.tlbs = [] ∧ State.reset.walks = [] ∧ State.reset.queues = [] ∧ State.reset.stopped = false

/-- R8, R241: both memories stay in canonical form: a step from a state whose memories list their addresses rising, each once and none at zero, ends in such a state, whatever agent has the turn. -/
def Obligations.StepKeepsMemoryCanonical : Prop := ∀ (s t : State), memWf s = true → step s = .next t → memWf t = true

/-- R9, R13, R14, R18, R27, R73 to R86, R126, R127: the frame of the instructions that only read and write registers. Under any guard or predicate, a bundle of one (a division with a divisor that is not 0) leaves the whole machine but its own context as it was, leaves every register of that context, its mode, its tokens, handles and exception registers as they were, only queues results that each name a destination of the instruction, and moves the PC to the next bundle; the WARN bits may be set, never cleared. Rests also on the model's own choices and readings: log 60. -/
def Obligations.RegisterFormFrame : Prop :=
  ∀ (s t : State) (i : Instr), quiet s = true → registerOnly i = true → i.wf = true → (∀ b, divisorOf i = some b → readS (actor s) b ≠ 0) → exec i s = .next t →
    let c := actor s
    let d := ctxOf t (selCtx s)
    t = setCtx (begun s) (selCtx s) d
    ∧ d = { c with wq := d.wq, hq := d.hq, count := d.count, hcount := d.hcount, pc := c.pc + 1, warnSat := d.warnSat, warnFallback := d.warnFallback, pendFail := none, five := false, spawned := none, boundary := none }
    ∧ (c.warnSat = true → d.warnSat = true) ∧ (c.warnFallback = true → d.warnFallback = true)
    ∧ (∃ new, d.queue = c.queue ++ new ∧ ∀ e ∈ new, e.res.name ∈ (regWrites i).map (physName c))
    ∧ (if c.mode then d.wq = c.wq ∧ d.count = c.count ∧ d.hcount = c.hcount + 1 else d.hq = c.hq ∧ d.hcount = c.hcount ∧ d.count = c.count + 1)

/-! ### Scalar arithmetic -/

/-- R73: the register forms. For operands a and b under a guard that reads 1, each form delivers its result to sd, with latency 1, or 3 for the products, and its bundle changes nothing else; for sd = s0 nothing is delivered. Completes: add, sub, and, or, xor, shl, shr, sra, min, max, minn, maxn, mul, mulh, mulhn, madd. -/
def Obligations.IntegerRegisterForms : Prop :=
  ∀ (s : State) (sl : AB) (g : GReg) (sd sa sb : SReg), quiet s = true → readG (actor s) g = true →
    let a := readS (actor s) sa
    let b := readS (actor s) sb
    let n := b.toNat % 64
    let gives (lat : Nat) (v : W64) : Host.Outcome State Fault Refusal := .next (committed s (fun c => c.give lat sd v))
    exec (.add sl g sd sa sb) s = gives 1 (BitVec.ofNat 64 (a.toNat + b.toNat))
    ∧ exec (.sub sl g sd sa sb) s = gives 1 (BitVec.ofInt 64 ((a.toNat : Int) - b.toNat))
    ∧ exec (.and sl g sd sa sb) s = gives 1 (a &&& b)
    ∧ exec (.or sl g sd sa sb) s = gives 1 (a ||| b)
    ∧ exec (.xor sl g sd sa sb) s = gives 1 (a ^^^ b)
    ∧ exec (.shl sl g sd sa sb) s = gives 1 (BitVec.ofNat 64 (a.toNat * 2 ^ n))
    ∧ exec (.shr sl g sd sa sb) s = gives 1 (BitVec.ofNat 64 (a.toNat / 2 ^ n))
    ∧ exec (.sra sl g sd sa sb) s = gives 1 (BitVec.ofInt 64 (a.toInt / 2 ^ n))
    ∧ exec (.min sl g sd sa sb) s = gives 1 (if a.toInt ≤ b.toInt then a else b)
    ∧ exec (.max sl g sd sa sb) s = gives 1 (if a.toInt ≤ b.toInt then b else a)
    ∧ exec (.minn sl g sd sa sb) s = gives 1 (if a.toNat ≤ b.toNat then a else b)
    ∧ exec (.maxn sl g sd sa sb) s = gives 1 (if a.toNat ≤ b.toNat then b else a)
    ∧ exec (.mul sl g sd sa sb) s = gives 3 (BitVec.ofNat 64 (a.toNat * b.toNat))
    ∧ exec (.mulh sl g sd sa sb) s = gives 3 ((a.signExtend 128 * b.signExtend 128).extractLsb' 64 64)
    ∧ exec (.mulhn sl g sd sa sb) s = gives 3 ((a.zeroExtend 128 * b.zeroExtend 128).extractLsb' 64 64)
    ∧ exec (.madd sl g sd sa sb) s = gives 3 (BitVec.ofNat 64 ((readS (actor s) sd).toNat + a.toNat * b.toNat))

/-- R74, R75, R77: the immediate forms, LUI, CLZ, POPC and SEL, each delivered to sd with latency 1. CLZ counts the leading zeros, POPC the ones; SEL picks by its guard. R76: BFX extracts bits [pos + width − 1 : pos] of sa, zero-extended; BFI puts the low bits of sa there and keeps sd elsewhere. Completes: addi, andi, ori, xori, shli, shri, srai, lui, clz, popc, bfx, bfi, sel. -/
def Obligations.ImmediateBitAndFieldForms : Prop :=
  (∀ (s : State) (sl : AB) (g : GReg) (sd sa sb : SReg) (imm : BitVec 19) (imm24 : BitVec 24) (n : BitVec 6) (gc : GReg), quiet s = true → readG (actor s) g = true →
    let a := readS (actor s) sa
    let gives (v : W64) : Host.Outcome State Fault Refusal := .next (committed s (fun c => c.give 1 sd v))
    exec (.addi sl g sd sa imm) s = gives (BitVec.ofInt 64 (a.toInt + imm.toInt))
    ∧ exec (.andi sl g sd sa imm) s = gives (a &&& BitVec.ofInt 64 imm.toInt)
    ∧ exec (.ori sl g sd sa imm) s = gives (a ||| BitVec.ofInt 64 imm.toInt)
    ∧ exec (.xori sl g sd sa imm) s = gives (a ^^^ BitVec.ofInt 64 imm.toInt)
    ∧ exec (.shli sl g sd sa n) s = gives (BitVec.ofNat 64 (a.toNat * 2 ^ n.toNat))
    ∧ exec (.shri sl g sd sa n) s = gives (BitVec.ofNat 64 (a.toNat / 2 ^ n.toNat))
    ∧ exec (.srai sl g sd sa n) s = gives (BitVec.ofInt 64 (a.toInt / 2 ^ n.toNat))
    ∧ exec (.lui sl g sd imm24) s = gives (BitVec.ofInt 64 (imm24.toInt * 2 ^ 16))
    ∧ exec (.sel sl g sd sa sb gc) s = gives (if readG (actor s) gc then a else readS (actor s) sb)
    ∧ (∃ z, z ≤ 64 ∧ a.toNat < 2 ^ (64 - z) ∧ (z < 64 → a.getLsbD (63 - z) = true) ∧ exec (.clz sl g sd sa) s = gives (BitVec.ofNat 64 z))
    ∧ exec (.popc sl g sd sa) s = gives (BitVec.ofNat 64 ((List.range 64).countP (fun i => a.getLsbD i))))
  ∧ (∀ (s : State) (sl : AB) (g : GReg) (sd sa : SReg) (wm1 : BitVec 5) (pos : BitVec 6), quiet s = true → readG (actor s) g = true → pos.toNat + wm1.toNat + 1 ≤ 64 →
    let a := readS (actor s) sa
    let d := readS (actor s) sd
    (∃ v : W64, (∀ i, i < 64 → v.getLsbD i = (decide (i ≤ wm1.toNat) && a.getLsbD (pos.toNat + i)))
      ∧ exec (.bfx sl g sd sa wm1 pos) s = .next (committed s (fun c => c.give 1 sd v)))
    ∧ (∃ v : W64, (∀ i, i < 64 → v.getLsbD i = (if pos.toNat ≤ i ∧ i ≤ pos.toNat + wm1.toNat then a.getLsbD (i - pos.toNat) else d.getLsbD i))
      ∧ exec (.bfi sl g sd sa wm1 pos) s = .next (committed s (fun c => c.give 1 sd v))))

/-- R78: with a divisor that is not 0 the quotient is truncated toward zero and the remainder is what it leaves, in latency 18; −2^63 by −1 gives −2^63 and 0. R78, R24: a divisor of 0 traps with INT_DIV_ZERO and the slot as its detail, when the guard reads 1: a task with a handler enters it and nothing of the bundle is done. Under a guard that reads 0 the bundle just commits. Completes: div, divn, rem, remn. -/
def Obligations.DivisionForms : Prop :=
  (∀ (s : State) (sl : AB) (g : GReg) (sd sa sb : SReg), quiet s = true → readG (actor s) g = true → readS (actor s) sb ≠ 0 →
    let a := readS (actor s) sa
    let b := readS (actor s) sb
    let gives (v : W64) : Host.Outcome State Fault Refusal := .next (committed s (fun c => c.give 18 sd v))
    exec (.div sl g sd sa sb) s = gives (if a.toInt = -2 ^ 63 ∧ b.toInt = -1 then a else BitVec.ofInt 64 (a.toInt.tdiv b.toInt))
    ∧ exec (.rem sl g sd sa sb) s = gives (if a.toInt = -2 ^ 63 ∧ b.toInt = -1 then 0 else BitVec.ofInt 64 (a.toInt - a.toInt.tdiv b.toInt * b.toInt))
    ∧ exec (.divn sl g sd sa sb) s = gives (BitVec.ofNat 64 (a.toNat / b.toNat))
    ∧ exec (.remn sl g sd sa sb) s = gives (BitVec.ofNat 64 (a.toNat - a.toNat / b.toNat * b.toNat)))
  ∧ (∀ (s : State) (sl : AB) (g : GReg) (sd sa sb : SReg), quiet s = true → (actor s).storeFail = none → readS (actor s) sb = 0 →
    (actor s).mode = false → hasHandler (begun s) (selCtx s) = true →
    let enters : Host.Outcome State Fault Refusal := .next (setCtx (begun s) (selCtx s) ((actor s).enter (trapOf 0x10 (Slot.num sl.slot))))
    let all (o : Host.Outcome State Fault Refusal) : Prop := exec (.div sl g sd sa sb) s = o ∧ exec (.divn sl g sd sa sb) s = o ∧ exec (.rem sl g sd sa sb) s = o ∧ exec (.remn sl g sd sa sb) s = o
    (readG (actor s) g = true → all enters) ∧ (readG (actor s) g = false → all (.next (committed s id))))

/-- R79 to R81: CMP, CMPI and GLOG deliver a condition and its complement to a guard pair with latency 1, or, with pair field 0, nothing but WARN.FALLBACK; MOVG moves all guards to a scalar and g2 to g15 back. Completes: cmp, cmpi, glog, movg. -/
def Obligations.ComparesAndGuards : Prop :=
  ∀ (s : State) (sl : AB) (g : GReg) (pair cc fn : BitVec 3) (sa sb : SReg) (imm : BitVec 18) (ga gb : GReg), quiet s = true → readG (actor s) g = true →
    let a := readS (actor s) sa
    let x := readG (actor s) ga
    let y := readG (actor s) gb
    let gives (v : Bool) : Host.Outcome State Fault Refusal := .next (committed s (fun c => c.givePair 1 pair v))
    exec (.cmp sl g pair cc sa sb) s = gives (numericCond cc a (readS (actor s) sb))
    ∧ exec (.cmpi sl g pair cc sa imm) s = gives (numericCond cc a (if cc = 4 ∨ cc = 5 then imm.zeroExtend 64 else imm.signExtend 64))
    ∧ exec (.glog sl g pair fn ga gb) s = gives ([x && y, x || y, xor x y, x && !y, x || !y, !(x && y), !(x || y), !(xor x y)].getD fn.toNat false)
    ∧ (∃ v : W64, (∀ i, i < 64 → v.getLsbD i = (decide (i < 16) && readG (actor s) (BitVec.ofNat 4 i)))
        ∧ exec (.movg sl g false sa) s = .next (committed s (fun c => c.give 1 sa v)))
    ∧ exec (.movg sl g true sa) s = .next (committed s (fun c => (List.range 14).foldl (fun c i => c.push 1 (.guard (i + 2) (a.getLsbD (i + 2)))) c))

/-- R82 to R86: the scalar float forms deliver the code that the format's arithmetic gives, zero-extended, with latency 3, or 2 for FCVT, and set the WARN bits that the result and a fallback call for. FCVT to i32 is sign-extended. What that arithmetic gives, subnormals kept: the first NaN operand quieted; the default NaN for ∞ − ∞ and 0 × ∞; the sign of an exact zero sum and of a zero product; a result that a code holds exactly; and else a code next to the exact result, the nearest under RNE, toward zero under RTZ, up under RUP and down under RDN, RTZ never going to infinity. Completes: fadd, fsub, fmul, ffma, fmin, fmax, fcmp, fcvt. -/
def Obligations.ScalarFloatForms : Prop :=
  (∀ (s : State) (sl : AB) (g : GReg) (sd sa sb : SReg) (ftz : Bool) (rm pair cc : BitVec 3) (fmt : BitVec 2) (conv : BitVec 5), quiet s = true → readG (actor s) g = true → conv.toNat < 14 →
    let t := fpFmt fmt
    let a := fpCode t (readS (actor s) sa)
    let b := fpCode t (readS (actor s) sb)
    let d := fpCode t (readS (actor s) sd)
    let arith (op : FOp) : FRes := t.arith op (rmOf rm.toNat) ftz a b d
    let gives (op : FOp) : Host.Outcome State Fault Refusal :=
      .next (committed s (fun c => (c.give 3 sd (BitVec.ofNat 64 (arith op).code)).warn (arith op).sat (decide (4 ≤ rm.toNat) || fmt == 3)))
    let picks (m : Bool) : Host.Outcome State Fault Refusal :=
      .next (committed s (fun c => (c.give 3 sd (BitVec.ofNat 64 (t.minMax m (t.flush ftz a) (t.flush ftz b)))).warn false (fmt == 3)))
    let r := fcvtResult conv.toNat ftz rm.toNat (readS (actor s) sa)
    exec (.fadd sl g sd sa sb ftz rm fmt) s = gives .add
    ∧ exec (.fsub sl g sd sa sb ftz rm fmt) s = gives .sub
    ∧ exec (.fmul sl g sd sa sb ftz rm fmt) s = gives .mul
    ∧ exec (.ffma sl g sd sa sb ftz rm fmt) s = gives .fma
    ∧ exec (.fmin sl g sd sa sb ftz fmt) s = picks false
    ∧ exec (.fmax sl g sd sa sb ftz fmt) s = picks true
    ∧ exec (.fcmp sl g pair cc sa sb ftz fmt) s
        = .next (committed s (fun c => (c.givePair 3 pair (condFloat cc (FVal.order (t.decode (t.flush ftz a)) (t.decode (t.flush ftz b))))).warn false (fmt == 3)))
    ∧ exec (.fcvt sl g sd sa conv ftz rm) s
        = .next (committed s (fun c => (c.give 2 sd (if conv = 6 then BitVec.ofInt 64 (sextNat 32 r.code) else BitVec.ofNat 64 r.code)).warn r.sat (decide (5 ≤ rm.toNat) || ((conv = 2 || conv = 3) && rm == 4)))))
  ∧ (∀ (f : FFmt) (defaultNan : Nat) (rm : Rm) (op : FOp) (a b d : Nat), (f, defaultNan) ∈ [(FFmt.f32, 0x7FC00000), (FFmt.bf16, 0x7FC0), (FFmt.f16, 0x7E00)] →
    let w := 1 + f.eb + f.fb
    let top := 2 ^ f.eb - 1
    let field (x : Nat) : Nat := x / 2 ^ f.fb % 2 ^ f.eb
    let nan (x : Nat) : Prop := field x = top ∧ x % 2 ^ f.fb ≠ 0
    let inf (x : Nat) : Prop := field x = top ∧ x % 2 ^ f.fb = 0
    let zero (x : Nat) : Prop := x % 2 ^ (w - 1) = 0
    let fin (x : Nat) : Prop := x < 2 ^ w ∧ field x ≠ top
    let neg (x : Nat) : Bool := x.testBit (w - 1)
    let val (x : Nat) : ℚ := (f.decode x).rat
    let r := (f.arith op rm false a b d).code
    let quiet (x : Nat) : Nat := x ||| 2 ^ (f.fb - 1)
    let x : ℚ := match op with | .add => val a + val b | .sub => val a - val b | .mul => val a * val b | .fma => val a * val b + val d
    a < 2 ^ w → b < 2 ^ w → d < 2 ^ w →
      (nan a → r = quiet a) ∧ (¬nan a → nan b → r = quiet b) ∧ (op = .fma → ¬nan a → ¬nan b → nan d → r = quiet d)
      ∧ (inf a → inf b → (op = .add ∧ neg a ≠ neg b ∨ op = .sub ∧ neg a = neg b) → r = defaultNan)
      ∧ ((inf a ∧ zero b ∨ zero a ∧ inf b) → (op = .mul ∨ op = .fma ∧ ¬nan d) → r = defaultNan)
      ∧ (fin a → fin b → (op = .fma → fin d) →
        (op = .add → x = 0 → r = if a = b then a else if rm = .rdn then 2 ^ (w - 1) else 0)
        ∧ (op = .mul → x = 0 → r = if neg a = neg b then 0 else 2 ^ (w - 1))
        ∧ (∀ c, fin c → val c = x → x ≠ 0 → r = c)
        ∧ (fin r →
          (∀ c, fin c → ¬(x < val c ∧ val c < val r) ∧ ¬(val r < val c ∧ val c < x))
          ∧ (rm = .rne → ∀ c, fin c → |val r - x| ≤ |val c - x|) ∧ (rm = .rtz → |val r| ≤ |x|) ∧ (rm = .rup → x ≤ val r) ∧ (rm = .rdn → val r ≤ x))
        ∧ (rm = .rtz → fin r)))

/-! ### Scalar loads and stores -/

/-- R87, R88: a load through h0 of an aligned operand inside the scratchpad delivers its bytes with latency 4, the X forms sign-extended, the others zero-extended, and its bundle changes nothing else. R87, R23, R237: a load through any other handle whose checks pass issues an access for its bytes, marked on the scoreboard for sd; the context goes on. Completes: ldb, ldh, ldw, ldd, ldbx, ldhx, ldwx. Rests also on the model's own choices and readings: log 9, 10, 11. -/
def Obligations.ScalarLoads : Prop :=
  (∀ (s : State) (sl : AB) (g : GReg) (sd sa : SReg) (imm : BitVec 15), quiet s = true → readG (actor s) g = true →
    let bytes (n : Nat) : Nat := leNat (localBytes (begun s) (selCtx s) (operandAt s sa imm.toNat n) n)
    let fits (n : Nat) : Prop := localFits s (operandAt s sa imm.toNat n) n n = true ∧ localClean s (operandAt s sa imm.toNat n) n = true
    let gives (v : W64) : Host.Outcome State Fault Refusal := .next (committed s (fun c => c.give 4 sd v))
    (fits 1 → exec (.ldb sl g sd 0 sa imm) s = gives (BitVec.ofNat 64 (bytes 1)) ∧ exec (.ldbx sl g sd 0 sa imm) s = gives ((BitVec.ofNat 8 (bytes 1)).signExtend 64))
    ∧ (fits 2 → exec (.ldh sl g sd 0 sa imm) s = gives (BitVec.ofNat 64 (bytes 2)) ∧ exec (.ldhx sl g sd 0 sa imm) s = gives ((BitVec.ofNat 16 (bytes 2)).signExtend 64))
    ∧ (fits 4 → exec (.ldw sl g sd 0 sa imm) s = gives (BitVec.ofNat 64 (bytes 4)) ∧ exec (.ldwx sl g sd 0 sa imm) s = gives ((BitVec.ofNat 32 (bytes 4)).signExtend 64))
    ∧ (fits 8 → exec (.ldd sl g sd 0 sa imm) s = gives (BitVec.ofNat 64 (bytes 8))))
  ∧ (∀ (s u : State) (sl : AB) (g : GReg) (sd sa : SReg) (h : HReg) (imm : BitVec 15), quiet s = true → readG (actor s) g = true → h ≠ 0 →
    let slot := Slot.num sl.slot
    let off (n : Nat) : Nat := operandAt s sa imm.toNat n
    let reaches (n : Nat) : Prop := Reaches s u slot h.toNat 1 n 0x25 false [(off n, n)]
    let gives (n : Nat) (x : Bool) : Host.Outcome State Fault Refusal := .next (goesOn s (issued u (access s slot h.toNat (off n) n (.load 0 sd.toNat n 0 x false 0))) id)
    (reaches 1 → exec (.ldb sl g sd h sa imm) s = gives 1 false ∧ exec (.ldbx sl g sd h sa imm) s = gives 1 true)
    ∧ (reaches 2 → exec (.ldh sl g sd h sa imm) s = gives 2 false ∧ exec (.ldhx sl g sd h sa imm) s = gives 2 true)
    ∧ (reaches 4 → exec (.ldw sl g sd h sa imm) s = gives 4 false ∧ exec (.ldwx sl g sd h sa imm) s = gives 4 true)
    ∧ (reaches 8 → exec (.ldd sl g sd h sa imm) s = gives 8 false))

/-- R87, R21: a store through h0 performs with its bundle: the low bytes of ss stand at the operand's offset of the core's scratchpad. R87, R237: a store through any other handle whose checks pass issues an access that carries the low bytes of ss; memory is as before until its home performs it. Completes: stb, sth, stw, std. Rests also on the model's own choices and readings: log 10. -/
def Obligations.ScalarStores : Prop :=
  (∀ (s : State) (sl : AB) (g : GReg) (ss sa : SReg) (imm : BitVec 15), quiet s = true → readG (actor s) g = true →
    let off (n : Nat) : Nat := operandAt s sa imm.toNat n
    let fits (n : Nat) : Prop := localFits s (off n) n n = true
    let stores (n : Nat) : Host.Outcome State Fault Refusal :=
      .next (goesOn s (storeLocal (begun s) (hereCore s) (off n) (actor s).launch (leBytes (readS (actor s) ss).toNat n)) id)
    (fits 1 → exec (.stb sl g ss 0 sa imm) s = stores 1) ∧ (fits 2 → exec (.sth sl g ss 0 sa imm) s = stores 2)
    ∧ (fits 4 → exec (.stw sl g ss 0 sa imm) s = stores 4) ∧ (fits 8 → exec (.std sl g ss 0 sa imm) s = stores 8))
  ∧ (∀ (s u : State) (sl : AB) (g : GReg) (ss sa : SReg) (h : HReg) (imm : BitVec 15), quiet s = true → readG (actor s) g = true → h ≠ 0 →
    let slot := Slot.num sl.slot
    let off (n : Nat) : Nat := operandAt s sa imm.toNat n
    let reaches (n : Nat) : Prop := Reaches s u slot h.toNat 2 n 0x25 false [(off n, n)]
    let stores (n : Nat) : Host.Outcome State Fault Refusal := .next (goesOn s (issued u (access s slot h.toNat (off n) n (.store (leBytes (readS (actor s) ss).toNat n)))) id)
    (reaches 1 → exec (.stb sl g ss h sa imm) s = stores 1) ∧ (reaches 2 → exec (.sth sl g ss h sa imm) s = stores 2)
    ∧ (reaches 4 → exec (.stw sl g ss h sa imm) s = stores 4) ∧ (reaches 8 → exec (.std sl g ss h sa imm) s = stores 8))

/-- The frame of a store through h0 (STB, STH, STW, STD): every scratchpad byte of the context's launch outside the stored bytes reads as before on every core, the stored bytes read as the low bytes of ss where no live writer tag of a higher core stands (R242), and no byte of any die's memory changes. -/
def Obligations.LocalStoreFrame : Prop :=
  ∀ (s t : State) (sl : AB) (g : GReg) (ss sa : SReg) (imm : BitVec 15) (n : Nat) (i : Instr), quiet s = true → readG (actor s) g = true →
    (n, i) ∈ [(1, Instr.stb sl g ss 0 sa imm), (2, Instr.sth sl g ss 0 sa imm), (4, Instr.stw sl g ss 0 sa imm), (8, Instr.std sl g ss 0 sa imm)] →
    localFits s (operandAt s sa imm.toNat n) n n = true → operandAt s sa imm.toNat n + n ≤ 0x200000 → exec i s = .next t →
    let off := operandAt s sa imm.toNat n
    let k := hereCore s
    let x := (actor s).launch
    (∀ core b, b < 0x200000 → (core ≠ k ∨ b < off ∨ off + n ≤ b) → readScr t core b x = readScr (begun s) core b x)
    ∧ (∀ j, j < n → tagAllows (begun s) k (.scr k (off + j)) = true → readScr t k (off + j) x = (leBytes (readS (actor s) ss).toNat n).getD j 0)
    ∧ (∀ a, cellGet t.mem a = cellGet (begun s).mem a)

/-! ### Control flow and the system instructions -/

/-- R89, R31, R55: BR, CALL, RET and JR under a guard that reads 1 pass control to PC + disp, or to bits [17:0] of s31 or sa; CALL delivers PC + 1 to s31 with latency 1. Hint 11 acts as 00 and sets WARN.FALLBACK. Completes: br, call, ret, jr. -/
def Obligations.TakenBranches : Prop :=
  ∀ (s : State) (g : GReg) (hint : BitVec 2) (disp : BitVec 19) (sa : SReg), quiet s = true → readG (actor s) g = true →
    let here := (actor s).pc
    let target : Pc := BitVec.ofInt 18 ((here.toNat : Int) + disp.toInt)
    let warns (c : Ctx) : Ctx := c.warn false (hint == 3)
    exec (.br g hint disp) s = .next (jumped s target warns)
    ∧ exec (.call g hint disp) s = .next (jumped s target (fun c => warns (c.push 1 (.scalar 31 (BitVec.ofNat 64 (here + 1).toNat)))))
    ∧ exec (.ret g hint) s = .next (jumped s (BitVec.ofNat 18 (readS (actor s) 31).toNat) warns)
    ∧ exec (.jr g hint sa) s = .next (jumped s (BitVec.ofNat 18 (readS (actor s) sa).toNat) warns)

/-- R91: LOOPS with trip count n and e stages delivers LC, EC and p8, and n = 0 to its guard pair; a trip count beyond 2^32 − e + 1 is clamped and sets WARN.SAT. R92, R93: with LC 0 LOOPR and LOOPC fall through and deliver nothing; else they branch and deliver LC − 1, and LOOPR also rotates VRB and PRB down by one and sets the new p8 to whether EC ≤ LC − 1. Completes: loops, loopr, loopc. -/
def Obligations.Loops : Prop :=
  (∀ (s : State) (g : GReg) (pair : BitVec 3) (sa : SReg) (ec : BitVec 8), quiet s = true → readG (actor s) g = true →
    let n := (readS (actor s) sa).toNat
    let e := max ec.toNat 1
    let most := 2 ^ 32 - e + 1
    let p8 := physP (actor s) 8
    exec (.loops g pair sa ec) s = .next (committed s (fun c =>
      ((((c.push 1 (.lc (if n = 0 then 0 else BitVec.ofNat 32 (min n most + e - 2)))).push 1 (.ec (if n = 0 then 0 else BitVec.ofNat 8 (e - 1)))).push 1
        (.pred p8 (BitVec.allOnes 128) (if n = 0 then 0 else BitVec.allOnes 128))).givePair 1 pair (n == 0)).warn (decide (most < n)) false)))
  ∧ (∀ (s : State) (g : GReg) (hint : BitVec 2) (disp : BitVec 19), quiet s = true → readG (actor s) g = true →
    let c := actor s
    let target : Pc := BitVec.ofInt 18 ((c.pc.toNat : Int) + disp.toInt)
    let warns (c : Ctx) : Ctx := c.warn false (hint == 3)
    let on : PWord := if c.ec.toNat ≤ (c.lc - 1).toNat then BitVec.allOnes 128 else 0
    (c.lc = 0 → exec (.loopr g hint disp) s = .next (committed s warns) ∧ exec (.loopc g hint disp) s = .next (committed s warns))
    ∧ (c.lc ≠ 0 →
      exec (.loopc g hint disp) s = .next (jumped s target (fun c => warns (c.push 1 (.lc (c.lc - 1)))))
      ∧ exec (.loopr g hint disp) s = .next (jumped s target (fun c => warns
          ((((c.push 1 (.lc (c.lc - 1))).push 1 (.vrb (c.vrb - 1))).push 1 (.prb (c.prb - 1))).push 1 (.pred (8 + (c.prb - 1).toNat) (BitVec.allOnes 128) on))))))

/-- R96, R24: TRAP and BKPT take causes 0x08 and 0x00 with imm16 as the detail: a task with a handler enters it, and nothing of the bundle is done. R24, R353: what entering a handler does: EPC takes the PC, CAUSE the cause with its detail, MODE and TRAPQ are set, the handler's queue starts empty at count 0, the task's queue and count stay frozen, and the context goes on at TVEC. A trap that records no access leaves FHANDLE and FOFFSET. R25, R355: a trap in supervisor mode, or in a task without a handler, halts the context with its record and fails its operator with the same cause and detail (shown of TRAP). Completes: trap, bkpt. Rests also on the model's own choices and readings: log 7. -/
def Obligations.TrapsAndTheirEntry : Prop :=
  (∀ (s : State) (g : GReg) (n : BitVec 16), quiet s = true → (actor s).storeFail = none → readG (actor s) g = true → (actor s).mode = false → hasHandler (begun s) (selCtx s) = true →
    exec (.trap g n) s = .next (setCtx (begun s) (selCtx s) ((actor s).enter (trapOf 0x08 n.toNat)))
    ∧ exec (.bkpt g n) s = .next (setCtx (begun s) (selCtx s) ((actor s).enter (trapOf 0x00 n.toNat))))
  ∧ (∀ (c : Ctx) (cause detail : Nat), cause < 128 → detail < 2 ^ 24 →
    c.enter (trapOf cause detail) = { c with epc := c.pc, cause := BitVec.ofNat 32 (detail * 128 + cause), mode := true, trapq := true, hq := [], hcount := 0, pc := c.tvec, block := none, splitDone := false, five := false, spawned := none })
  ∧ (∀ (s : State) (g : GReg) (n : BitVec 16), quiet s = true → (actor s).storeFail = none → readG (actor s) g = true → ((actor s).mode = true ∨ hasHandler (begun s) (selCtx s) = false) →
    exec (.trap g n) s = .next (failOp (setCtx (begun s) (selCtx s) ((actor s).halt (trapOf 0x08 n.toNat))) (actor s).op 0x08 n.toNat))

/-- R24, R97: ERET in supervisor mode, no interlocked result being awaited, writes the handler's queued results, empties its queue, clears MODE and TRAPQ, and resumes the task at EPC with its frozen queue and count; a failed store that the trap told of is pending again where EPC is still its bundle's (the model's choice, log 88). Completes: eret. Rests also on the model's own choices and readings: log 88. -/
def Obligations.EretReturns : Prop :=
  ∀ (s : State) (g : GReg), quiet s = true → readG (actor s) g = true → (actor s).mode = true → awaiting (begun s) (actor s).uid = false →
    ∃ t, exec (.eret g) s = .next t
      ∧ ctxOf t (selCtx s) = { ({ (actor s).hq.foldl (fun c e => c.put e.res) (actor s) with hq := [], five := false, spawned := none } : Ctx).retold with hcount := 0, trapq := false, mode := false, pc := (actor s).epc, returning := false }
      ∧ t.mem = (begun s).mem ∧ ∀ j, j ≠ selCtx s → ctxOf t j = ctxOf (begun s) j

/-- R99, R100: SYSRD of a register the mode may read delivers its value with latency 1, or under the scoreboard where its read is interlocked. R11, R99, R100: SYSWR of CTXSTAT in any mode, and of any other register in supervisor mode, writes it with its bundle. In task mode a write of CTXSTAT clears the WARN bits it names and nothing else; in supervisor mode it also sets PENDCHK. R99, R100, R270, R284, R353, R360: in supervisor mode CAUSE, EPC, TVEC, FHANDLE, FOFFSET, HSAVE0 to HSAVE3, LC, EC, VRB, PRB, MPADDR, RINGSEL, DBGCTL, WATCHLO and WATCHHI then read what was written, under their masks, each leaving the others, as do RINGWIN and RINGCNT while their ring is not enabled; a write of a read-only register leaves it. R257, R271, R284, R377: SYSWR in supervisor mode of MPDATA writes the word MPADDR names and steps MPADDR, once no MCALL of the core runs or waits (that MPADDR steps also where the write is ignored, at 1024 to 1039 and from 1152 on, is the model's choice, log 86); of RINGCFG, the configuration of the ring RINGSEL names; of WPIN and WUNPIN, the pin count of the tensor named. R33, R97 to R100, R271, R284, R377: in task mode ERET, IDLE, SYSWR of a register other than CTXSTAT, and SYSRD of a supervisor register take PRIVILEGED, whose detail is the opcode and slot A. Completes: sysrd, syswr, mpdataWrite, ringcfgWrite, wpinWrite, wunpinWrite. Rests also on the model's own choices and readings: log 1, 39, 86. -/
def Obligations.SystemRegisters : Prop :=
  (∀ (s : State) (g : GReg) (sd : SReg) (n : BitVec 16), quiet s = true → readG (actor s) g = true → ((actor s).mode = true ∨ supervisorOnly n.toNat = false) →
    let v : W64 := BitVec.ofNat 64 (sysValue (begun s) (selCtx s) n.toNat)
    exec (.sysrd g sd n) s = .next (if interlockedSys n.toNat then goesOn s (awaited s (begun s) sd v) id else committed s (fun c => c.give 1 sd v)))
  ∧ (∀ (s : State) (g : GReg) (ss : SReg) (n : BitVec 16), quiet s = true → readG (actor s) g = true →
    let v := readS (actor s) ss
    (((actor s).mode = true ∨ n = 0) → exec (.syswr g ss n) s = .next (goesOn s (writeSys (begun s) (selCtx s) n.toNat v) id))
    ∧ ((actor s).mode = false → exec (.syswr g ss 0) s
        = .next (committed s (fun c => { c with warnSat := c.warnSat && !v.getLsbD 15, warnFallback := c.warnFallback && !v.getLsbD 14 }))))
  ∧ (∀ (s : State) (g : GReg) (ss : SReg) (n : BitVec 16) (mask : Nat), quiet s = true → readG (actor s) g = true → (actor s).mode = true →
    let v := readS (actor s) ss
    let me := selCtx s
    let masks : List (Nat × Nat) := [(0x01, 0xFFFFFFFF), (0x02, 0x3FFFF), (0x03, 0x3FFFF), (0x04, 0xC0FFFFFF), (0x05, 2 ^ 64 - 1), (0x08, 2 ^ 64 - 1), (0x09, 2 ^ 64 - 1), (0x0A, 2 ^ 64 - 1), (0x0B, 2 ^ 64 - 1),
      (0x10, 0xFFFFFFFF), (0x11, 0xFF), (0x12, 0x1F), (0x13, 7), (0x130, 0x7FF), (0x140, 0x3F), (0x150, 0x00FEFFFE), (0x151, 2 ^ 64 - 1), (0x152, 2 ^ 64 - 1)]
    let ring := ringOf (begun s) (hereCore s / 8 * 64 + (coreOf (begun s) (hereCore s)).ringsel.toNat)
    let other (n : Nat) : Bool := decide (0x20 ≤ n ∧ n ≤ 0x23) || n == 0x30 || decide (0x100 ≤ n ∧ n ≤ 0x11A) || decide (0x120 ≤ n ∧ n ≤ 0x123) || n == 0x153 || n == 0x154
      || decide (0x160 ≤ n ∧ n ≤ 0x163) || decide (0x170 ≤ n ∧ n ≤ 0x172) || decide (0x180 ≤ n ∧ n ≤ 0x183)
    ((n.toNat, mask) ∈ masks → ∃ t, exec (.syswr g ss n) s = .next t ∧ sysValue t me n.toNat = v.toNat &&& mask
      ∧ ∀ m, m ∈ masks → m.1 ≠ n.toNat → sysValue t me m.1 = sysValue (begun s) me m.1)
    ∧ ((n.toNat, mask) ∈ [(0x142, 0x000FFFFFFFFFFFFF), (0x143, 2 ^ 64 - 1)] → ∃ t, exec (.syswr g ss n) s = .next t
      ∧ sysValue t me n.toNat = (if ring.cfg.getLsbD 63 then sysValue (begun s) me n.toNat else v.toNat &&& mask))
    ∧ (other n.toNat = true → exec (.syswr g ss n) s = .next (committed s id))
    ∧ exec (.syswr g ss 0) s
        = .next (committed s (fun c => { c with warnSat := c.warnSat && !v.getLsbD 15, warnFallback := c.warnFallback && !v.getLsbD 14, pendchk := v.getLsbD 1 })))
  ∧ (∀ (s : State) (g : GReg) (ss : SReg) (t : Tensor), quiet s = true → readG (actor s) g = true → (actor s).mode = true → (actor s).storeFail = none →
    let v := readS (actor s) ss
    let c := hereCore s
    let k := coreOf (begun s) c
    let a := k.mpaddr.toNat
    let part := partOfCore (begun s) c
    (k.queue.any (fun q => q.opc = 1) = false → k.mcall = none →
      exec (.mpdataWrite g ss) s = .next (goesOn s (setCore (begun s) c { k with
        mpaddr := k.mpaddr + 1, store := if a < 1024 then tset k.store a v else k.store, rtable := if 1040 ≤ a ∧ a < 1152 then tset k.rtable (a - 1024) v else k.rtable }) id))
    ∧ exec (.ringcfgWrite g ss) s = .next (goesOn s (writeRingCfg (begun s) (c / 8 * 64 + k.ringsel.toNat) v) id)
    ∧ (updating (begun s) (actor s).uid = false → tensorOf (begun s) part (v.toNat % 2 ^ 20) = some t → pinCount (begun s) part t < 65535 →
      exec (.wpinWrite g ss) s = .next (goesOn s (setTensor (begun s) part { t with pin := t.pin + 1 }) id))
    ∧ (updating (begun s) (actor s).uid = false → tensorOf (begun s) part (v.toNat % 2 ^ 20) = some t → pinCount (begun s) part t ≠ 0 →
      exec (.wunpinWrite g ss) s = .next (goesOn s (if t.pin = 0 then { begun s with retry := (begun s).retry.filter (fun r => !(r.1 = part && r.2.1 = v.toNat % 2 ^ 20)) }
        else setTensor (begun s) part { t with pin := t.pin - 1 }) id)))
  ∧ (∀ (s : State) (g : GReg) (r : SReg) (n m : BitVec 16) (i : Instr) (opc : Nat), quiet s = true → readG (actor s) g = true → (actor s).mode = false → hasHandler (begun s) (selCtx s) = true →
    n ≠ 0 → m.toNat ∈ [0x03, 0x08, 0x09, 0x0A, 0x0B, 0x130, 0x131, 0x140, 0x141, 0x142, 0x143, 0x164, 0x165] →
    (i, opc) ∈ [(Instr.eret g, 0x5C), (Instr.idle g, 0x62), (Instr.syswr g r n, 0x5E), (Instr.mpdataWrite g r, 0x5E), (Instr.ringcfgWrite g r, 0x5E), (Instr.wpinWrite g r, 0x5E),
      (Instr.wunpinWrite g r, 0x5E), (Instr.sysrd g r m, 0x5D)] →
    exec i s = .next (setCtx (begun s) (selCtx s) ((actor s).enter (trapOf 0x05 (opc * 2 ^ 13)))))

/-- R98: IDLE in supervisor mode commits; a kept wake notice is used up, else the context blocks until one comes. R95: SEGMARK of a segment that the core holds or is copying does nothing; of another segment that the table gives, it starts the copy. R176: END of a task without a join, no token being PEND or FAULT, its release condition holding the pushes of its SPAWNs made, and no collective instance holding an operation of it, leaves the context idle and its operator with one live task fewer. Completes: endTask, segmark, idle. Rests also on the model's own choices and readings: log 34, 69. -/
def Obligations.IdleHintsAndEnd : Prop :=
  (∀ (s : State) (g : GReg), quiet s = true → readG (actor s) g = true → (actor s).mode = true →
    exec (.idle g) s = .next (committed s (fun c => if c.wake then { c with wake := false } else { c with block := some .wake })))
  ∧ (∀ (s : State) (g : GReg) (n : BitVec 6) (e : Nat × Nat × Nat), quiet s = true → readG (actor s) g = true →
    let known := segmentKnown (coreOf (begun s) (hereCore s)) (ktabOf (begun s) (selCtx s)) n.toNat
    (known = true → exec (.segmark g n) s = .next (committed s id))
    ∧ (known = false → segEntry (begun s) (partOfCore (begun s) (hereCore s)) (ktabOf (begun s) (selCtx s)) n.toNat = .ok e →
      exec (.segmark g n) s = .next (goesOn s (startSegCopy (begun s) (selCtx s) n.toNat false) id)))
  ∧ (∀ (s : State) (g : GReg) (o : Operator), quiet s = true → readG (actor s) g = true → (actor s).storeFail = none → (actor s).task.jv = false →
    (∀ e ∈ (actor s).k, e.2.st ≠ .pend ∧ e.2.st ≠ .fault) → releaseReady (begun s) (actor s).uid 4 (begun s).fresh = true → spawning (begun s) (actor s).uid = false → (∀ i, i ∈ (begun s).colls → ∀ o, o ∈ i.ops → o.uid ≠ (actor s).uid) →
    opOf (begun s) (actor s).op = some o → o.phase = .running →
    ∃ t, exec (.endTask g) s = .next t ∧ ctxOf t (selCtx s) = Ctx.idle
      ∧ opOf t (actor s).op = some { o with live := o.live - 1, phase := if o.live ≤ 1 then .ending else .running } ∧ t.mem = (begun s).mem)

/-- R175: SPAWN of a well-formed record in the local scratchpad counts one more live task of the context's operator and sends the record on its way to a queue, and the context goes on; a record through another handle is read first by an interlocked load, for which the bundle waits, and the bundle then does the same with the bytes that came. R279 to R281: WAITK of a token that is FREE or DONE goes on, of one that is PEND blocks, and of one that is FAULT traps with the stored record, which FHANDLE and FOFFSET take for the causes of R354 (log 32); KSTAT delivers the token's status under the scoreboard; KCLR of a token that is not PEND frees it. Completes: spawn, waitk, kstat, kclr. Rests also on the model's own choices and readings: log 32, 69. -/
def Obligations.SpawnAndTokens : Prop :=
  (∀ (s u : State) (g : GReg) (h : HReg) (sa : SReg) (imm : BitVec 7) (o : Operator) (k : TaskRec) (at' : Nat) (data : List Byte), quiet s = true → readG (actor s) g = true → (actor s).storeFail = none →
    let off := operandAt s sa imm.toNat 32
    let counted : State := setOp (begun s) (actor s).op { o with live := o.live + 1 }
    let spawns : Host.Outcome State Fault Refusal := .next (goesOn s (marked counted (mkRemote (begun s) (selCtx s) 0 0 0 [] (.spawn (selCtx s % 4) { k with op := (actor s).op }))) id)
    (localFits s off 32 32 = true → localClean s off 32 = true → opOf (begun s) (actor s).op = some o → o.live < 2 ^ 32 - 1 →
      parseTask (localBytes (begun s) (selCtx s) off 32) = (k, none) → exec (.spawn g 0 sa imm) s = spawns)
    ∧ (h ≠ 0 → Reaches s u 0 h.toNat 1 32 0x25 false [(off, 32)] → (actor s).spawned = none →
      exec (.spawn g h sa imm) s = .next (blockCtx (issued u (access s 0 h.toNat off 32 .record)) (selCtx s) .record))
    ∧ (h ≠ 0 → checkOperand (begun s) (selCtx s) 0 h.toNat false 32 0x25 [(off, 32)] = none → (actor s).spawned = some (0, at', data) → opOf (begun s) (actor s).op = some o → o.live < 2 ^ 32 - 1 →
      parseTask data = (k, none) → exec (.spawn g h sa imm) s = spawns))
  ∧ (∀ (s : State) (g : GReg) (sd : SReg) (k : KReg), quiet s = true → readG (actor s) g = true →
    let t := readK (actor s) k.toNat
    ((t.st = .free ∨ t.st = .done) → exec (.waitk g k) s = .next (committed s id))
    ∧ (t.st = .pend → exec (.waitk g k) s = .next (waits s (.token k.toNat)))
    ∧ (t.st = .fault → (actor s).storeFail = none → (actor s).mode = false → hasHandler (begun s) (selCtx s) = true →
      exec (.waitk g k) s = .next (setCtx (begun s) (selCtx s) ((actor s).enter
        ⟨t.fr.cause, t.fr.detail, if recordsAccess t.fr.cause then some (t.fr.kind, t.fr.handle, t.fr.tid, t.fr.offset) else none, true⟩)))
    ∧ exec (.kstat g sd k) s = .next (goesOn s (awaited s (begun s) sd (BitVec.ofNat 64 (kstatValue (begun s) t))) id)
    ∧ (t.st ≠ .pend → exec (.kclr g k) s = .next (committed s (fun c => if k = 0 then c else { c with k := tset c.k k.toNat .free }))))

/-! ### Slot B: vectors, synchronization, handles, rings, groups -/

/-- R218, R219: VLD and VLDS through h0 deliver the operand's bytes with latency 4, lane by lane from lane 0; in mode 4 VLD puts the one word into every lane. R218, R219: VST and VSTS through h0 store the low lanes of vs over the operand's elements in order. R218 to R220, R241: a vector access through another handle, and LDRO and VLDRO, whose checks pass, issue their accesses, a vector's in pieces that each lie in one sector. Completes: vld, vst, vlds, vsts, ldro, vldro. Rests also on the model's own choices and readings: log 10. -/
def Obligations.VectorAccesses : Prop :=
  (∀ (s : State) (g : GReg) (vd : VReg) (sa : SReg) (mode : BitVec 3) (imm : BitVec 11), quiet s = true → readG (actor s) g = true →
    let block := blockElems (actor s) sa imm.toNat mode
    let strided := strideElems (actor s) sa imm.toNat mode
    let d := physV (actor s) vd.toNat
    (mode.toNat < 4 → vectorFits s block 32 = true → vectorClean s block = true →
      exec (.vld g vd 0 sa mode imm) s = .next (committed s (fun c => c.push 4 (.vec d (lanesMask (blockBytes mode / 4)) (BitVec.ofNat 4096 (leNat (operandBytesLocal s block)))))))
    ∧ (mode = 4 → vectorFits s block 4 = true → vectorClean s block = true →
      ∃ v : VWord, (∀ l, l < 128 → lane v l = leNat (operandBytesLocal s block)) ∧ exec (.vld g vd 0 sa mode imm) s = .next (committed s (fun c => c.push 4 (.vec d (lanesMask 128) v))))
    ∧ (mode.toNat < 3 → vectorFits s strided (strideBytes mode) = true → vectorClean s strided = true →
      exec (.vlds g vd 0 sa mode imm) s = .next (committed s (fun c => c.push 4 (.vec d (lanesMask 128) (BitVec.ofNat 4096 (leNat (operandBytesLocal s strided))))))))
  ∧ (∀ (s : State) (g : GReg) (vs : VReg) (sa : SReg) (mode : BitVec 3) (imm : BitVec 11), quiet s = true → readG (actor s) g = true →
    let block := blockElems (actor s) sa imm.toNat mode
    let strided := strideElems (actor s) sa imm.toNat mode
    let data (n : Nat) : List Byte := leBytes (readV (actor s) vs).toNat n
    (mode.toNat < 4 → vectorFits s block 32 = true → exec (.vst g vs 0 sa mode imm) s = .next (goesOn s (storedLocal s block (data (blockBytes mode))) id))
    ∧ (mode.toNat < 3 → vectorFits s strided (strideBytes mode) = true → exec (.vsts g vs 0 sa mode imm) s = .next (goesOn s (storedLocal s strided (data 512)) id)))
  ∧ (∀ (s u : State) (g : GReg) (vd : VReg) (sd sa : SReg) (h : HReg) (mode : BitVec 3) (imm : BitVec 11) (imm15 : BitVec 15), quiet s = true → readG (actor s) g = true → h ≠ 0 →
    let block := blockElems (actor s) sa imm.toNat mode
    let strided := strideElems (actor s) sa imm.toNat mode
    let d := physV (actor s) vd.toNat
    let data (n : Nat) : List Byte := leBytes (readV (actor s) vd).toNat n
    let goes (rs : List Remote) : Host.Outcome State Fault Refusal := .next (goesOn s (issuedAll u rs) id)
    let off := operandAt s sa imm15.toNat 4
    (mode.toNat ≤ 4 → Reaches s u 1 h.toNat 1 (blockAlign mode) 0x25 false block →
      exec (.vld g vd h sa mode imm) s = goes (vectorPieces s h.toNat block (fun n l => .load 2 d n l false (mode == 4) 0)))
    ∧ (mode.toNat ≤ 4 → Reaches s u 1 h.toNat 1 (blockAlign mode) 0x25 true block →
      exec (.vldro g vd h sa mode imm) s = goes (vectorPieces s h.toNat block (fun n l => .roLoad 2 d n l (mode == 4))))
    ∧ (mode.toNat < 4 → Reaches s u 1 h.toNat 2 32 0x25 false block →
      exec (.vst g vd h sa mode imm) s = goes (vectorPieces s h.toNat block (fun n l => .store (((data (blockBytes mode)).drop (4 * l)).take n))))
    ∧ (mode.toNat < 3 → Reaches s u 1 h.toNat 1 (strideBytes mode) 0x25 false strided →
      exec (.vlds g vd h sa mode imm) s = goes (vectorPieces s h.toNat strided (fun n l => .load 2 d n l false false 0)))
    ∧ (mode.toNat < 3 → Reaches s u 1 h.toNat 2 (strideBytes mode) 0x25 false strided →
      exec (.vsts g vd h sa mode imm) s = goes (vectorPieces s h.toNat strided (fun n l => .store (((data 512).drop (4 * l)).take n))))
    ∧ (Reaches s u 1 h.toNat 1 4 0x25 true [(off, 4)] →
      exec (.ldro g sd h sa imm15) s = .next (goesOn s (issued u (access s 1 h.toNat off 4 (.roLoad 0 sd.toNat 4 0 false))) id)))

/-- R222, R223: LDA and STL. Through h0 LDA reads at once, its value arriving under the scoreboard, and then acquires; STL stores at once after a release. Through another handle each issues its access. Scope 7 acts as SYS and sets WARN.FALLBACK. R224 to R227: AMO, ACAS and FADDA through h0 read the old value, write what their function gives (ACAS only when the old value is sd's), release before and acquire after when their scope is not CTX, and deliver the old value with latency 4 (FADDA only in its returning form). R224 to R227, R237: through another handle an atomic whose checks pass issues one access, which its home performs. Completes: lda, stl, amo, acas, fadda. Rests also on the model's own choices and readings: log 10, 33. -/
def Obligations.AcquireReleaseAndAtomics : Prop :=
  (∀ (s u : State) (g : GReg) (r sa : SReg) (h : HReg) (size : BitVec 2) (scope : BitVec 3), quiet s = true → readG (actor s) g = true → (actor s).storeFail = none →
    let n := 2 ^ size.toNat
    let off := operandAt s sa 0 0
    let sc := if scope.toNat = 7 then 6 else scope.toNat
    let warns (c : Ctx) : Ctx := c.warn false (scope == 7)
    let data := leBytes (readS (actor s) r).toNat n
    (localFits s off n n = true → localClean s off n = true →
      exec (.lda g r 0 sa size scope) s = .next (goesOn s (acquireAt (awaited s (begun s) r (BitVec.ofNat 64 (leNat (localBytes (begun s) (selCtx s) off n)))) (hereCore s) sc) warns))
    ∧ (h ≠ 0 → Reaches s u 1 h.toNat 1 n 0x25 false [(off, n)] →
      exec (.lda g r h sa size scope) s = .next (goesOn s (issued u (access s 1 h.toNat off n (.load 0 r.toNat n 0 false false (sc + 1)))) warns))
    ∧ (localFits s off n n = true → releaseReady (begun s) (actor s).uid sc (begun s).fresh = true →
      exec (.stl g r 0 sa size scope) s
        = .next (goesOn s (storeLocal (killTags (begun s) (partOfCore (begun s) (hereCore s)) (hereCore s) sc) (hereCore s) off (actor s).launch data) warns))
    ∧ (h ≠ 0 → Reaches s u 1 h.toNat 2 n 0x25 false [(off, n)] →
      exec (.stl g r h sa size scope) s = .next (goesOn s (issued u (access s 1 h.toNat off n (.stl data sc))) warns)))
  ∧ (∀ (s : State) (g : GReg) (sd sa : SReg) (fn : BitVec 4) (old : Bool) (scope : BitVec 3), quiet s = true → readG (actor s) g = true → (actor s).storeFail = none → fn.toNat ≤ 8 →
    let off := operandAt s sa 0 0
    let sc := if scope.toNat = 7 then 6 else scope.toNat
    let was (n : Nat) : W64 := BitVec.ofNat 64 (leNat (localBytes (begun s) (selCtx s) off n))
    let a := was 8
    let v := readS (actor s) sd
    let fits (n : Nat) : Prop := localFits s off n n = true ∧ localClean s off n = true ∧ (sc ≠ 0 → releaseReady (begun s) (actor s).uid sc (begun s).fresh = true)
    let writes (x : Option (List Byte)) : State := match x with
      | some d => acquired s (writeLocs (released s (begun s) sc) (actor s).launch (.scr (hereCore s) off) d) sc
      | none => acquired s (released s (begun s) sc) sc
    let new := [a + v, (if v.toInt < a.toInt then v else a), (if a.toInt < v.toInt then v else a), (if v.toNat < a.toNat then v else a), (if a.toNat < v.toNat then v else a),
      a &&& v, a ||| v, a ^^^ v, v].getD fn.toNat 0
    let sum := FFmt.arith .f32 .add .rne false (was 4).toNat (v.toNat % 2 ^ 32) 0
    (fits 8 → exec (.amo g sd 0 sa fn scope) s = .next (goesOn s (writes (some (leBytes new.toNat 8))) (fun c => (c.give 4 sd a).warn false (scope == 7))))
    ∧ (fits 8 → exec (.acas g sd 0 sa scope) s
        = .next (goesOn s (writes (if a = v then some (leBytes (readS (actor s) (sd + 1)).toNat 8) else none)) (fun c => (c.give 4 sd a).warn false (scope == 7))))
    ∧ (fits 4 → exec (.fadda g sd 0 sa old scope) s
        = .next (goesOn s (writes (some (leBytes sum.code 4))) (fun c => (if old then c.give 4 sd (was 4) else c).warn false (scope == 7)))))
  ∧ (∀ (s u : State) (g : GReg) (sd sa : SReg) (h : HReg) (fn : BitVec 4) (old : Bool) (scope : BitVec 3), quiet s = true → readG (actor s) g = true → (actor s).storeFail = none → h ≠ 0 → fn.toNat ≤ 8 →
    let off := operandAt s sa 0 0
    let sc := if scope.toNat = 7 then 6 else scope.toNat
    let reaches (n : Nat) : Prop := Reaches s u 1 h.toNat 3 n 0x26 false [(off, n)]
    let dest : Option Nat := if sd = 0 then none else some sd.toNat
    let goes (n : Nat) (k : RKind) : Host.Outcome State Fault Refusal := .next (goesOn s (issued u (access s 1 h.toNat off n k)) (fun c => c.warn false (scope == 7)))
    (reaches 8 → exec (.amo g sd h sa fn scope) s = goes 8 (.atomic fn.toNat (readS (actor s) sd) 0 dest sc))
    ∧ (reaches 8 → exec (.acas g sd h sa scope) s = goes 8 (.atomic 9 (readS (actor s) sd) (readS (actor s) (sd + 1)) dest sc))
    ∧ (reaches 4 → exec (.fadda g sd h sa old scope) s = goes 4 (.atomic 10 (readS (actor s) sd) 0 (if old then dest else none) sc)))

/-- R221, R228, R234: ROINV, once the context's loads and acquires have returned, empties its cluster's read-only cache; FENCE and DRAIN complete once what their scope covers has performed (at SYS the requests of the context's doorbell writes too), FENCE then releasing and acquiring; PREF may bring a line into L1 and does nothing else. R229 to R233: HBIND of a tensor whose record stands, and whose reference, where it makes one, finds it resident, binds it under the scoreboard; HINFO delivers an item of the handle, at once for a window and under the scoreboard for a tensor; HSETXV and TUSE send the record its new extra value or next-use distance, and trap on a handle that is no tensor's, as HBIND does on a record it may not bind; MSET and MGET write and read a parameter with latency 1. Completes: roinv, fence, drain, hbind, hinfo, hsetxv, mset, mget, tuse, pref. Rests also on the model's own choices and readings: log 13, 14, 34, 72, 77. -/
def Obligations.FencesHandlesAndParameters : Prop :=
  (∀ (s : State) (g : GReg) (scope : BitVec 3) (h : HReg) (sa : SReg) (imm : BitVec 15), quiet s = true → readG (actor s) g = true → (actor s).storeFail = none →
    let sc := if scope.toNat = 7 then 6 else scope.toNat
    let warns (c : Ctx) : Ctx := c.warn false (scope == 7)
    let part := partOfCore (begun s) (hereCore s)
    (loadsDone (begun s) (actor s).uid (begun s).fresh = true → acquiring (begun s) (actor s).uid = false →
      exec (.roinv g) s = .next (goesOn s { begun s with ro := tset (begun s).ro (hereCore s / 8) [], roBad := tset (begun s).roBad (hereCore s / 8) [] } id))
    ∧ (sc = 0 → exec (.fence g scope) s = .next (committed s warns))
    ∧ (sc ≠ 0 → releaseReady (begun s) (actor s).uid sc (begun s).fresh = true → (sc = 6 → doorsQuiet (begun s) part (actor s).uid = true) →
      exec (.fence g scope) s = .next (goesOn s (acquireAt (killTags (begun s) part (hereCore s) sc) (hereCore s) sc) warns))
    ∧ (drained (begun s) (actor s).uid sc (begun s).fresh = true → exec (.drain g scope) s = .next (committed s warns))
    ∧ exec (.pref g h sa imm) s = .next (goesOn s (match prefLoc (begun s) part (readH (actor s) h.toNat) (operandAt s sa imm.toNat 128) with
        | some l => if (begun s).sel.keep && !heldFill (begun s) [⟨l, 1⟩] then fillL1 (begun s) (hereCore s) l else begun s
        | none => begun s) id))
  ∧ (∀ (s u : State) (g : GReg) (h : HReg) (sd sa : SReg) (imm : BitVec 15) (m : MReg) (hk : Handle), quiet s = true → readG (actor s) g = true → (actor s).storeFail = none →
    let c := actor s
    let part := partOfCore (begun s) (hereCore s)
    let at1 (k : RKind) : Remote := mkRemote (begun s) (selCtx s) 1 h.toNat 0 [] k
    let bound := readH c h.toNat
    let item := hinfoValue (begun s) (selCtx s) bound (operandAt s sa imm.toNat 1)
    let xv : W16 := BitVec.ofNat 16 (readS c sa).toNat
    let reaches (l : List Access) : Prop := checkAccesses (begun s) (selCtx s) (l.map (fun a => (1, a))) = (u, .ok)
    let notTensor : State := trapped s (accTrap (if bound.kind = .unbound then 0x23 else 0x2B) 1 h.toNat bound 0)
    (bindTarget (begun s) part h.toNat (readS c sa) = .ok hk → reaches (if bindRefers (begun s) part hk then [⟨h.toNat, hk, [], 0⟩] else []) →
      exec (.hbind g h sa) s = .next (goesOn s (marked u { at1 (.hbind h.toNat) with hk := hk }) id))
    ∧ (∀ t, bindTarget (begun s) part h.toNat (readS c sa) = .error t → exec (.hbind g h sa) s = .next (trapped s t))
    ∧ (bound.kind ≠ .tensor → exec (.hsetxv g h sa) s = .next notTensor ∧ exec (.tuse g h sa imm) s = .next notTensor)
    ∧ exec (.hinfo g sd h sa imm) s = .next (if bound.kind = .tensor then goesOn s (awaited s (begun s) sd item) id else committed s (fun c => c.give 1 sd item))
    ∧ (bound.kind = .tensor → reaches (recordAccess c h.toNat) → exec (.hsetxv g h sa) s
        = .next (goesOn s (marked u (at1 (.hsetxv h.toNat (if xvRepresentable xv then xv else 0)))) (fun c => c.warn false (!xvRepresentable xv))))
    ∧ (bound.kind = .tensor → reaches (recordAccess c h.toNat) → exec (.tuse g h sa imm) s
        = .next (goesOn s (marked u (at1 (.tuse (BitVec.ofNat 32 (min (2 ^ 32 - 1) ((readS c sa).toNat + imm.toNat)))))) (fun c => c.warn (decide (2 ^ 32 ≤ (readS c sa).toNat + imm.toNat)) false)))
    ∧ exec (.mset g sa m) s = .next (committed s (fun c => c.push 1 (.param m.toNat (readS c sa))))
    ∧ exec (.mget g sd m) s = .next (committed s (fun c => c.give 1 sd (readM c m.toNat))))

/-- R286: on a ring in use AWAITF goes on with an acquire at DEV when write − read has reached its threshold and else waits; RELS and RPUSH send the ring's home the amount s[sa] + imm for its read or write counter. R178, R179: for a group the core is a member of, BARR releases at the group's scope and records the core's arrival; BARW goes on with an acquire when the generation has reached its target, and else waits; BART delivers that test to a guard pair under the scoreboard, with an acquire when it holds. R194: SPLIT of the code the cluster has, no request being under way, does nothing; of another code it registers its request and waits for the switch; after its switch it goes on. Completes: awaitf, rels, rpush, barr, barw, bart, split. Rests also on the model's own choices and readings: log 33, 39. -/
def Obligations.RingBarrierAndSplit : Prop :=
  (∀ (s : State) (g : GReg) (ring : BitVec 6) (sa : SReg) (imm th : BitVec 18), quiet s = true → readG (actor s) g = true → (actor s).storeFail = none →
    let i := hereCore s / 8 * 64 + ring.toNat
    let r := ringOf (begun s) i
    let amount : W32 := BitVec.ofNat 32 ((readS (actor s) sa).toNat + imm.toNat)
    let sends (push : Bool) : Host.Outcome State Fault Refusal := .next (goesOn s (marked (begun s) (mkRemote (begun s) (selCtx s) 1 0 0 [] (.ring i push amount))) id)
    r.cfg.getLsbD 63 = true →
    (th.toNat ≤ (r.write - r.read).toNat → exec (.awaitf g ring th) s = .next (goesOn s (acquireAt (begun s) (hereCore s) 4) id))
    ∧ ((r.write - r.read).toNat < th.toNat → exec (.awaitf g ring th) s = .next (waits s (.ring i th.toNat)))
    ∧ exec (.rels g ring sa imm) s = sends false ∧ exec (.rpush g ring sa imm) s = sends true)
  ∧ (∀ (s : State) (g : GReg) (gs : BitVec 2) (pair : BitVec 3) (sa : SReg) (n : Nat), quiet s = true → readG (actor s) g = true → (actor s).storeFail = none →
    barrierGroup (begun s) (selCtx s) gs = .ok n →
    let x := groupOf (begun s) n
    let sc := groupScope x
    let part := partOfCore (begun s) (hereCore s)
    let target := (readS (actor s) sa).toNat % 65536
    let there : Bool := decide ((x.gen - BitVec.ofNat 16 target).toNat < 2 ^ 15)
    let told (v : Bool) : State := if pair = 0 then begun s else marked (begun s) (mkRemote (begun s) (selCtx s) 1 0 0 [] (.value [.guard (2 * pair.toNat) v, .guard (2 * pair.toNat + 1) (!v)]))
    (x.arrived.getLsbD (hereCore s) = false → releaseReady (begun s) (actor s).uid sc (begun s).fresh = true →
      exec (.barr g gs) s = .next (goesOn s (arriveAt (killTags (begun s) part (hereCore s) sc) n (hereCore s)) id))
    ∧ (there = true → exec (.barw g gs sa) s = .next (goesOn s (acquireAt (begun s) (hereCore s) sc) id))
    ∧ (there = false → exec (.barw g gs sa) s = .next (waits s (.reach n target)))
    ∧ exec (.bart g gs pair sa) s = .next (goesOn s (if there then acquireAt (told true) (hereCore s) sc else told false) (fun c => c.warn false (pair == 0))))
  ∧ (∀ (s : State) (g : GReg) (code : BitVec 3), quiet s = true → readG (actor s) g = true →
    let cluster := hereCore s / 8
    let idle := (begun s).splits.any (fun r => r.cluster = cluster) = false
    ((actor s).splitDone = true → exec (.split g code) s = .next (committed s (fun c => { c with splitDone := false })))
    ∧ ((actor s).splitDone = false → code.toNat = splitOf (begun s) cluster → idle → exec (.split g code) s = .next (committed s id))
    ∧ ((actor s).splitDone = false → ¬(code.toNat = splitOf (begun s) cluster ∧ idle) → exec (.split g code) s = .next (waits s (.split code.toNat))))

/-! ### Vectors and predicates -/

/-- R126 to R128, R131, R132: each two-operand vector instruction and each broadcast form, under a predicate with an active lane, delivers its operation element by element in the active lanes of vd, with latency 3 for the products and 1 otherwise; a type the instruction does not take runs as i32 and sets WARN.FALLBACK. Completes: vadd, vsub, vmul, vfma, vmin, vmax, vand, vor, vxor, vshl, vshr, vsra, vmulh, vadds, vsubs, vmuls, vfmas, vmins, vmaxs, vands, vors, vxors, vshls, vshrs, vsras, vmulhs. -/
def Obligations.VectorArithmetic : Prop :=
  ∀ (s : State) (p : PReg) (vd va vb : VReg) (sb : SReg) (ty : BitVec 3) (i j : Instr) (op : VOp), quiet s = true → p ≠ 1 → readP (actor s) p ≠ 0 →
    (i, j, op) ∈ [(Instr.vadd p vd va vb ty, Instr.vadds p vd va sb ty, VOp.add), (.vsub p vd va vb ty, .vsubs p vd va sb ty, .sub), (.vmul p vd va vb ty, .vmuls p vd va sb ty, .mul),
      (.vfma p vd va vb ty, .vfmas p vd va sb ty, .fma), (.vmin p vd va vb ty, .vmins p vd va sb ty, .min), (.vmax p vd va vb ty, .vmaxs p vd va sb ty, .max),
      (.vand p vd va vb ty, .vands p vd va sb ty, .and), (.vor p vd va vb ty, .vors p vd va sb ty, .or), (.vxor p vd va vb ty, .vxors p vd va sb ty, .xor),
      (.vshl p vd va vb ty, .vshls p vd va sb ty, .shl), (.vshr p vd va vb ty, .vshrs p vd va sb ty, .shr), (.vsra p vd va vb ty, .vsras p vd va sb ty, .sra),
      (.vmulh p vd va vb ty, .vmulhs p vd va sb ty, .mulh)] →
    let t := effectiveTy op.types 0 ty
    let lat := if op = .mul ∨ op = .fma ∨ op = .mulh then 3 else 1
    let x (r : VReg) (l : Nat) : Nat := lane (readV (actor s) r) l
    let res (b l : Nat) : FRes := eachElem t.1 (op.elem t.1) (x va l) b (x vd l)
    GivesLanes s i lat vd p (fun l => res (x vb l) l) t.2 ∧ GivesLanes s j lat vd p (fun l => res ((readS (actor s) sb).toNat % 2 ^ 32) l) t.2

/-- R131: what the integer operations give on elements of w bits, by their values as signed or unsigned numbers: sums, differences and products modulo 2^w, the lesser and the greater, shifts by the amount modulo w, zeros entering, or copies of the top bit for the arithmetic one whatever the type's sign, and the high half of the product; on any type the bitwise operations work bit by bit. R120, R121, R145, R146: on integers an add reduction is the sum of the active elements modulo 2^w in each element position, and an add scan gives the sum over the lanes up to its own. -/
def Obligations.VectorIntegersAndSums : Prop :=
  (∀ (w : Nat) (sg : Bool) (a b d : Nat), (w = 8 ∨ w = 16 ∨ w = 32) → a < 2 ^ w → b < 2 ^ w → d < 2 ^ w →
    let value (n : Nat) : Int := if sg ∧ 2 ^ (w - 1) ≤ n then (n : Int) - 2 ^ w else n
    let code (op : VOp) : Nat := (op.onInt w sg a b d).code
    code .add = (a + b) % 2 ^ w ∧ code .sub = (a + 2 ^ w - b) % 2 ^ w ∧ code .mul = a * b % 2 ^ w ∧ code .fma = (d + a * b) % 2 ^ w
    ∧ value (code .min) = min (value a) (value b) ∧ value (code .max) = max (value a) (value b)
    ∧ code .shl = a * 2 ^ (b % w) % 2 ^ w ∧ code .shr = a / 2 ^ (b % w)
    ∧ code .sra < 2 ^ w ∧ (∀ i, i < w → (code .sra).testBit i = a.testBit (min (i + b % w) (w - 1)))
    ∧ (value (code .mulh)) = value a * value b / 2 ^ w)
  ∧ (∀ (f : NFmt) (a b d i : Nat),
    (VOp.and.elem f a b d).code.testBit i = (a.testBit i && b.testBit i) ∧ (VOp.or.elem f a b d).code.testBit i = (a.testBit i || b.testBit i) ∧ (VOp.xor.elem f a b d).code.testBit i = (a.testBit i ^^ b.testBit i))
  ∧ (∀ (w : Nat) (sg : Bool) (p : PWord) (v : VWord) (j l : Nat), (w = 8 ∨ w = 16 ∨ w = 32) → j < 32 / w → l < 128 →
    let f : NFmt := .int w sg
    let term (k : Nat) : Nat := if p.getLsbD k then elemOf w (lane v k) j else 0
    let trees := (List.range (32 / w)).map (fun j => treeLevels (RedFn.node .add f) (RedFn.leaves .add f p v j) 7)
    elemOf w (RedFn.reduce .add f p v).code j = ((List.range 128).map term).sum % 2 ^ w
    ∧ elemOf w (RedFn.scan .add f trees l).code j = ((List.range (l + 1)).map term).sum % 2 ^ w)

/-- R133, R135 to R139, R144: sign operations, moves, indices, permutations, rotations and clamps in the active lanes; VSEL picks a lane of va or vb for every lane of vd. R140 to R143, R147, R149: conversions, packing, rounding, the five functions and VSCAC in the active lanes, with latency 2 for VCVT, 6 for the functions, 3 for VSCAC and 1 otherwise; the narrowing VCVT writes fields of its format's width. Completes: vabs, vneg, vsel, vmov, vbcast, vidx, vcvt, vpack, vunpk, vperm, vrot, vexp2, vlog2, vrcp, vrsq, vtanh, vscac, vrnd, vclamp. Rests also on the model's own choices and readings: log 16, 17. -/
def Obligations.VectorMovesAndFunctions : Prop :=
  (∀ (s : State) (p : PReg) (vd va vb : VReg) (sb : SReg) (ty : BitVec 3) (imm : BitVec 14), quiet s = true → p ≠ 1 →
    let c := actor s
    let x (r : VReg) (l : Nat) : Nat := lane (readV c r) l
    let word := (readS c sb).toNat
    let ts := effectiveTy signTypes 0 ty
    let ta := effectiveTy allTypes 0 ty
    let ti := effectiveTy shiftTypes 0 ty
    GivesFields s (.vsel p vd va vb ty) 1 vd 32 (List.range 128) (fun l => if (readP c p).getLsbD l then x va l else x vb l) false false
    ∧ (readP c p ≠ 0 →
      GivesLanes s (.vabs p vd va ty) 1 vd p (fun l => eachElem ts.1 (fun a _ _ => signElem false ts.1 a) (x va l) 0 0) ts.2
      ∧ GivesLanes s (.vneg p vd va ty) 1 vd p (fun l => eachElem ts.1 (fun a _ _ => signElem true ts.1 a) (x va l) 0 0) ts.2
      ∧ GivesLanes s (.vclamp p vd va vb ty) 1 vd p (fun l => eachElem ta.1 (clampElem ta.1) (x va l) (x vb l) (x vd l)) ta.2
      ∧ GivesLanes s (.vmov p vd va ty) 1 vd p (fun l => plainRes (x va l)) false
      ∧ GivesLanes s (.vbcast p vd sb ty) 1 vd p (fun _ => plainRes (word % 2 ^ 32)) false
      ∧ GivesLanes s (.vidx p vd imm ty) 1 vd p (fun l => plainRes (indexLane ti.1.width imm.toInt l)) ti.2
      ∧ GivesLanes s (.vperm p vd va vb ty) 2 vd p (fun l => plainRes (x va (x vb l % 128))) false
      ∧ GivesLanes s (.vrot p vd va sb ty) 1 vd p (fun l => plainRes (x va ((l + word) % 128))) false))
  ∧ (∀ (s : State) (p : PReg) (vd va vb : VReg) (ty rm : BitVec 3) (fmt : BitVec 4) (half sat : Bool) (i : Instr) (fn : TFn), quiet s = true → p ≠ 1 → readP (actor s) p ≠ 0 → fmt.toNat ≤ 14 →
    let c := actor s
    let x (r : VReg) (l : Nat) : Nat := lane (readV c r) l
    let tr := effectiveTy rankTypes 2 ty
    let tp := effectiveTy packTypes 3 ty
    let tf := effectiveTy floatTypes 2 ty
    let ff : FFmt := match tf.1 with | .ieee f => f | _ => .f32
    let n := nfmtOf fmt.toNat
    let narrow (l : Nat) : FRes := convertCode tr.1 n .rne sat false (x va l)
    GivesLanes s (.vcvt p vd va fmt true sat ty) 2 vd p (fun l => convertCode n tr.1 .rne false false (narrowElem (readV c va) n.width l)) (tr.2 || sat)
    ∧ GivesFields s (.vcvt p vd va fmt false sat ty) 2 vd n.width (lanesOn s p) (fun l => (narrow l).code) ((lanesOn s p).any (fun l => (narrow l).sat)) tr.2
    ∧ GivesLanes s (.vpack p vd va vb ty) 1 vd p (fun l => packLane tp.1 (x va l) (x vb l)) tp.2
    ∧ GivesLanes s (.vunpk p vd va half ty) 1 vd p (fun l => unpackLane tp.1 half (x va l)) tp.2
    ∧ GivesLanes s (.vrnd p vd va rm ty) 1 vd p (fun l => eachElem tf.1 (fun a _ _ => integralElem ff (rmOf rm.toNat) a) (x va l) 0 0) (tf.2 || decide (4 ≤ rm.toNat))
    ∧ GivesLanes s (.vscac p vd va vb ty) 3 vd p (fun l => FFmt.f32.arith .fma .rne false (x va l) (x vb l) (x vd l)) (ty != 2)
    ∧ ((i, fn) ∈ [(Instr.vexp2 p vd va ty, TFn.exp2), (.vlog2 p vd va ty, .log2), (.vrcp p vd va ty, .rcp), (.vrsq p vd va ty, .rsq), (.vtanh p vd va ty, .tanh)] →
      GivesLanes s i 6 vd p (fun l => eachElem tf.1 (fun a _ _ => ff.fn fn a) (x va l) 0 0) tf.2))

/-- R134, R153: VCMP and VCMPS deliver to a predicate pair, in the active lanes, whether the condition holds and its complement; the predicate operations deliver theirs, a write of p0 or p1 being discarded. R126: a slot-C instruction under a predicate whose bits all read 0 does nothing, but for VSEL, VTOPK, VMAXI and PCOMMIT, which act on lanes whatever the predicate reads; and those too do nothing under p1. Completes: vcmp, vcmps, pand, por, pxor, pnot, pmov. -/
def Obligations.PredicatesAndNoLane : Prop :=
  (∀ (s : State) (p pd pa pb : PReg) (pair cc : BitVec 3) (va vb : VReg) (sb : SReg) (ty : BitVec 3) (i : Instr) (v : PWord), quiet s = true → p ≠ 1 → readP (actor s) p ≠ 0 →
    let c := actor s
    let t := effectiveTy allTypes 0 ty
    let on := readP c p
    let compares (i : Instr) (b : Nat → Nat) : Prop := ∃ hit : PWord,
      (∀ l, l < 128 → hit.getLsbD l = (on.getLsbD l && condLane cc t.1 (lane (readV c va) l) (b l)))
      ∧ exec i s = .next (committed s (fun x => (if pair = 0 then x
          else (x.push 1 (.pred (physP c (2 * pair.toNat)) on hit)).push 1 (.pred (physP c (2 * pair.toNat + 1)) on (~~~hit))).warn false (t.2 || pair == 0)))
    compares (.vcmp p pair cc va vb ty) (fun l => lane (readV c vb) l)
    ∧ compares (.vcmps p pair cc va sb ty) (fun _ => (readS c sb).toNat % 2 ^ 32)
    ∧ ((i, v) ∈ [(Instr.pand p pd pa pb, readP c pa &&& readP c pb), (.por p pd pa pb, readP c pa ||| readP c pb), (.pxor p pd pa pb, readP c pa ^^^ readP c pb),
        (.pnot p pd pa, ~~~(readP c pa)), (.pmov p pd pa, readP c pa)] →
      exec i s = .next (committed s (fun x => if pd.toNat ≤ 1 then x else x.push 1 (.pred (physP c pd.toNat) on v)))))
  ∧ (∀ (s : State) (p pd pa pb : PReg) (vd va vb : VReg) (sb sd : SReg) (pair cc ty fn rm : BitVec 3) (ln : BitVec 7) (fmt : BitVec 4) (imm : BitVec 14) (dst : BitVec 5) (part : BitVec 6) (up sat : Bool) (i : Instr), quiet s = true →
    (readP (actor s) p = 0 →
      i ∈ [Instr.vadd p vd va vb ty, .vsub p vd va vb ty, .vmul p vd va vb ty, .vfma p vd va vb ty, .vmin p vd va vb ty, .vmax p vd va vb ty, .vand p vd va vb ty, .vor p vd va vb ty, .vxor p vd va vb ty,
        .vshl p vd va vb ty, .vshr p vd va vb ty, .vsra p vd va vb ty, .vmulh p vd va vb ty, .vadds p vd va sb ty, .vsubs p vd va sb ty, .vmuls p vd va sb ty, .vfmas p vd va sb ty, .vmins p vd va sb ty,
        .vmaxs p vd va sb ty, .vands p vd va sb ty, .vors p vd va sb ty, .vxors p vd va sb ty, .vshls p vd va sb ty, .vshrs p vd va sb ty, .vsras p vd va sb ty, .vmulhs p vd va sb ty,
        .vabs p vd va ty, .vneg p vd va ty, .vclamp p vd va vb ty, .vmov p vd va ty, .vbcast p vd sb ty, .vidx p vd imm ty, .vperm p vd va vb ty, .vrot p vd va sb ty, .vcmp p pair cc va vb ty,
        .vcmps p pair cc va sb ty, .vcvt p vd va fmt up sat ty, .vpack p vd va vb ty, .vunpk p vd va up ty, .vrnd p vd va rm ty, .vscac p vd va vb ty, .vexp2 p vd va ty, .vlog2 p vd va ty, .vrcp p vd va ty,
        .vrsq p vd va ty, .vtanh p vd va ty, .vred p up dst va fn ty, .vscan p vd va fn ty, .pand p pd pa pb, .por p pd pa pb, .pxor p pd pa pb, .pnot p pd pa, .pmov p pd pa, .pcnt p sd pa, .vget p sd va ln, .vset p vd ln sb] →
      exec i s = .next (committed s id))
    ∧ (i ∈ [Instr.vsel 1 vd va vb ty, .vtopk 1 vd va vb ty, .vmaxi 1 vd va vb ty, .pcommit 1 vd part sb ty] → exec i s = .next (committed s id)))

/-- R145, R146, R154 to R156: VRED delivers the reduction of the active lanes to a scalar, sign-extended for i32, or to every active lane; VSCAN its prefixes; PCNT counts; VGET and VSET move one lane when its predicate bit reads 1. Completes: vred, vscan, pcnt, vget, vset. -/
def Obligations.ReductionsAndLaneMoves : Prop :=
  ∀ (s : State) (p pa : PReg) (vd va : VReg) (dst sd sb : BitVec 5) (fn ty : BitVec 3) (ln : BitVec 7), quiet s = true → p ≠ 1 → readP (actor s) p ≠ 0 →
    let c := actor s
    let t := effectiveTy allTypes 0 ty
    let f := redFnOf fn.toNat
    let r := f.reduce t.1 (readP c p) (readV c va)
    let trees := (List.range (32 / t.1.width)).map (fun j => treeLevels (f.node t.1) (f.leaves t.1 (readP c p) (readV c va) j) 7)
    let on := (readP c p).getLsbD ln.toNat
    exec (.vred p true dst va fn ty) s
        = .next (committed s (fun x => (x.give 4 dst (if t.1 = .int 32 true then BitVec.ofInt 64 (sextNat 32 r.code) else BitVec.ofNat 64 r.code)).warn r.sat t.2))
    ∧ GivesFields s (.vred p false dst va fn ty) 4 (dst.zeroExtend 6) 32 (lanesOn s p) (fun _ => r.code) r.sat t.2
    ∧ GivesLanes s (.vscan p vd va fn ty) 4 vd p (fun l => f.scan t.1 trees l) t.2
    ∧ exec (.pcnt p sd pa) s = .next (committed s (fun x => x.give 1 sd (BitVec.ofNat 64 ((List.range 128).countP (fun l => (readP c pa).getLsbD l && (readP c p).getLsbD l)))))
    ∧ exec (.vget p sd va ln) s = .next (committed s (fun x => if on then x.give 2 sd (BitVec.ofNat 64 (lane (readV c va) ln.toNat)) else x))
    ∧ (on = false → exec (.vset p vd ln sb) s = .next (committed s id))
    ∧ (on = true → GivesFields s (.vset p vd ln sb) 2 vd 32 [ln.toNat] (fun _ => (readS c sb).toNat % 2 ^ 32) false false)

/-- R148, R150 to R152: VTOPK fills vd with the payloads of the active lanes in rank order, then all ones; VMAXI puts the first-ranked lane's key and payload into lanes 0 and 1; PCOMMIT of a landed transfer delivers a part of it and commits the part, under whatever predicate but p1's (the model's choice, log 83), and with no transfer due delivers zeros (R265, R266, R362). Completes: pcommit, vtopk, vmaxi. Rests also on the model's own choices and readings: log 66, 83. -/
def Obligations.RankingAndCommit : Prop :=
  ∀ (s : State) (p : PReg) (vd va vb : VReg) (part : BitVec 6) (sb : SReg) (ty : BitVec 3) (e : PoolEntry) (n : Nat), quiet s = true → p ≠ 1 →
    let c := actor s
    let t := effectiveTy rankTypes 2 ty
    let k := coreOf (begun s) (hereCore s)
    let order := ranked t.1 (readV c va) (lanesOn s p)
    let xfer := (readS c sb).toNat % 2 ^ 16
    let cell (l : Nat) : Nat := l * 64 + part.toNat
    let taken : PoolEntry := { e with committed := e.committed ||| BitVec.ofNat 64 (2 ^ part.toNat) }
    GivesFields s (.vtopk p vd va vb ty) 8 vd 32 (List.range 128) (fun l => ((order.map (fun l => lane (readV c vb) l))[l]?).getD 0xFFFFFFFF) false (t.2 && !(lanesOn s p).isEmpty)
    ∧ GivesFields s (.vmaxi p vd va vb ty) 1 vd 32 [0, 1]
        (fun l => match order with | m :: _ => lane (readV c (if l = 0 then va else vb)) m | [] => if l = 0 then lastKey t.1 else 0xFFFFFFFF) false (t.2 && !(lanesOn s p).isEmpty)
    ∧ (landedEntry k.pool c.uid xfer = none → transferDue k c.uid xfer = false → GivesFields s (.pcommit p vd part sb ty) 2 vd 32 (lanesOn s p) (fun _ => 0) false false)
    ∧ (landedEntry k.pool c.uid xfer = some (n, e) → (lanesOn s p).any (fun l => e.bad.contains (cell l / 8)) = true →
      ∃ d, d / 4 = part.toNat / 4 ∧ exec (.pcommit p vd part sb ty) s = .next (trapped s ⟨0x4A, d, none, false⟩))
    ∧ (landedEntry k.pool c.uid xfer = some (n, e) → (lanesOn s p).any (fun l => e.bad.contains (cell l / 8)) = false →
      ∃ mask v : VWord, (∀ l, l < 128 → lane mask l = (if (lanesOn s p).contains l then 2 ^ 32 - 1 else 0) ∧ lane v l = (if (lanesOn s p).contains l then (tget 0 e.vals (cell l)).toNat else 0))
        ∧ exec (.pcommit p vd part sb ty) s = .next (goesOn s
            (setCore (begun s) (hereCore s) { k with pool := if taken.committed = BitVec.allOnes 64 then dropNth k.pool n else setNth k.pool n taken })
            (fun x => (x.push 2 (.vec (physV c vd.toNat) mask v)).warn ((lanesOn s p).any (fun l => tget false e.sat (cell l))) false)))

/-! ### Engine instructions -/

/-- R273, R274, R276, R282: an engine instruction whose token is not PEND, with room in its core's queue, issues: the operation with its bound inputs and captured parameters joins the queue (KJOIN the joins, needing no entry), and its token is PEND with the operation as its producer; then every operation whose end follows from it ends (a KJOIN of finished inputs, an operation with a faulted input). R273, R276: an engine instruction whose token is PEND waits for it, and one that needs a queue entry waits for one while 32 are taken. R299, R300: COLL of a group the core is a member of joins the queue and the instance that its core's count of that group names, and the count rises; the first member's opens the instance. Completes: mcall, mzero, kjoin, xcopy, xload, xstore, xgather, xscatter, xfill, tstream, coll, nmcall, nmred, nmired. Rests also on the model's own choices and readings: log 34. -/
def Obligations.EngineIssue : Prop :=
  (∀ (s : State) (g : GReg) (kd ka kb kc : KReg) (r : BitVec 7) (tile : BitVec 2) (x : BitVec 4) (n : BitVec 8) (i : Instr) (opc v : Nat), quiet s = true → readG (actor s) g = true → (readK (actor s) kd.toNat).st ≠ .pend →
    (i, opc, v) ∈ [(Instr.mcall g kd ka kb kc r, 0x01, r.toNat), (.mzero g kd ka kb kc tile, 0x02, tile.toNat), (.kjoin g kd ka kb kc, 0x03, 0),
      (.xcopy g kd ka kb kc x, 0x04, x.toNat), (.xload g kd ka kb kc x, 0x05, x.toNat), (.xstore g kd ka kb kc x, 0x06, x.toNat), (.xgather g kd ka kb kc x, 0x07, x.toNat),
      (.xscatter g kd ka kb kc x, 0x08, x.toNat), (.xfill g kd ka kb kc x, 0x09, x.toNat), (.tstream g kd ka kb kc x, 0x0D, x.toNat),
      (.nmcall g kd ka kb kc n, 0x0F, n.toNat), (.nmred g kd ka kb kc, 0x10, 0), (.nmired g kd ka kb kc, 0x11, 0)] →
    let join := opc == 3
    let t := queued (begun s) (selCtx s) (captureOp (begun s) (selCtx s) opc v kd ka kb kc) join
    (join = true ∨ (coreOf (begun s) (hereCore s)).queue.length < 32) → exec i s = .next (goesOn s (settle t (waitingOps t)) id))
  ∧ (∀ (s : State) (g : GReg) (kd ka kb kc : KReg) (r : BitVec 7) (tile : BitVec 2) (x : BitVec 4) (n : BitVec 8) (i : Instr), quiet s = true → readG (actor s) g = true → (actor s).storeFail = none →
    i ∈ [Instr.mcall g kd ka kb kc r, .mzero g kd ka kb kc tile, .xcopy g kd ka kb kc x, .xload g kd ka kb kc x, .xstore g kd ka kb kc x, .xgather g kd ka kb kc x,
      .xscatter g kd ka kb kc x, .xfill g kd ka kb kc x, .tstream g kd ka kb kc x, .nmcall g kd ka kb kc n, .nmred g kd ka kb kc, .nmired g kd ka kb kc] →
    ((readK (actor s) kd.toNat).st = .pend → exec i s = .next (waits s (.token kd.toNat)) ∧ exec (.kjoin g kd ka kb kc) s = .next (waits s (.token kd.toNat)))
    ∧ ((readK (actor s) kd.toNat).st ≠ .pend → 32 ≤ (coreOf (begun s) (hereCore s)).queue.length → exec i s = .next (waits s .engineQueue)))
  ∧ (∀ (s : State) (g : GReg) (kd ka kb kc : KReg) (op gs : BitVec 2) (n : Nat), quiet s = true → readG (actor s) g = true → (readK (actor s) kd.toNat).st ≠ .pend →
    (coreOf (begun s) (hereCore s)).queue.length < 32 → barrierGroup (begun s) (selCtx s) gs = .ok n →
    let u := begun s
    let o := captureOp u (selCtx s) 0x0E (op.toNat * 4 + gs.toNat) kd ka kb kc
    let count := tget 0 (groupOf u n).issued (hereCore s)
    let t := queued u (selCtx s) { o with groups := collPlace u n (hereCore s) } false
    let counted := setGroup t n { groupOf t n with issued := tset (groupOf t n).issued (hereCore s) (count + 1) }
    exec (.coll g kd ka kb kc op gs) s = .next (goesOn s (joinColl (settle t (waitingOps t)) (numbered u { o with groups := collPlace u n (hereCore s) })) id)
    ∧ (settle1 t = none → u.colls.find? (fun i => i.group = n && i.number = count) = none →
      exec (.coll g kd ka kb kc op gs) s = .next (goesOn s { counted with colls := u.colls ++ [⟨n, count, [numbered u { o with groups := collPlace u n (hereCore s) }], false, none, none, false⟩] } id)))

/-- R292, R293: TXPOSE of blocks inside the share, aligned to 32, delivers to the rows of its destination block the columns of its source block, element by element, with latency 16. R292, R294: TCONV delivers its 128 packed elements converted, with latency 8. R292, R295: TEXPAND delivers 192 positions, with latency 12: in each group of 24, position q holds the next stored element of the group, converted, when bit q of its mask is 1, and 0 otherwise or when the stored elements have run out. R292: under a guard that reads 1 an undefined variant of TXPOSE and an undefined conversion of TCONV trap with RESERVED_FIELD as the bundle issues; under a guard that reads 0 they do nothing. Completes: txpose, tconv, texpand. -/
def Obligations.Transforms : Prop :=
  (∀ (s : State) (g : GReg) (v : BitVec 5), quiet s = true → readG (actor s) g = true → v.toNat ≤ 2 →
    let c := actor s
    let e := txposeSize v
    let n := 32 / e
    let at' (m i : Nat) : Nat := wordOff (readM c m) + i * wordStride (readM c m)
    let fits (m : Nat) : Prop := bitsOf (readM c m).toNat 32 8 = 0 ∧ wordOff (readM c m) % 32 = 0 ∧ wordStride (readM c m) % 32 = 0 ∧ ∀ i, i < n → at' m i + 32 ≤ shareOf (begun s) (hereCore s)
    fits 1 → fits 2 → acquiring (begun s) c.uid = false → (∀ i, i < n → localClean s (at' 1 i) 32 = true) →
      ∃ rows : List (List Byte), rows.length = n ∧ (∀ i j k, i < n → j < n → k < e → (rows.getD i []).getD (j * e + k) 0 = (localBytes (begun s) (selCtx s) (at' 1 j) 32).getD (i * e + k) 0)
        ∧ exec (.txpose g v) s = .next (committed s (fun x => (List.range n).foldl (fun x i => x.push 16 (.bytes (at' 2 i) (rows.getD i []))) x)))
  ∧ (∀ (s : State) (g : GReg) (x : BitVec 5), quiet s = true → readG (actor s) g = true → x.toNat < 8 → convReserved (actor s) = false →
    let c := actor s
    let rm : BitVec 3 := x.truncate 3
    let wa := (nfmtOf (convFormats c).1).width
    let wb := (nfmtOf (convFormats c).2.1).width
    let a := wordOff (readM c 1)
    let b := wordOff (readM c 2)
    let share := shareOf (begun s) (hereCore s)
    let el (j : Nat) : FRes := convElem c rm (leNat (localBytes (begun s) (selCtx s) a (packedBytes wa 128)) / 2 ^ (wa * j) % 2 ^ wa)
    a + packedBytes wa 128 ≤ share → b + packedBytes wb 128 ≤ share → acquiring (begun s) c.uid = false → localClean s a (packedBytes wa 128) = true →
      ∃ data : List Byte, data.length = packedBytes wb 128 ∧ (∀ j, j < 128 → leNat data / 2 ^ (wb * j) % 2 ^ wb = (el j).code % 2 ^ wb)
        ∧ exec (.tconv g x) s = .next (committed s (fun x => (x.push 8 (.bytes b data)).warn ((List.range 128).any (fun j => (el j).sat)) (convFallback c rm))))
  ∧ (∀ (s : State) (g : GReg) (n : BitVec 2) (rm : BitVec 3), quiet s = true → readG (actor s) g = true → convReserved (actor s) = false → bitsOf (readM (actor s) 4).toNat 32 32 = 0 →
    let c := actor s
    let wa := (nfmtOf (convFormats c).1).width
    let wb := (nfmtOf (convFormats c).2.1).width
    let k := texpandN n
    let a := wordOff (readM c 1)
    let b := wordOff (readM c 2)
    let m := wordOff (readM c 4)
    let share := shareOf (begun s) (hereCore s)
    let stored := leNat (localBytes (begun s) (selCtx s) a (packedBytes wa (8 * k)))
    let mask (gr : Nat) : Nat := leNat (localBytes (begun s) (selCtx s) (m + 4 * gr) 3)
    let rank (p : Nat) : Nat := ((List.range (p % 24)).filter (fun q => (mask (p / 24)).testBit q)).length
    let el (p : Nat) : FRes := convElem c rm (stored / 2 ^ (wa * (k * (p / 24) + rank p)) % 2 ^ wa)
    let on (p : Nat) : Bool := (mask (p / 24)).testBit (p % 24) && decide (rank p < k)
    a + packedBytes wa (8 * k) ≤ share → m + 32 ≤ share → b + packedBytes wb 192 ≤ share → acquiring (begun s) c.uid = false → localClean s a (packedBytes wa (8 * k)) = true → localClean s m 32 = true →
      ∃ data : List Byte, data.length = packedBytes wb 192 ∧ (∀ p, p < 192 → leNat data / 2 ^ (wb * p) % 2 ^ wb = (if on p then (el p).code % 2 ^ wb else 0))
        ∧ exec (.texpand g n rm) s = .next (committed s (fun x => (x.push 12 (.bytes b data)).warn ((List.range 192).any (fun p => on p && (el p).sat)) (convFallback c rm))))
  ∧ (∀ (s : State) (g : GReg) (v x : BitVec 5), quiet s = true →
    (readG (actor s) g = false → exec (.txpose g v) s = .next (committed s id) ∧ exec (.tconv g x) s = .next (committed s id))
    ∧ (readG (actor s) g = true → (actor s).storeFail = none → (3 ≤ v.toNat → exec (.txpose g v) s = .next (trapped s (trapOf 0x04 0x14003))) ∧ (8 ≤ x.toNat → exec (.tconv g x) s = .next (trapped s (trapOf 0x04 0x16003)))))

/-! ### Ompen -/

/-- R316, R314, R312: the register instructions of Ompen: each writes its result to qd, q0 staying zero, moves the PC on by one modulo 2^14, and changes nothing else; NOP writes nothing. Completes: ompenAdd, ompenSub, ompenAnd, ompenOr, ompenXor, ompenShl, ompenShr, ompenSra, ompenMul, ompenMin, ompenMax, ompenMinn, ompenMaxn, ompenAddi, ompenAndi, ompenShli, ompenShri, ompenSrai, ompenLui, ompenNop. -/
def Obligations.OmpenScalarResults : Prop :=
  ∀ (s : State) (k : Kernel) (d a b : QReg) (imm : BitVec 18) (imm22 : BitVec 22) (n : BitVec 6), runsKernel s k →
    let x := readQ k a
    let y := readQ k b
    let c := y.toNat % 64
    let gives (v : W64) : Host.Outcome State Fault Refusal := kernelGoes s s (if d = 0 then k else { k with q := tset k.q d.toNat v })
    exec (.ompenAdd d a b) s = gives (BitVec.ofNat 64 (x.toNat + y.toNat))
    ∧ exec (.ompenSub d a b) s = gives (BitVec.ofInt 64 ((x.toNat : Int) - y.toNat))
    ∧ exec (.ompenAnd d a b) s = gives (x &&& y) ∧ exec (.ompenOr d a b) s = gives (x ||| y) ∧ exec (.ompenXor d a b) s = gives (x ^^^ y)
    ∧ exec (.ompenShl d a b) s = gives (BitVec.ofNat 64 (x.toNat * 2 ^ c))
    ∧ exec (.ompenShr d a b) s = gives (BitVec.ofNat 64 (x.toNat / 2 ^ c))
    ∧ exec (.ompenSra d a b) s = gives (BitVec.ofInt 64 (x.toInt / 2 ^ c))
    ∧ exec (.ompenMul d a b) s = gives (BitVec.ofNat 64 (x.toNat * y.toNat))
    ∧ exec (.ompenMin d a b) s = gives (if x.toInt ≤ y.toInt then x else y) ∧ exec (.ompenMax d a b) s = gives (if x.toInt ≤ y.toInt then y else x)
    ∧ exec (.ompenMinn d a b) s = gives (if x.toNat ≤ y.toNat then x else y) ∧ exec (.ompenMaxn d a b) s = gives (if x.toNat ≤ y.toNat then y else x)
    ∧ exec (.ompenAddi d a imm) s = gives (BitVec.ofInt 64 (x.toInt + imm.toInt))
    ∧ exec (.ompenAndi d a imm) s = gives (x &&& BitVec.ofInt 64 imm.toInt)
    ∧ exec (.ompenShli d a n) s = gives (BitVec.ofNat 64 (x.toNat * 2 ^ n.toNat))
    ∧ exec (.ompenShri d a n) s = gives (BitVec.ofNat 64 (x.toNat / 2 ^ n.toNat))
    ∧ exec (.ompenSrai d a n) s = gives (BitVec.ofInt 64 (x.toInt / 2 ^ n.toNat))
    ∧ exec (.ompenLui d imm22) s = gives (BitVec.ofInt 64 (imm22.toInt * 2 ^ 18))
    ∧ exec .ompenNop s = kernelGoes s s k

/-- R317, R318: the branches of Ompen and RDS. A branch whose condition holds adds its displacement to the PC modulo 2^14, another goes to the next word; LOOP counts its register down and branches while it is not 0, and LOOP naming q0 and an unassigned RDS code end the kernel with RESERVED_FIELD. R309, R311, R315, R320: FENCE goes on once the kernel's stores are performed; YIELD goes on when no kernel of its class or above waits, and else leaves its core; DONE ends the kernel with the low 16 bits of q15 as its outcome once its stores are performed; a word of an unassigned opcode ends it with ILLEGAL_OPCODE. Completes: beq, bne, blt, bge, bltn, bgen, jmp, loop, rds, ompenFence, yield, done, ompenIllegalOpcode. Rests also on the model's own choices and readings: log 26. -/
def Obligations.OmpenControl : Prop :=
  (∀ (s : State) (k : Kernel) (d a b : QReg) (disp : BitVec 15) (far : BitVec 26) (code : BitVec 4), runsKernel s k →
    let at' (k : Kernel) (x : Int) : Host.Outcome State Fault Refusal := .next (setRun s s.sel.core (some { k with pc := BitVec.ofInt 14 ((k.pc.toNat : Int) + x) }))
    let goes (i : Instr) (cc : BitVec 3) : Prop := exec i s = (if numericCond cc (readQ k a) (readQ k b) then at' k disp.toInt else at' k 1)
    let dec := readQ k a - 1
    goes (.beq a b disp) 0 ∧ goes (.bne a b disp) 1 ∧ goes (.blt a b disp) 2 ∧ goes (.bge a b disp) 3 ∧ goes (.bltn a b disp) 4 ∧ goes (.bgen a b disp) 5
    ∧ exec (.jmp far) s = at' k far.toInt
    ∧ (a ≠ 0 → exec (.loop a disp) s = at' { k with q := tset k.q a.toNat dec } (if dec = 0 then 1 else disp.toInt))
    ∧ exec (.loop 0 disp) s = kernelEnds s k (programFault s k 0x04 none 0)
    ∧ (code.toNat < 4 → exec (.rds d code) s = at' (writeQ k d (BitVec.ofNat 64 ([s.sel.core, cyclesRun s k, k.entry, k.cls].getD code.toNat 0))) 1)
    ∧ (4 ≤ code.toNat → exec (.rds d code) s = kernelEnds s k (programFault s k 0x04 none 0)))
  ∧ (∀ (s : State) (k : Kernel), runsKernel s k →
    let i := s.sel.core
    (pendingStores s k = false → exec .ompenFence s = kernelGoes s s k ∧ exec .done s = .next (endKernel s i k none ((readQ k 15).toNat % 65536)))
    ∧ (pendingStores s k = true → exec .ompenFence s = .next s ∧ exec .done s = .next s)
    ∧ (classWaits s i k.cls true = false → exec .yield s = kernelGoes s s k)
    ∧ (classWaits s i k.cls true = true → pendingStores s k = false → exec .yield s = .next (saveKernel s i k.step none))
    ∧ (decodeOmpen (tget 0 (lakeOf s i).istore k.pc.toNat).toNat = .error .illegalOpcode → exec .ompenIllegalOpcode s = kernelEnds s k (programFault s k 0x01 none 0)))

/-- R319, R370: local loads and stores of 1, 2, 4, 8 and 64 bytes at an aligned offset inside the 512 KiB of local SRAM: a load zero-extends its bytes into its register, a store puts the low bytes of its register there and leaves every other byte of local SRAM as it was. A misaligned offset and one beyond the SRAM end the kernel, and so does a load of a poisoned byte (R362, R370); a store of a whole poisoned sector clears its poison. R319, R320: loads and stores through an extent whose checks and translation pass: a load delivers the bytes at their homes after a snoop-flush; a store is issued and performs at its home later; FLAGST is issued as a release. Completes: ld, st, ldx, stx, wld, wst, wldx, wstx, flagst. Rests also on the model's own choices and readings: log 25, 26, 66. -/
def Obligations.OmpenAccesses : Prop :=
  (∀ (s : State) (k : Kernel) (d a : QReg) (size : BitVec 2) (imm : BitVec 13), runsKernel s k →
    let off (n : Nat) : Nat := ((readQ k a).toNat + imm.toNat * n) % 2 ^ 64
    let n := 2 ^ size.toNat
    let stores (i : Instr) (n : Nat) (data : List Byte) : Prop := ∃ k' : Kernel, exec i s = kernelGoes s s k' ∧ k' = { k with sram := k'.sram, bad := k'.bad }
      ∧ (∀ m, m ∈ k'.bad ↔ m ∈ k.bad ∧ ¬(off n ≤ 32 * m ∧ 32 * m + 32 ≤ off n + n))
      ∧ ∀ x, sramByte k' x = (if off n ≤ x ∧ x < off n + n then data.getD (x - off n) 0 else sramByte k x)
    let stops (i : Instr) (n : Nat) : Prop :=
      (off n % n ≠ 0 → exec i s = kernelEnds s k (programFault s k 0x25 (some 15) (off n)))
      ∧ (off n % n = 0 → 524288 < off n + n → exec i s = kernelEnds s k (programFault s k 0x24 (some 15) (off n)))
    let clean (n : Nat) : Prop := ∀ x, off n ≤ x → x < off n + n → x / 32 ∉ k.bad
    let spoiled (i : Instr) (n : Nat) : Prop := ∀ x, x < n → (off n + x) / 32 ∈ k.bad → (∀ y, y < x → (off n + y) / 32 ∉ k.bad) → exec i s = kernelEnds s k (programFault s k 0x4D (some 15) (off n + x))
    (sramFits (off n) n n = true → (clean n → exec (.ld d a size imm) s = kernelGoes s s (writeQ k d (BitVec.ofNat 64 (leNat (sramBytes k (off n) n))))) ∧ spoiled (.ld d a size imm) n ∧ stores (.st d a size imm) n (leBytes (readQ k d).toNat n))
    ∧ (sramFits (off 64) 64 64 = true → (clean 64 → exec (.wld d a imm) s = kernelGoes s s (writeW k d (BitVec.ofNat 512 (leNat (sramBytes k (off 64) 64))))) ∧ spoiled (.wld d a imm) 64 ∧ stores (.wst d a imm) 64 (leBytes (readW k d).toNat 64))
    ∧ stops (.ld d a size imm) n ∧ stops (.st d a size imm) n ∧ stops (.wld d a imm) 64 ∧ stops (.wst d a imm) 64)
  ∧ (∀ (s u : State) (k : Kernel) (d a : QReg) (e : EReg) (size : BitVec 2) (imm : BitVec 13) (segs : List Seg), runsKernel s k →
    let off (n : Nat) : Nat := ((readQ k a).toNat + imm.toNat * n) % 2 ^ 64
    let n := 2 ^ size.toNat
    let x := tget Extent.unbound k.e e.toNat
    let here := s.sel.core
    let v := snoopFlush u segs
    (ExtentReaches s u k e (off n) n 1 segs → homeReadable u k segs = true → exec (.ldx d a e size imm) s = kernelGoes s v (writeQ k d (BitVec.ofNat 64 (leNat (readSegs v 0 segs)))))
    ∧ (ExtentReaches s u k e (off 64) 64 1 segs → homeReadable u k segs = true → exec (.wldx d a e imm) s = kernelGoes s v (writeW k d (BitVec.ofNat 512 (leNat (readSegs v 0 segs)))))
    ∧ (ExtentReaches s u k e (off n) n 2 segs → exec (.stx d a e size imm) s = kernelGoes s (lakeIssue u here k x.handle x.tid (off n) segs (leBytes (readQ k d).toNat n) false) k)
    ∧ (ExtentReaches s u k e (off 64) 64 2 segs → exec (.wstx d a e imm) s = kernelGoes s (lakeStore u here k x.handle x.tid (off 64) segs (leBytes (readW k d).toNat 64)) k)
    ∧ (ExtentReaches s u k e (readQ k a).toNat 4 2 segs → exec (.flagst d a e) s = kernelGoes s (lakeIssue u here k x.handle x.tid (readQ k a).toNat segs (leBytes (readQ k d).toNat 4) true) k))

/-- R322 to R324: the Ompen vector instructions write the lanes their mask names and keep the others; WCMP writes mask bits, WRED and WGET a scalar. A reserved type, condition, conversion, function or mask register ends the kernel with RESERVED_FIELD. R326 to R329: the selection and sector instructions on ranges that are aligned, inside local SRAM, free of poison and apart: TOPK writes the indices of the first m keys in rank order, equal keys by lower index; SECTCMP writes the image of a block and its chunk count, or the block raw and 16; SECTEXP of an image that carries the stack's marker writes the sectors asked for, and of one that does not ends the kernel with DECODE_CHUNK_FAILED; IRED writes the row of its bag. R329: IRED of a bag whose ranges are aligned, inside their memories and apart, and whose rows are all readable, writes the f32 row of the bag: shown for a bag of one row only, the weight's NaN surviving where weight and row are both NaN (the model's choice, log 71). Completes: wfma, wadd, wmin, wmax, wcvt, wbcast, wget, wcmp, wred, topk, sectexp, sectcmp, ired. Rests also on the model's own choices and readings: log 18, 26, 71. -/
def Obligations.OmpenVectorsAndSectors : Prop :=
  (∀ (s : State) (k : Kernel) (d a b : QReg) (z : ZReg) (ty cc : BitVec 3) (fn : BitVec 4) (f : NFmt), runsKernel s k →
    let mask := readZ k z
    let x (r : QReg) (j : Nat) : Nat := oLane (readW k r) j
    let lanes (i : Instr) (v : Nat → Nat) : Prop := ∃ w : OWord, exec i s = kernelGoes s s (writeW k d w) ∧ ∀ j, j < 16 → oLane w j = (if mask.getLsbD j then v j % 2 ^ 32 else x d j)
    let op (o : VOp) (j : Nat) : Nat := (o.elem f (x a j) (x b j) (x d j)).code
    let reserved (i : Instr) : Prop := exec i s = kernelEnds s k (programFault s k 0x04 none 0)
    (tyOmpen ty = some f → lanes (.wfma d a b z ty) (op .fma) ∧ lanes (.wadd d a b z ty) (op .add) ∧ lanes (.wmin d a b z ty) (op .min) ∧ lanes (.wmax d a b z ty) (op .max))
    ∧ (fn.toNat < 4 → lanes (.wcvt d a z fn) (fun j => convOmpen fn.toNat (x a j))) ∧ (4 ≤ fn.toNat → reserved (.wcvt d a z fn))
    ∧ (d = 0 ∨ 4 ≤ d.toNat ∨ 6 ≤ cc.toNat → reserved (.wcmp d a b z cc ty)) ∧ (3 ≤ fn.toNat → reserved (.wred d a b z fn ty))
    ∧ lanes (.wbcast d a z) (fun _ => (readQ k a).toNat)
    ∧ exec (.wget d a b) s = kernelGoes s s (writeQ k d (BitVec.ofNat 64 (x a b.toNat)))
    ∧ (tyOmpen ty = some f → 0 < d.toNat → d.toNat < 4 → cc.toNat < 6 → ∃ v : W16, exec (.wcmp d a b z cc ty) s = kernelGoes s s { k with z := tset k.z d.toNat v }
        ∧ ∀ j, j < 16 → v.getLsbD j = (if mask.getLsbD j then condOmpen cc.toNat (orderOmpen f (x a j) (x b j)) else (tget 0 k.z d.toNat).getLsbD j))
    ∧ (tyOmpen ty = some f → fn.toNat < 3 → ∃ v : Nat, v < 2 ^ 32 ∧ exec (.wred d a b z fn ty) s = kernelGoes s s (writeQ k d (if ty = 0 then BitVec.ofInt 64 (sextNat 32 v) else BitVec.ofNat 64 v))
        ∧ (fn = 0 → ty.toNat < 2 → v = ((List.range 16).map (fun j => if mask.getLsbD j then x a j else 0)).sum % 2 ^ 32))
    ∧ (tyOmpen ty = none → reserved (.wfma d a b z ty) ∧ reserved (.wadd d a b z ty) ∧ reserved (.wmin d a b z ty) ∧ reserved (.wmax d a b z ty) ∧ reserved (.wcmp d a b z cc ty) ∧ reserved (.wred d a b z fn ty)))
  ∧ (∀ (s : State) (k : Kernel) (d a b : QReg) (ty : BitVec 3) (f : NFmt), runsKernel s k → k.bad = [] →
    let src := (readQ k a).toNat
    let dst := (readQ k d).toNat
    let apart (m n : Nat) : Prop := src + m ≤ dst ∨ dst + n ≤ src
    let n := (readQ k b).toNat % 2 ^ 32
    let m := (readQ k b).toNat / 2 ^ 32
    let key (i : Nat) : Int := rankKey f (leNat (sramBytes k (src + 4 * i) 4))
    let block := sramBytes k src 512
    let t := parseTail (sramBytes k src 32)
    let payload := sramBytes k (src + 32) (32 * t.chunks)
    let sector (j : Nat) : List Byte := decodeSector (codeOf t.codes j) ((payload.drop (payloadStart t.codes j)).take (codeLength (codeOf t.codes j)))
    let on := (List.range 16).filter (fun j => (readQ k b).getLsbD j)
    (tyOmpen ty = some f → 0 < n → n ≤ 131072 → 0 < m → m ≤ 65536 → sramFits src (4 * n) 4 = true → sramFits dst (4 * m) 4 = true → apart (4 * n) (4 * m) →
      ∃ order : List Nat, order.Perm (List.range n) ∧ order.Pairwise (fun i j => key j < key i ∨ (key i = key j ∧ i < j))
        ∧ exec (.topk d a b ty) s = kernelGoes s s (sramStore k dst ((List.range m).flatMap (fun j => leBytes (order.getD j 0xFFFFFFFF) 4))))
    ∧ (∀ codes data, encodeBlock block = some (codes, data) → sramFits src 512 32 = true → sramFits dst (32 + 32 * chunkCount data) 32 = true → apart 512 (32 + 32 * chunkCount data) →
      exec (.sectcmp d a b) s = kernelGoes s s (writeQ (sramStore k dst (tailBytes codes (chunkCount data) 0 0 [] (marker s (s.sel.core / 8)) ++ data ++ List.replicate (32 * chunkCount data - data.length) 0)) b (BitVec.ofNat 64 (chunkCount data))))
    ∧ (encodeBlock block = none → sramFits src 512 32 = true → sramFits dst 512 32 = true → apart 512 512 → exec (.sectcmp d a b) s = kernelGoes s s (writeQ (sramStore k dst block) b 16))
    ∧ (payloadStart t.codes 16 ≤ 32 * t.chunks → t.chunks ≤ 15 → sramFits src (32 + 32 * t.chunks) 32 = true → (∀ j, j ∈ on → sramFits (dst + 32 * j) 32 1 = true) → apart (32 + 32 * t.chunks) 512 →
      exec (.sectexp d a b) s = if t.mark = marker s (s.sel.core / 8) then kernelGoes s s (on.foldl (fun k j => sramStore k (dst + 32 * j) (sector j)) k) else kernelEnds s k (programFault s k 0x44 (some 15) src)))
  ∧ (∀ (s u : State) (k : Kernel) (d a b : QReg) (e : EReg) (segs : List Seg), runsKernel s k → k.bad = [] → k.reads = [] → b.toNat ≤ 13 →
    let src := (readQ k a).toNat
    let dst := (readQ k d).toNat
    let n := (readQ k b).toNat % 2 ^ 32
    let bf16 := (readQ k b).toNat / 2 ^ 32 = 1
    let size := if bf16 then 2 else 4
    let hd := leNat (sramBytes k src 4)
    let len := 4 + 4 * (if hd = 2 ^ 16 + 1 then 2 else 1)
    let row := leNat (sramBytes k (src + 4) 4)
    let off := ((readQ k (b + 1)).toNat + row * (readQ k (b + 2)).toNat) % 2 ^ 64
    let x := tget Extent.unbound k.e e.toNat
    let v := snoopFlush u segs
    let weight := if hd = 2 ^ 16 + 1 then leNat (sramBytes k (src + 8) 4) else 0x3F800000
    (readQ k b).toNat / 2 ^ 32 ≤ 1 → 0 < n → n ≤ 4096 → hd = 1 ∨ hd = 2 ^ 16 + 1 → sramFits src len 4 = true → sramFits dst (4 * n) 1 = true → src + len ≤ dst ∨ dst + 4 * n ≤ src →
      x.valid = true → off % size = 0 → off + n * size ≤ x.extent → lakePlace s s.sel.core k e.toNat x.handle x.tid x.vbase off (n * size) 1 = (u, .ok segs) → homeReadable u k segs = true →
      exec (.ired d a b e) s = kernelGoes s v (sramStore k dst ((List.range n).flatMap (fun j =>
        leBytes (FFmt.f32.arith .fma .rne false weight ((bagCodes bf16 (readSegs v 0 segs) n).getD j 0) 0x80000000).code 4))))

/-! ### The Wellhead, bundles, the matrix array -/

/-- R423: what the six custom instructions deliver on operands that pass their checks: RNGF the address of the oldest entry of a ring, which it takes, or 0 for an empty one; BFXT a field of bits; SGWAIT the word it waited for; DISPX 0 when its record is queued and 1 when its number is not new; WALOG and WACOMMIT the number of the log record they add, R424: whose 16-byte header and entries go into the die's log at its end. R422, R423, R425: a custom instruction whose check fails takes an exception with mcause 24 and its cause and detail in mtval (shown of BFXT and of an SGWAIT whose limit has passed); a wait keeps what its word held as the limit passed; 100 ms without progress while work is pending, and WELLHEAD_RESTART, restart the die's processors at the firmware's entry, with no transaction open, where each entry of the log names a byte that they can reach: the operators whose state was lost fail with FIRMWARE_RESTART, and the records that were being written are written again. The exception's entry is the model's (log: machine-mode entry). Completes: rngf, bfxt, sgwait, dispx, walog, wacommit, sgwaitLimitExpiry, hangDetectorExpiry, wellheadRestart. Rests also on the model's own choices and readings: log 20, 21, 22. -/
def Obligations.Wellhead : Prop :=
  (∀ (s : State) (d s1 s2 : XReg),
    let die := s.sel.die
    let cp := s.sel.num
    let w := wellOf s die cp
    let a := (readX w s1).toNat
    let b := (readX w s2).toNat
    let goes (u : State) (v : W64) : Host.Outcome State Fault Refusal := .next (setWell u die cp { writeX (wellOf u die cp) d v with pc := (wellOf u die cp).pc + 4, waitSince := none })
    let word (o n : Nat) : Nat := leNat (wellBytes s die (a + o) n)
    let x := wellDie s die
    let txn := b / 2 ^ 32
    let len := b % 2 ^ 16
    let placed (q : Nat) (t : TaskRec) : State := modOp (pushQueue s q { t with op := s.sel.idx }) s.sel.idx (fun o => { o with live := o.live + 1 })
    let ours := tfind x.openTxns (a % 2 ^ 32)
    let recorded (u : State) (txn kind : Nat) (entries : List Byte) : State :=
      let y := wellDie u die
      setWellDie (logStore u die y.tail (leBytes y.lsn 8 ++ leBytes txn 4 ++ leBytes entries.length 2 ++ [BitVec.ofNat 8 kind, BitVec.ofNat 8 cp] ++ entries)) die
        { y with tail := y.tail + 16 + entries.length, lsn := y.lsn + 1 }
    (s2 = 0 → a % 32 = 0 → wellHas a 32 = true → word 8 1 ≤ 16 → 3 ≤ word 9 1 → word 9 1 ≤ 7 → word 10 6 = 0 → (word 24 8 + 2 ^ 64 - word 16 8) % 2 ^ 64 ≤ 2 ^ word 8 1 →
      exec (.rngf d s1 s2) s = (if word 16 8 = word 24 8 then goes s 0
        else goes (wellStore s die (a + 16) (leBytes (word 16 8 + 1) 8)) (BitVec.ofNat 64 (word 0 8 + word 16 8 % 2 ^ word 8 1 * 2 ^ word 9 1))))
    ∧ (b < 2 ^ 12 → b % 64 + b / 64 + 1 ≤ 64 → exec (.bfxt d s1 s2) s = goes s (BitVec.ofNat 64 (a / 2 ^ (b % 64) % 2 ^ (b / 64 + 1))))
    ∧ (a % 8 = 0 → wellHas a 8 = true →
      let reached : Prop := (word 0 8 + 2 ^ 32 - b % 2 ^ 32) % 2 ^ 32 < 2 ^ 31
      let limit := b / 2 ^ 32
      (w.waitSince.bind SgWait.met = some true ∨ (w.waitSince.bind SgWait.met = none ∧ reached) → exec (.sgwait d s1 s2) s = goes (setWell s die cp { w with lastSignal := s.cycle }) (BitVec.ofNat 64 (word 0 8)))
      ∧ (w.waitSince.bind SgWait.met = none → ¬reached → exec (.sgwait d s1 s2) s
          = .next (setWell s die cp { w with waitSince := some (w.waitSince.getD ⟨a, b % 2 ^ 32, if limit = 0 then 0 else s.cycle + 940 * limit, none⟩) }))
      ∧ (w.waitSince.bind SgWait.met = some false → exec (.sgwait d s1 s2) s = .next (wellException s die cp 24 (0x78 + 256))))
    ∧ (∀ t o, a % 32 = 0 → b / 2 ^ 6 % 2 ^ 26 = 0 → wellHas a 32 = true → parseTask (wellBytes s die a 32) = (t, none) → t.joff % 64 = 0 → opOf s s.sel.idx = some o →
      let q := b / 16 % 4 * 16 + b % 16
      queueOwned (partOf s o.part) q = true →
        (b / 2 ^ 32 ≤ (tget 0 s.dispatched q).toNat → exec (.dispx d s1 s2) s = goes s 1)
        ∧ (b / 2 ^ 32 = (tget 0 s.dispatched q).toNat + 1 → queueRoom s (partOf s o.part) q = true →
          exec (.dispx d s1 s2) s = goes { placed q t with dispatched := tset (placed q t).dispatched q (BitVec.ofNat 32 (b / 2 ^ 32)) } 0))
    ∧ (a % 8 = 0 → len % 24 = 0 → 24 ≤ len → len ≤ 4080 → txn ≠ 0 → b / 2 ^ 16 % 2 ^ 16 = 0 → logUsed x + len + 16 ≤ 2 ^ 24 → wellHas a len = true → tfind x.openTxns txn = none →
      let u := recorded s txn 0 (wellBytes s die a len)
      exec (.walog d s1 s2) s = goes (setWellDie u die { wellDie u die with openTxns := tset x.openTxns txn (cp, x.tail) }) (BitVec.ofNat 64 x.lsn))
    ∧ (s2 = 0 → ours.map (·.1) = some cp → logUsed x + 16 ≤ 2 ^ 24 →
      exec (.wacommit d s1 s2) s = goes (recorded (setWell (setWellDie s die { x with openTxns := tdel x.openTxns (a % 2 ^ 32) }) die cp { w with lastSignal := s.cycle }) (a % 2 ^ 32) 1 []) (BitVec.ofNat 64 x.lsn)))
  ∧ (∀ (s : State) (d s1 s2 : XReg),
    let die := s.sel.die
    let cp := s.sel.num
    let w := wellOf s die cp
    let b := (readX w s2).toNat
    (2 ^ 12 ≤ b → exec (.bfxt d s1 s2) s = .next (wellException s die cp 24 (0x77 + 128)))
    ∧ (b < 2 ^ 12 → 64 < b % 64 + b / 64 + 1 → exec (.bfxt d s1 s2) s = .next (wellException s die cp 24 (0x77 + 256)))
    ∧ (∀ x now, w.waitSince = some x → x.met = none → x.deadline ≠ 0 → x.deadline ≤ now →
      (limitPassed s die now w).waitSince = some { x with met := some (decide ((leNat (wellBytes s die x.addr 8) + 2 ^ 32 - x.target) % 2 ^ 32 < 2 ^ 31)) })
    ∧ (w.waitSince.bind SgWait.met = some false → exec .sgwaitLimitExpiry s = .next (wellException s die cp 24 (0x78 + 256)))
    ∧ (s.sel.flag = true → w.lastSignal + 94000000 ≤ s.cycle → replayReaches s die = true → ∃ t, exec .hangDetectorExpiry s = .next t ∧ (wellDie t die).openTxns = [] ∧ ∀ c, c < 4 → (wellOf t die c).pc = (wellDie s die).firmwareEntry)
    ∧ (replayReaches s die = true → ∃ t, exec .wellheadRestart s = .next t ∧ (wellDie t die).openTxns = [] ∧ (∀ c, c < 4 → (wellOf t die c).pc = (wellDie s die).firmwareEntry)
      ∧ (∀ id o, s.sel.lostOps = [id] → opOf s id = some o → o.phase ≠ .retired → o.fail = none → ∃ o', opOf t id = some o' ∧ o'.phase = .ending ∧ o'.fail = some (0x7D, 0))
      ∧ (∀ i p r q n a k imm data, s.sel.lostOps = [] → s.sel.dueRecords = [i] → nth s.sent i = some (.record p r q n a k imm data) → t.sent = s.sent ++ [.record p r q n a k imm data])))

/-- R35, R42: HDR and NOP do nothing but let their bundle commit. R13: under a guard that reads 0 a scalar instruction does nothing but let its bundle commit (shown of forms of every slot under a scalar guard). R49, R53: a fetched bundle that fails its decode checks traps the context with the cause and detail of the first failure. Completes: hdr, nop, illegalOpcode. -/
def Obligations.EmptyNullifiedAndIllegal : Prop :=
  (∀ (s : State) (d c b : BitVec 8), quiet s = true → exec (.hdr d c b) s = .next (committed s id) ∧ exec .nop s = .next (committed s id))
  ∧ (∀ (s : State) (sl : AB) (g : GReg) (sd sa sb : SReg) (h : HReg) (imm : BitVec 15) (hint : BitVec 2) (disp : BitVec 19) (n : BitVec 16) (size : BitVec 2) (scope : BitVec 3) (kd ka kb kc : KReg) (x : BitVec 4) (i : Instr),
    quiet s = true → readG (actor s) g = false →
    i ∈ [Instr.add sl g sd sa sb, .div sl g sd sa sb, .ldw sl g sd h sa imm, .stw sl g sd h sa imm, .br g hint disp, .endTask g, .trap g n, .syswr g sd n, .eret g, .idle g,
      .stl g sd h sa size scope, .fence g scope, .xcopy g kd ka kb kc x, .kjoin g kd ka kb kc] →
    exec i s = .next (committed s id))
  ∧ (∀ (s u : State) (w : Nat) (cause detail : Nat), mayIssue (ctxOf s (selCtx s)) = true → fetchBundle s (selCtx s) = .word u w → decodeBundle w = .error ⟨cause, detail⟩ →
    exec .illegalOpcode s = .next (trapCtx u (selCtx s) (trapOf cause detail)))

/-- R19, R28, R98, R357: WRITEBACK_LAND writes the results that are due; NULLIFIER_SKIP counts its bundle, goes past it and changes no register; WAKE_NOTICE is kept with a context that runs a task, and ends its wait in IDLE; a boundary trap that is due is entered before the next bundle. Completes: nullifierSkip, writebackLand, singleStep, branchTrace, wakeNotice. Rests also on the model's own choices and readings: log 8. -/
def Obligations.BundleEvents : Prop :=
  ∀ (s : State),
    let id := selCtx s
    let c := ctxOf s id
    let other := ctxId s.sel.core (s.sel.ctx % 4)
    let enters (cause detail : Nat) : Host.Outcome State Fault Refusal := .next (setCtx s id ({ c with boundary := none }.enter (trapOf cause detail)))
    exec .writebackLand s = .next (begun s)
    ∧ exec .nullifierSkip s = .next (modCtx s id (fun c => { c.tick with pc := c.pc + 1, boundary := boundaryTrap c false }))
    ∧ ((ctxOf s other).running = true → ∃ t, exec .wakeNotice s = .next t ∧ (ctxOf t other).wake = true ∧ blockOver t other .wake = true)
    ∧ ((ctxOf s other).running = false → ∃ t, exec .wakeNotice s = .next t ∧ ctxOf t other = ctxOf s other)
    ∧ (c.mode = false → hasHandler s id = true → c.boundary = some (trapOf 0x0C 0) → exec .singleStep s = enters 0x0C 0)
    ∧ (∀ pc, c.mode = false → hasHandler s id = true → c.boundary = some (trapOf 0x0E pc) → exec .branchTrace s = enters 0x0E pc)

/-- R19: exactly the results due at the count of the context's queue land, that of the task or, in a handler, of the handler: the context is as before with each of them written to its register, in queue order, and the others left in the queue in their order; the bytes that are due are written to the scratchpad; no other context and no memory changes. So a scalar that no result still due names reads as before, and one that the last due result names reads that result. R18, R19: a result of latency `lat` is queued as due `lat` after its bundle's count, its register as before, and the count rises by one (shown of ADD, MUL and DIVN, of latency 1, 3 and 18, in task mode and in a handler). Rests also on the model's own choices and readings: log 8. -/
def Obligations.ExposedLatency : Prop :=
  (∀ (s : State),
    let id := selCtx s
    let c := ctxOf s id
    let now := if c.mode then c.hcount else c.count
    let queue := if c.mode then c.hq else c.wq
    let due := queue.filter (fun e => decide (e.due ≤ now))
    let rest := queue.filter (fun e => decide (now < e.due))
    actor s = due.foldl (fun c e => c.put e.res) (if c.mode then { c with hq := rest } else { c with wq := rest })
    ∧ (begun s).mem = s.mem ∧ (∀ j, j ≠ id → ctxOf (begun s) j = ctxOf s j)
    ∧ ((∀ e, e ∈ due → ∀ off data, e.res ≠ .bytes off data) → begun s = setCtx s id (actor s))
    ∧ (∀ e off data, due = [e] → e.res = .bytes off data → (begun s).sram = (storeLocal s (id / 4) off c.launch data).sram)
    ∧ (∀ r : SReg, (∀ e, e ∈ due → ∀ v, e.res ≠ .scalar r.toNat v) → readS (actor s) r = readS c r)
    ∧ (∀ (r : SReg) (l : List WbEntry) (e : WbEntry) (v : W64), due = l ++ [e] → e.res = .scalar r.toNat v → r ≠ 0 → readS (actor s) r = v))
  ∧ (∀ (s : State) (sl : AB) (g : GReg) (sd sa sb : SReg) (i : Instr) (lat : Nat) (v : W64), quiet s = true → readG (actor s) g = true → sd ≠ 0 → readS (actor s) sb ≠ 0 →
    let a := readS (actor s) sa
    let b := readS (actor s) sb
    let c := actor s
    (i, lat, v) ∈ [(Instr.add sl g sd sa sb, 1, a + b), (.mul sl g sd sa sb, 3, a * b), (.divn sl g sd sa sb, 18, BitVec.ofNat 64 (a.toNat / b.toNat))] →
      ∃ t, exec i s = .next t ∧ (ctxOf t (selCtx s)).s = c.s
        ∧ (c.mode = false → (ctxOf t (selCtx s)).wq = c.wq ++ [⟨.scalar sd.toNat v, lat, c.count + lat⟩] ∧ (ctxOf t (selCtx s)).count = c.count + 1)
        ∧ (c.mode = true → (ctxOf t (selCtx s)).hq = c.hq ++ [⟨.scalar sd.toNat v, lat, c.hcount + lat⟩] ∧ (ctxOf t (selCtx s)).hcount = c.hcount + 1))

/-- R256: the micro-ops of a running call that stage, count and advance. MLA stages the next step's elements of the 128 rows of A, MLB those of B by rows or, transposed, by columns; MLOOP counts a counter down and branches while it is not 0, or branches while K is left; MADV adds to or sets a base, the cursor or a counter; MSYNC goes on once the call's drains have landed; MEND ends the routine. Each counts one step and changes only the call. R256, R263, R265: MSTEP of operands staged for this step multiplies and adds into its tile, moves the cursor by the step's size, and drains the tile when the interval is full; MDRAIN drains it. A drain waits while four entries of the landing pool are taken, that of a full interval with its step done; a step that meets a poisoned accumulator ends the call (R362). Completes: mloop, madv, mla, mlb, mstep, mdrain, msync, mend. Rests also on the model's own choices and readings: log 66, 73. -/
def Obligations.MicroOps : Prop :=
  (∀ (s : State) (r : McallRun) (rows metas : Nat → List Nat) (l : BitVec 2) (target : BitVec 10) (src : BitVec 2) (set : Bool) (imm : BitVec 32),
    let core := s.sel.core
    let goes (r' : McallRun) (pc : Nat) : Host.Outcome State Fault Refusal := .next (goMicro s core r' pc)
    let o := r.op
    let n := stepSize r
    let p := (neededK r n).1
    let m := (neededK r n).2
    let b := wordH (o.param 2)
    let stride := wordStride (o.param 2)
    let w := (nfmtOf (bfmt o)).width
    let v : W32 := if src = 0 then imm else if src = 1 then (o.param 7).extractLsb' 0 32 else (o.param 7).extractLsb' 32 32
    let upd (x : W32) : W32 := if set then v else x + v
    let ea : Int := if set then (if src = 0 then (v.toNat : Int) else v.toInt) else (r.ea : Int) + v.toInt
    (coreOf s core).mcall = some r → r.ended = false →
      (0 < n → (∀ i, i < 128 → rowCodes s o (wordH (o.param 1)) (r.aoff.toNat + i * wordStride (o.param 1)) (nfmtOf (afmt o)).width r.ea n = .ok (rows i)) →
        (∀ i, i < 128 → (if spen o then metaRow s r (groupSpan r n).1 (groupSpan r n).2 i else .ok []) = .ok (metas i)) →
        exec .mla s = goes { r with stagedA := some r.ea, codesA := (List.range 128).flatMap rows, metas := (List.range 128).flatMap metas, atStep := false } (r.pc + 1))
      ∧ (0 < n → r.word.getLsbD 0 = false → (∀ j, j < m → rowCodes s o b (r.boff.toNat + (p + j) * stride) w 0 64 = .ok (rows j)) →
        exec .mlb s = goes { r with stagedB := some r.ea, codesB := (List.range m).flatMap rows, atStep := false } (r.pc + 1))
      ∧ (0 < n → r.word.getLsbD 0 = true → (∀ c, c < 64 → rowCodes s o b (r.boff.toNat + c * stride) w p m = .ok (rows c)) →
        exec .mlb s = goes { r with stagedB := some r.ea, codesB := (List.range m).flatMap (fun j => (List.range 64).map (fun c => (rows c).getD j 0)), atStep := false } (r.pc + 1))
      ∧ exec (.mloop true l target) s = goes r (if r.ea < r.endk then target.toNat else r.pc + 1)
      ∧ (let c := tget 0 r.ctr l.toNat - 1
        exec (.mloop false l target) s = goes { r with ctr := tset r.ctr l.toNat c } (if c = 0 then r.pc + 1 else target.toNat))
      ∧ exec (.madv 0 src set imm) s = goes { r with aoff := upd r.aoff } (r.pc + 1)
      ∧ exec (.madv 1 src set imm) s = goes { r with boff := upd r.boff } (r.pc + 1)
      ∧ exec (.madv 2 src set imm) s = goes { r with moff := upd r.moff } (r.pc + 1)
      ∧ (0 ≤ ea → ea ≤ r.endk → exec (.madv 3 src set imm) s = goes { r with ea := ea.toNat } (r.pc + 1))
      ∧ (ea < 0 ∨ (r.endk : Int) < ea → exec (.madv 3 src set imm) s = .next (failMcall s core (plainFault 0x41 7)))
      ∧ exec (.madv (4 + l.zeroExtend 3) src set imm) s = goes { r with ctr := tset r.ctr l.toNat (upd (tget 0 r.ctr l.toNat)) } (r.pc + 1)
      ∧ (drainsLanded s core o.uid = true → exec .msync s = goes r (r.pc + 1))
      ∧ exec .mend s = .next (modCore s core (fun k => { k with mcall := some { r with ended := true, steps := r.steps + 1 } })))
  ∧ (∀ (s : State) (r : McallRun),
    let core := s.sel.core
    let k := coreOf s core
    let n := stepSize r
    let t := tget Tile.free k.tiles (accTile r.op)
    let step := stepTile r n t
    let r1 : McallRun := { r with narrow := (r.op.param 0).getLsbD 15 || (tget Die.fresh s.dies (dieOfCore r.op.core)).alarm, ea := r.ea + n, ic := r.ic + n, clamped := r.clamped || step.2, atStep := true }
    let staged : Prop := r.draining = false ∧ 0 < n ∧ r.stagedA = some r.ea ∧ r.stagedB = some r.ea ∧ r.codesA.length = 128 * n ∧ r.codesB.length = 64 * (neededK r n).2
    let drains : Prop := (r.word.getLsbD 0 = true → 0 < r.ic ∧ dint r.op ≠ 0xFFFF)
    k.mcall = some r → r.ended = false →
      (staged → t.bad = [] → r.ilen ≠ some (r.ic + n) → exec .mstep s = .next (goMicro (setTile s core (accTile r.op) step.1) core r1 (r.pc + 1)))
      ∧ (staged → t.bad = [] → r.ilen = some (r.ic + n) → k.pool.length < 4 →
        ∃ u, exec .mstep s = .next u ∧ (coreOf u core).pool = k.pool ++ [drainEntry r1 step.1] ∧ tget Tile.free (coreOf u core).tiles (accTile r.op) = { Tile.free with owner := t.owner })
      ∧ (staged → t.bad = [] → r.ilen = some (r.ic + n) → 4 ≤ k.pool.length →
        exec .mstep s = .next (modCore (setTile s core (accTile r.op) step.1) core (fun k => { k with mcall := some { r1 with draining := true } })))
      ∧ (r.draining = true → k.pool.length < 4 →
        ∃ u, exec .mstep s = .next u ∧ (coreOf u core).pool = k.pool ++ [drainEntry r t] ∧ tget Tile.free (coreOf u core).tiles (accTile r.op) = { Tile.free with owner := t.owner })
      ∧ (r.draining = true → 4 ≤ k.pool.length → ∃ u, exec .mstep s = .next u ∧ coreOf u core = k)
      ∧ (staged → t.bad ≠ [] → exec .mstep s = .next (failMcall s core (plainFault 0x4B (accTile r.op))))
      ∧ (r.draining = false → ¬(r.stagedA = some r.ea ∧ r.stagedB = some r.ea) → exec .mstep s = .next (failMcall s core (plainFault 0x41 6)))
      ∧ (drains → k.pool.length < 4 →
        ∃ u, exec .mdrain s = .next u ∧ (coreOf u core).pool = k.pool ++ [drainEntry r t] ∧ tget Tile.free (coreOf u core).tiles (accTile r.op) = { Tile.free with owner := t.owner })
      ∧ (drains → 4 ≤ k.pool.length → exec .mdrain s = .next s)
      ∧ (¬drains → exec .mdrain s = .next (goMicro s core r (r.pc + 1))))

/-- R118: one step of an integer pairing leaves in each cell of the tile the exact sum of what stood there and its products, clamped to 48 bits, and marks the cells that were clamped. -/
def Obligations.IntegerStepValues : Prop :=
  ∀ (r : McallRun) (n k : Nat) (t : Tile), floatPair (afmt r.op) (bfmt r.op) = false → k < 8192 →
    let a (c : Nat) : Int := intOf (nfmtOf (afmt r.op)).width (signedFmt (afmt r.op)) c
    let b (c : Nat) : Int := intOf (nfmtOf (bfmt r.op)).width (signedFmt (bfmt r.op)) c
    let sum : Int := (tget 0 t.vals k).toInt + ((cellPairs r n (k / 64) (k % 64)).map (fun p => a p.1 * b p.2)).sum
    let t' := (stepTile r n t).1
    (tget 0 t'.vals k).toInt = max (-2 ^ 47) (min (2 ^ 47 - 1) sum) ∧ tget false t'.clamps k = (tget false t.clamps k || decide (sum < -2 ^ 47) || decide (2 ^ 47 ≤ sum))

/-- R257, R260 to R265: the rows of the matrix array. A free array starts the earliest call that may and passes its checks, taking its tile for the context; MZERO leaves its tile empty and is done; the earliest drain lands; a call past MEND whose drains have landed is done, or faults with ACC_CLAMP where that check is enabled; a call of 2^32 micro-ops fails. Completes: matrixStart, microopCountExpiry, drainLand, mcallComplete. Rests also on the model's own choices and readings: log 29, 72, 73. -/
def Obligations.MatrixArrayRows : Prop :=
  ∀ (s : State) (o : EngineOp) (r : McallRun) (i : Nat) (e : PoolEntry),
    let core := s.sel.core
    let k := coreOf s core
    let u := unqueue s o
    let t := tget Tile.free (coreOf u core).tiles (accTile o)
    (k.mcall = none → nextQueued s core (mayStart s) = some o → k.resumed = [] → unitOffline s core o.opc = false →
      (o.opc = 2 → exec .matrixStart s = .next (endOp (setTile u core (accTile o) { Tile.free with owner := some o.uid }) o.id none 0))
      ∧ (o.opc = 1 → ∀ f, mcallCheck u o = some f → exec .matrixStart s = .next (endOp u o.id (some f) 0))
      ∧ (o.opc = 1 → mcallCheck u o = none → xvRepresentable (xvOf u o (afmt o) 1) = true → xvRepresentable (xvOf u o (bfmt o) 2) = true →
        exec .matrixStart s = .next (modCore (setTile u core (accTile o) (if accz o then { Tile.free with owner := some o.uid } else { t with owner := some o.uid })) core (fun k => { k with mcall := some (startRun u o) }))))
    ∧ (k.pool[i]? = some e → e.landed = false → (∀ j, j < i → (k.pool[j]?).all (·.landed) = true) →
      ∃ v, exec .drainLand s = .next v ∧ (coreOf v core).pool[i]? = some { e with landed := true } ∧ (coreOf v core).pool.length = k.pool.length)
    ∧ (k.mcall = some r → r.ended = true → drainsLanded s core r.op.uid = true →
      exec .mcallComplete s = .next (endOp (modCore s core (fun k => { k with mcall := none })) r.op.id (if r.clamped && r.op.dbgctl.getLsbD 14 then some (plainFault 0x1E (accTile r.op)) else none) 0))
    ∧ (k.mcall = some r → r.ended = false → 2 ^ 32 ≤ r.steps → exec .microopCountExpiry s = .next (failMcall s core (plainFault 0x41 8)))

/-! ### Memory, engines and Lakebed rows -/

/-- R23, R237, R242, R223, R224, R240: an access in flight that nothing holds back is performed at its home and leaves the list. A load of a clean home delivers its bytes and, unless it hits, brings its line into L1; a value, a binding and a record update arrive; a plain store is applied under the writer tags; an STL first kills its core's tags; an atomic delivers the old value and writes the new one, whatever the tags. A SPAWN's record is pushed once the stores before it are performed (R175). R359, R358, R411: a request to another device that fails after it issued leaves the list: the failure of a store, an atomic or a record update is recorded in its context, the register of a load or an atomic is marked, and the bundle of a SPAWN finds the failure of its read. R285, R244, R181, R194, R335: a ring update whose release condition holds and that no earlier update of its context to the ring precedes adds to the counter modulo 2^32; an arrival from another device is recorded by the device that keeps the group; a generation is installed elsewhere; a split whose tokens have left PEND takes effect; a line dirty in L2 is written to its block (R336; in which entry or run is the model's choice, log 28). A request that another device fails ends with the cause that the turn names (log 53), and the pieces of one failed store make one failure (log 88). Completes: interlockedResultArrive, stlHeldPerform, atomicPerformAtHome, storeApplyAtHome, remoteStoreFailure, remoteAccessTimeout, ringCounterUpdate, barrierArrivalRemote, generationBroadcast, splitSwitch, compressedLineWrite. Rests also on the model's own choices and readings: log 6, 10, 11, 28, 53, 77, 88. -/
def Obligations.AccessesAtTheirHomes : Prop :=
  (∀ (s : State) (r : Remote), nth s.remotes s.sel.idx = some r →
    let perform (i : Instr) (u : State) : Prop := exec i s = .next (dropRemote u r)
    let free : Prop := mustFollow s r = false ∧ heldWrite s r.id r.segs = false
    let local' : Prop := ¬(r.hk.kind = .tensor ∧ r.hk.dev ≠ 0) ∧ r.segs.any (·.loc.isFar) = false
    let give (u : State) (rs : List Result) : State := modUid u r.uid (fun c => rs.foldl (fun c x => c.put x) c)
    (∀ cls num size lane signed splat acq, r.kind = .load cls num size lane signed splat acq → r.fixed = none → s.sel.flag = false → mustFollow s r = false → heldFill s r.segs = false → local' → firstPoison s r.segs = none →
      let u := give (r.segs.foldl (fun s g => fillL1 s r.core g.loc) s) (loadResult r.kind (r.segs.flatMap (fun g => readLocs s r.launch g.loc g.len)))
      perform .interlockedResultArrive (if acq = 0 then u else acquireAt u (coreNow u r) (acq - 1)))
    ∧ (∀ rs, r.kind = .value rs → perform .interlockedResultArrive (give s rs))
    ∧ (∀ h, r.kind = .hbind h → perform .interlockedResultArrive (modUid (if r.hk.dev = 0 then keepCopy s (dieOfCore r.core) r.part r.hk.tid else { s with sent := s.sent ++ [.remote 5 r.hk.dev r.hk.tid 0 []] }) r.uid (fun c => { c with h := tset c.h h r.hk })))
    ∧ (∀ h xv t, r.kind = .hsetxv h xv → afterUpdate s r = false → afterAcquire s r = false → r.hk.dev = 0 → tensorOf s r.part r.hk.tid = some t → perform .interlockedResultArrive (setTensor s r.part { t with xv := xv }))
    ∧ (∀ d t, r.kind = .tuse d → afterUpdate s r = false → r.hk.dev = 0 → tensorOf s r.part r.hk.tid = some t → perform .interlockedResultArrive (setTensor s r.part { t with nextuse := d }))
    ∧ (∀ x k, r.kind = .spawn x k → releaseReady s r.uid 4 r.id = true → perform .storeApplyAtHome (pushHeld (killTags s r.part r.core 4) r.core x k))
    ∧ (∀ data, r.kind = .store data → free → local' → perform .storeApplyAtHome (noteDoors (updateL1 (storeSegs (clearIncomp s (storedSegs s r.core r.segs)) r.core r.launch r.segs data) r.core r.segs) r))
    ∧ (∀ data flag, r.kind = .lake data flag → s.remotes.any (fun e => e.uid = r.uid && decide (e.id < r.id) && (flag || segsMeet e.segs r.segs)) = false → heldPage s r.id r.segs = false → dirtyFull s r.segs = false →
      perform .storeApplyAtHome (dropCallerL1 (lakeWrite s r.segs data) r))
    ∧ (∀ data scope, r.kind = .stl data scope → free → releaseReady s r.uid scope r.id = true → perform .stlHeldPerform (performStore (killTags s r.part r.core scope) r data))
    ∧ (∀ fn v w dest scope, r.kind = .atomic fn v w dest scope → free → (scope = 0 ∨ releaseReady s r.uid scope r.id = true) →
      let u := performAtomic (if scope = 0 then s else killTags s r.part r.core scope) r fn v w dest
      perform .atomicPerformAtHome (if scope = 0 then u else acquireAt u (coreNow u r) scope)))
  ∧ (∀ (s : State) (r : Remote), nth s.remotes s.sel.idx = some r → r.far = true →
    let stored (i : Instr) (cause : Nat) : Prop :=
      (r.kind.isUpdate = true → exec i s = .next (dropRemote (recordFailure s r cause) r))
      ∧ (r.kind.isStore = true → r.kind.isUpdate = false → exec i s = .next (dropRemote (markRemote (recordFailure s r cause) r cause r.off) r))
    (s.sel.flag = false → stored .remoteStoreFailure (if ownerCause s.sel.num = 0 then 0x29 else ownerCause s.sel.num))
    ∧ (r.since + 940 * (partOf s r.part).domtmo.toNat ≤ s.cycle →
      (s.sel.flag = true → stored .remoteStoreFailure 0x28) ∧ stored .remoteAccessTimeout 0x28
      ∧ (r.kind = .record → exec .remoteAccessTimeout s = .next (dropRemote (modUid s r.uid (fun c => { c with spawned := some (0x28, r.off, []) })) r))
      ∧ (r.kind.isLoad = true → r.kind ≠ .record → exec .remoteAccessTimeout s = .next (dropRemote (markRemote s r 0x28 r.off) r))))
  ∧ (∀ (s : State),
    let g := groupOf s s.sel.idx
    (∀ r ring push n, nth s.remotes s.sel.idx = some r → r.kind = .ring ring push n → releaseReady s r.uid 4 r.id = true →
      ringBefore s r.uid ring r.id = false →
      ∃ t, exec .ringCounterUpdate s = .next t ∧ (ringOf t ring).write = (ringOf s ring).write + (if push then n else 0) ∧ (ringOf t ring).read = (ringOf s ring).read + (if push then 0 else n)
        ∧ ((ringOf t ring).cfg.getLsbD 39 = ((ringOf s ring).cfg.getLsbD 39 || decide (2 ^ bitsOf (ringOf s ring).cfg.toNat 51 4 < ((ringOf t ring).write - (ringOf t ring).read).toNat))))
    ∧ (keepsGroup s g = true → s.sel.die ≠ s.devnum → g.dmask.getLsbD s.sel.die = true → g.members.getLsbD s.sel.num = true →
      exec .barrierArrivalRemote s = .next (completeGroup (setGroup s s.sel.idx { g with far := tset g.far s.sel.die (tget 0 g.far s.sel.die ||| BitVec.ofNat 256 (2 ^ s.sel.num)) }) s.sel.idx))
    ∧ (g.dmask ≠ 0 → keepsGroup s g = false → exec .generationBroadcast s = .next (setGroup s s.sel.idx { g with gen := BitVec.ofNat 16 s.sel.num, arrived := 0 }))
    ∧ (∀ r, s.splits.find? (fun r => r.cluster = s.sel.idx) = some r → r.waits.any (fun i => (liveOps s).any (fun o => o.id = i)) = false →
      ∃ t, exec .splitSwitch s = .next t ∧ splitOf t r.cluster = r.code ∧ t.splits = s.splits.filter (fun x => x.uid != r.uid))
    ∧ (∀ line bytes, nth s.dirty3 s.sel.idx = some (line, bytes) → (∀ b, tfind s.dirty3 line = some b → b = bytes) →
      let u := writeLine3 { s with dirty3 := tdel s.dirty3 line } line bytes
      exec .compressedLineWrite s = .next u))

/-- R224: what an atomic that is performed on clean bytes of this device does: its context's destination takes the old value, and its bytes hold the new one where the function writes one. R242: a plain store of bytes of one 32-byte sector: where the sector's tag is live and names a higher core the bytes are dropped, otherwise they are written and the tag names the storing core; no byte outside them changes. -/
def Obligations.AtomicsAndWriterTags : Prop :=
  (∀ (s : State) (r : Remote) (fn d id k : Nat) (v w : W64), r.hk.dev = 0 → r.segs = [⟨.mem k, atomicSize fn⟩] → atomicSize fn ≤ 8 → firstPoison s r.segs = none → (partOf s r.part).qps = [] →
    (ctxOf s id).running = true → (ctxOf s id).uid = r.uid →
    let old : W64 := BitVec.ofNat 64 (leNat (cellsGet s.mem k (atomicSize fn)))
    let u := performAtomic s r fn v w (some d)
    ctxOf u id = (ctxOf s id).put (.scalar d old) ∧ u.tags = s.tags
    ∧ (∀ x, atomicNew fn old v w = some x → cellsGet u.mem k (atomicSize fn) = leBytes x.toNat (atomicSize fn))
    ∧ (atomicNew fn old v w = none → u.mem = s.mem)
    ∧ (∀ a, a < k ∨ k + atomicSize fn ≤ a → cellGet u.mem a = cellGet s.mem a))
  ∧ (∀ (s : State) (core launch k n : Nat) (data : List Byte), 0 < n → data.length = n → k % 32 + n ≤ 32 →
    let l := Loc.mem k
    let u := plainStore s core launch l data
    (∀ c, tget none s.tags (sectorOf l) = some c → core < c → u.mem = s.mem ∧ u.tags = s.tags)
    ∧ ((∀ c, tget none s.tags (sectorOf l) = some c → c ≤ core) → cellsGet u.mem k n = data ∧ tget none u.tags (sectorOf l) = some core)
    ∧ (∀ a, a < k ∨ k + n ≤ a → cellGet u.mem a = cellGet s.mem a))

/-- R333: what a sector is encoded to decodes to the sector. Rests also on the model's own choices and readings: log 18. -/
def Obligations.SectorCodecRoundTrip : Prop :=
  ∀ (l : List Byte), l.length = 32 → decodeSector (encodeSector l).1 (encodeSector l).2 = l ∧ (encodeSector l).2.length = codeLength (encodeSector l).1

/-- R276, R289, R290, R291, R362: the earliest ready copy starts while fewer than eight are in progress, when its checks pass, and ends with their fault when they do not; a copy in progress moves all it has left and finishes; one that has made no progress for 2^32 arithmetic cycles ends with ENGINE_TIMEOUT. R287, R290: a fill of one row through h0 writes its 8-byte pattern over the row's bytes, and its operation ends without a fault: it leaves the copies in progress, and the token that waited for it is DONE. R296, R297: with its inputs ready and its checks passed a TSTREAM starts on its die; a chunk that can be read is written; a stream with no chunk left is done, or faults with DECODE_CHUNK_FAILED at its lowest failed chunk. R300 to R302: an instance whose members are all ready starts when they agree and each passes its checks, ends with RESERVED_FIELD when they disagree, then reads its members' sources in rank order, and ends every member's token once its results are written, R302, R360: with REDUCE_CLAMP for a member that asked for that check where a sum was clamped. Completes: copyStart, copyComplete, engineTimeout, streamComplete, collInstanceStart, collComplete. Rests also on the model's own choices and readings: log 30, 31, 35, 36, 72, 75, 76. -/
def Obligations.EngineRows : Prop :=
  (∀ (s u v : State) (o : EngineOp) (idx : List Nat) (f : FaultRec) (r r' : CopyRun),
    let core := s.sel.core
    let k := coreOf s core
    let rows := if copyLen o = 0 then [] else (List.range (copyRows o)).map (fun r => (r, 0, copyLen o))
    let here := nth k.copies s.sel.idx = some r
    (k.copies.length < 8 → nextQueued s core (fun o => unitOf o.opc = 1 && decide (4 ≤ o.opc)) = some o → unitOffline s core o.opc = false →
      (copyCheck (unqueue s o) o = .ok idx → exec .copyStart s = .next (modCore (unqueue s o) core (fun k => { k with copies := k.copies ++ [⟨o, idx, rows, none, arithAt (unqueue s o) (dieOfCore core), [], (unqueue s o).cycle⟩] })))
      ∧ (copyCheck (unqueue s o) o = .error f → exec .copyStart s = .next (endOp (unqueue s o) o.id (some f) 0)))
    ∧ (here → s.sel.keep = false → prepareCopy s r = (u, .ok r') → moveAll u r' r'.left.length = (v, .done) → exec .copyComplete s = .next (finishCopy v r'.op))
    ∧ (here → s.sel.keep = true → s.sel.flag = false → exec .copyComplete s = .next (stepCopy s r s.sel.num))
    ∧ (here → r.since + 2 ^ 32 ≤ arithAt s (dieOfCore core) →
      exec .engineTimeout s = .next (endCopy s r.op (some (r.op.faultAt 0x49 (if r.op.opc = 9 then dstH r.op else srcH r.op) 0)))))
  ∧ (∀ (s : State) (r : CopyRun) (len : Nat), s.sel.keep = false → nth (coreOf s s.sel.core).copies s.sel.idx = some r →
    let o := r.op
    let dst := wordOff (o.param 2)
    o.opc = 9 → o.x = 0 → dstH o = 0 → r.snap = none → r.left = [(0, 0, len)] → 0 < len → dst + len ≤ 0x200000 →
    (∀ j, j < len → tagAllows s o.core (.scr o.core (dst + j)) = true) → heldWrite s s.fresh [⟨.scr o.core dst, len⟩] = false →
      ∃ t u, exec .copyComplete s = .next t ∧ t = endOp u o.id none 0 ∧ u.ctxs = s.ctxs ∧ (∀ x, x ∈ (coreOf t o.core).copies → x.op.id ≠ o.id)
        ∧ (∀ id k f, readK (ctxOf s id) k = ⟨.pend, f, o.id⟩ → readK (ctxOf t id) k = ⟨.done, FaultRec.none, o.id⟩)
        ∧ ∀ j, j < len → readScr t o.core (dst + j) o.launch = BitVec.ofNat 8 ((o.param 5).toNat / 2 ^ (8 * (j % 8))))
  ∧ (∀ (s u v : State) (o : EngineOp) (masks : List Nat) (r : StreamRun),
    let core := s.sel.core
    let here := nth s.streams s.sel.idx = some r ∧ r.parked = none
    (s.sel.flag = true → nextQueued s core (fun o => unitOf o.opc = 2) = some o → unitOffline s core o.opc = false → streamFields o = none → streamBounds (unqueue s o) o = none → readMasks (unqueue s o) o = .ok masks →
      exec .streamComplete s = .next { unqueue s o with streams := s.streams ++ [⟨o, dieOfCore core, masks, List.range (chunksOf o), [], none⟩] })
    ∧ (s.sel.flag = false → here → s.sel.keep = true → r.left.contains s.sel.num = true → doChunk s r s.sel.num = (u, .written v) →
      exec .streamComplete s = .next (setStream v { r with left := r.left.filter (· != s.sel.num) }))
    ∧ (s.sel.flag = false → here → s.sel.keep = false → s.streams.find? (fun x => x.op.id = r.op.id) = some r → r.left = [] →
      exec .streamComplete s = .next (match r.failed with
        | [] => endStream s r.op none 0
        | i :: l => endStream s r.op (some { r.op.faultAt 0x44 (srcH r.op) (wordOff (r.op.param 1) + 512 * l.foldl min i) with aux := l.foldl min i % 65536 }) 0)))
  ∧ (∀ (s u : State) (i : CollInst) (own : List (Nat × List Byte)), nth s.colls s.sel.idx = some i → (groupOf s i.group).dmask = 0 →
    let src := allSources u i own
    let ordered := (List.range ((i.ops.map collRank).foldl max 0 + 1)).filterMap (fun r => i.ops.find? (fun o => collRank o = r))
    (instanceReady s i = true → membersAgree s i = false → exec .collInstanceStart s = .next (endColl s i (some (plainFault 0x04 3)) 0))
    ∧ (instanceReady s i = true → membersAgree s i = true → (∀ o, o ∈ i.ops → unitOffline s o.core o.opc = false ∧ collCheck s o = none) →
      exec .collInstanceStart s = .next (setColl (unqueueAll s i.ops) { i with started := true }))
    ∧ (i.started = true → i.shares = none → collSources s i.ops = (u, .ok own) →
      exec .collComplete s = .next (setColl (sendSources u i own) { i with shares := some (ordered.map (fun o => (o.id, (collResult o src).1))), clamped := i.ops.any (fun o => collClamped o src) }))
    ∧ (i.started = true → i.shares = some [] → s.sel.keep = false → s.colls.find? (fun x => x.group = i.group && x.number = i.number) = some i →
      let aux := if i.clamped then 1 else 0
      exec .collComplete s = .next (if i.clamped = true ∧ i.ops.any (fun o => o.dbgctl.getLsbD 15) = true
        then i.ops.foldl (fun s o => endOp s o.id (if o.dbgctl.getLsbD 15 then some (plainFault 0x1F 0) else none) aux)
          (unqueueAll { s with colls := s.colls.filter (fun x => !(x.group = i.group && x.number = i.number)) } i.ops)
        else endColl s i none aux)))

/-- R307 to R310: a command that passes its checks joins its Lakebed core's buffer, and one that does not ends with their fault; the next task of a running Lakebed operator joins its core's buffer, and an entry that is not valid fails the operator with LAKEBED_ENTRY; a free core that the Wellhead does not keep starts its next kernel; a kernel that has run 2^34 cycles ends with WATCHDOG. R310: what a program kernel of a command finds at its dispatch: q1 and q2 the command's M3 and M4, q3 the issuing core, its other registers and its local SRAM zero, and the PC at its entry. Completes: lakebedCommandHandover, lakebedTaskHandover, lakebedKernelStart, lakebedWatchdog. Rests also on the model's own choices and readings: log 23, 24, 26, 91, 92. -/
def Obligations.LakebedKernels : Prop :=
  (∀ (s : State) (c : EngineOp) (k : Kernel) (o : Operator) (w : Nat) (f : FaultRec),
    let here := s.sel.core
    let i := (c.param 1).toNat % 64
    let j := taskLake s o o.handed
    let n := o.entry.toNat % 256
    let u := unqueue s c
    (nextCommand s here s.sel.idx = some c → unitOffline u c.core c.opc = false →
      (commandCheck u c = none → exec .lakebedCommandHandover s = .next (joinBuffer u i { newKernel u c.part c.op c.cls with
          entry := c.x, fw := c.opc - 0x0F, cmd := some c, start := if c.opc = 0x0F then (kernelEntry u i c.x).getD 0 else 12288 }))
      ∧ (commandCheck u c = some f → exec .lakebedCommandHandover s = .next (endOp u c.id (some f) 0)))
    ∧ (opOf s s.sel.num = some o → o.kind = true → o.phase = .running → o.handed < o.tasks → lakeRoom s j = true →
      (kernelEntry s j n = some w → exec .lakebedTaskHandover s = .next (joinBuffer (modOp s s.sel.num (fun o => { o with handed := o.handed + 1 })) j
          { newKernel s o.part s.sel.num o.prio with entry := n, start := w, index := o.handed, param := o.param }))
      ∧ (kernelEntry s j n = none → exec .lakebedTaskHandover s = .next (failOp s s.sel.num 0x0F n)))
    ∧ ((lakeOf s here).run = none → nextKernel s here = some k → exec .lakebedKernelStart s = .next (startKernel s here k))
    ∧ ((lakeOf s here).run = some k → 2 ^ 34 ≤ cyclesRun s k →
      exec .lakebedWatchdog s = .next (endKernel (countHealth s 0x018) here k (some (if k.fw = 0 then programFault s k 0x7F none 0 else plainFault 0x7F 0)) 0)))
  ∧ (∀ (s : State) (i : Nat) (k : Kernel) (o : EngineOp), k.dispatched = false → k.cmd = some o → k.fw = 0 → k.start < 2 ^ 14 →
    ∃ k', (lakeOf (startKernel s i k) i).run = some k' ∧ readQ k' 1 = o.param 3 ∧ readQ k' 2 = o.param 4 ∧ readQ k' 3 = BitVec.ofNat 64 o.core
      ∧ (∀ r : QReg, 3 < r.toNat → readQ k' r = 0) ∧ (∀ r : QReg, readW k' r = 0) ∧ (∀ a, sramByte k' a = 0) ∧ k'.pc.toNat = k.start)

/-! ### Operators, the Weir, partitions, the host, devices -/

/-- R415, R161: a valid submission word moves its stream's head to its tail and every new record joins the stream as an operator waiting for admission (shown of one record); a stream number of 64 or above is answered with STREAM_BAD's cause. R162 to R165: a waiting operator of a live partition whose stream is not stopped is admitted when its record is sound, nothing earlier holds it back, its groups and tensors exist, its use list lies in its tensor and its arguments are brought in; an unsound record fails it with OPERATOR_BAD and the byte offset. Completes: submissionWordWrite, operatorAdmit. Rests also on the model's own choices and readings: log 41, 42. -/
def Obligations.SubmissionAndAdmission : Prop :=
  (∀ (s : State) (l : List Byte),
    let part := s.sel.part
    let v := s.sel.word.toNat
    let i := v / 2 ^ 48 % 256
    let u := tensorStore s part (partOf s part).submission 0x800000 (leBytes v 8)
    let st := tget Stream.fresh (partOf u part).streams i
    (partOf s part).live = true → heldTensor s part (partOf s part).submission 0x800000 8 = false →
      (i < 64 → v / 2 ^ 32 % 2 ^ 16 = 0 → v / 2 ^ 56 = 0 → st.head + 1 = BitVec.ofNat 32 v → tensorBytes u part (partOf u part).submission (i * 131072 + 128 * (st.head.toNat % 1024)) 128 = some l →
        ∃ t, exec .submissionWordWrite s = .next t ∧ (tget Stream.fresh (partOf t part).streams i).head = st.head + 1 ∧ opOf t u.fresh = some (parseOperator part i l) ∧ (parseOperator part i l).phase = .waiting)
      ∧ (64 ≤ i → exec .submissionWordWrite s = .next (postCompletion u part 0 i (some 0x6C))))
  ∧ (∀ (s u : State) (o : Operator) (f : Nat),
    let id := s.sel.num
    let p := partOf s o.part
    opOf s id = some o → o.phase = .waiting → p.live = true → p.checkpoint = false → (tget Stream.fresh p.streams o.stream).stopped = false → namesLeaving s o = false →
      (operatorBad p o = some f → exec .operatorAdmit s = .next (failOp s id 0x62 f))
      ∧ (operatorBad p o = none → heldBack s id o = false → (∀ n, n ∈ opGroups o → groupUsed s o.part n = true ∨ (groupRecord s o.part n).isSome = true) →
        (∀ a, a ∈ o.args → a.1 = 0 ∨ (tensorOf s o.part a.2).any (fun t => decide (pinCount s o.part t < 65535)) = true) → useListBad s o = none → admitArgs s id o.part o.args = (u, .ok) →
        exec .operatorAdmit s = .next (launchOp u id o)))

/-- R9, R174, R175: the state a task starts in: its arguments in s1 to s6 and the other scalars 0, g0 and p0 all ones, h0 and h1 the windows, every other guard, vector, predicate and parameter register 0, every other handle unbound, every token FREE, its counts 0 and its queues empty, task mode, and the PC at the record's entry; memory is as it was. R166, R168, R169, R174: TASK_POP serves the die's idle contexts in turn, by core and then context: the next one gets what it is due: a reservation for a waiting co-resident operator, else a saved or a queued task of the highest class; a co-resident operator starts all its tasks once its contexts are reserved; a segment copy that can be read lands in its frame, and one that fails ends. Completes: coresidentLaunch, taskPop, segmentCopyLand. Rests also on the model's own choices and readings: log 43, 70, 90. -/
def Obligations.Tasks : Prop :=
  (∀ (s : State) (id : Nat) (t : TaskRec),
    let c := ctxOf (startTask s id t) id
    c.running = true ∧ c.mode = false ∧ c.wake = false ∧ c.pc = t.entry ∧ c.count = 0 ∧ c.wq = [] ∧ c.hq = [] ∧ c.op = t.op ∧ c.lc = 0 ∧ c.ec = 0 ∧ c.vrb = 0 ∧ c.prb = 0
    ∧ readS c 1 = BitVec.ofNat 64 t.arg0 ∧ readS c 2 = BitVec.ofNat 64 t.arg1 ∧ readS c 5 = BitVec.ofNat 64 (id / 4) ∧ readS c 6 = BitVec.ofNat 64 (id % 4)
    ∧ readS c 3 = (if t.fv then BitVec.ofNat 64 t.ftid else 0) ∧ readS c 4 = (if t.fv then BitVec.ofNat 64 t.foff else 0)
    ∧ (∀ r : SReg, r = 0 ∨ 6 < r.toNat → readS c r = 0) ∧ (∀ v : VReg, readV c v = 0) ∧ (∀ g : GReg, readG c g = (g == 0)) ∧ (∀ p : PReg, readP c p = if p = 0 then BitVec.allOnes 128 else 0)
    ∧ (∀ n, readM c n = 0 ∧ readK c n = .free) ∧ (∀ n, 1 < n → readH c n = .unbound) ∧ (startTask s id t).mem = s.mem)
  ∧ (∀ (s u : State) (o : Operator) (y : SegCopy) (l : List (BitVec 128)) (n slot cause inner : Nat),
    let core := s.sel.core
    let at_ := s.sel.die % 4 * 64 + slot / 4
    let lane := slot % 4
    let v := { s with served := tset s.served (s.sel.die % 4) slot }
    let aged := applyAging v (s.sel.die % 4)
    let takes := (taking (partOf v (partOfCore v at_))).getLsbD (at_ / 8)
    let ids := reservedFor s s.sel.num
    (nextServed s (s.sel.die % 4) = some slot →
      (takes = true → wantsContext v at_ = some n → exec .taskPop s = .next (modCtx v (ctxId at_ lane) (fun c => { c with reserved := some n })))
      ∧ ((takes = true → wantsContext v at_ = none) → takeSaved aged at_ lane 3 = some u → exec .taskPop s = .next u)
      ∧ (takes = true → wantsContext v at_ = none → takeSaved aged at_ lane 3 = none → takeRecord aged at_ lane 3 = some u → exec .taskPop s = .next u))
    ∧ (opOf s s.sel.num = some o → unstarted o = true → ids.length = o.tasks →
      exec .coresidentLaunch s = .next ((ids.zip (List.range o.tasks)).foldl (fun s' p => modCtx (startTask s' p.1 (initialTask s.sel.num o p.2)) p.1 (fun c => { c with reserved := some s.sel.num }))
        (modOp s s.sel.num (fun o => { o with handed := o.tasks }))))
    ∧ (nth (coreOf s core).copying s.sel.idx = some y → y.wait = none →
      (readSegment s core y = (u, .code l) → ∃ t, exec .segmentCopyLand s = .next t ∧ (coreOf t core).copying = dropNth (coreOf u core).copying s.sel.idx
        ∧ ∃ fr, tfind (coreOf t core).frames y.frame = some fr ∧ fr.ktab = y.ktab ∧ fr.seg = y.seg ∧ fr.code = l)
      ∧ (readSegment s core y = (u, .fail cause inner) → exec .segmentCopyLand s = .next (failSegment u core y cause inner))))

/-- R183, R185, R362: an operator that is ending, none of whose accesses or requests is outstanding, retires and its completion record is posted with the cause of its failure if it failed; one that has run past its partition's deadline, in microseconds since its admission and where it is not 0 (log 41), fails with DEADLINE. R414, R185: a waiting record is written when its ring has room, and the ring's count rises; with completions coalesced, the close of a window writes its last record again with the number of records in it. Completes: operatorComplete, operatorDeadline, completionWindowClose, ringRecordWrite. Rests also on the model's own choices and readings: log 6, 26, 41, 63. -/
def Obligations.OperatorEndAndRecords : Prop :=
  (∀ (s : State) (o : Operator), opOf s s.sel.num = some o →
    (o.phase = .ending → o.weir = none → storesOut s o = false → sendsOut s s.sel.num o = false →
      exec .operatorComplete s = .next (postCompletion (retireOp s s.sel.num o) o.part o.seq o.stream (o.fail.map (·.1)))
      ∧ ∃ o', opOf (retireOp s s.sel.num o) s.sel.num = some o' ∧ o'.phase = .retired)
    ∧ (∀ t, o.admitted = some t → o.phase = .running → (partOf s o.part).deadline ≠ 0 → t + 940 * (partOf s o.part).deadline < s.cycle → exec .operatorDeadline s = .next (failOp s s.sel.num 0x67 0)))
  ∧ (∀ (s : State) (r : HostRing) (data : List Byte) (rest : List (List Byte)) (t n : Nat),
    let p := partOf s s.sel.part
    (nth p.rings s.sel.idx = some r → r.waiting = data :: rest → ringRoom s s.sel.part r = true → (s.sel.idx ≠ 0 ∨ windowOver s p = false) →
      ∃ u, exec .ringRecordWrite s = .next u ∧ nth (partOf u s.sel.part).rings s.sel.idx = some { r with written := r.written + 1, waiting := rest }
        ∧ ∃ imm, u.sent = s.sent ++ [.record s.sel.part s.sel.idx r.qp r.written (r.addr + 32 * (r.written % r.count)) r.key imm (withWaiters s s.sel.part s.sel.idx data)])
    ∧ (p.window = some (t, n, data) → nth p.rings 0 = some r → t + 940 * p.wincoal.toNat ≤ s.cycle →
      exec .completionWindowClose s = .next { setPart s s.sel.part { p with window := none } with
        sent := s.sent ++ [.record s.sel.part 0 r.qp (r.written - 1) (r.addr + 32 * ((r.written - 1) % r.count)) r.key (some n) data] }))

/-- R363, R364, R366: a walk that ends answers every miss that joined it: a leaf allowing the access goes, with A and for a write D set, into the TLB; a failure, or a leaf that does not allow it, answers the waiters; a report not answered within FLTTMO fails its waiters with FAULT_TIMEOUT. R198, R201, R398: a walk of a partition's page table that succeeds ends at a leaf all of whose page lies in slices of the partition, is aligned to its size, and covers the address. R212 to R214: a line fill is counted for its frame, up to 65,535; at the end of an epoch of a partition on a die its hottest pages are sealed and its counts there start again; a sealed page that no earlier write is on its way to is switched: its bytes stand at the new frame, its leaf names that frame, and its old translation is gone from every TLB. Completes: migrationEpochEnd, migrationSwitch, walkComplete, faultTimeout. Rests also on the model's own choices and readings: log 14, 38, 64. -/
def Obligations.TranslationAndMigration : Prop :=
  (∀ (s : State) (w : Walk) (j : WalkJoin) (l : Leaf) (e : WalkFail) (r : Report),
    let u : State := { s with walks := dropNth s.walks s.sel.idx }
    (nth s.walks s.sel.idx = some w → walkRuns s s.sel.idx w = true →
      exec .walkComplete s = .next (w.joined.foldl (fun s j => answerMiss s w j) u))
    ∧ (nth s.walks s.sel.idx = some w → walkRuns s s.sel.idx w = true → w.joined = [j] →
      (walk u w.part (missVa w j) = .ok l → leafAllows l j.need = true →
        ∃ t, exec .walkComplete s = .next t ∧ t.walks = dropNth s.walks s.sel.idx
          ∧ ∃ x, (tget [] t.tlbs w.tlb).head? = some x ∧ x.part = w.part ∧ x.base = l.base ∧ x.size = l.size ∧ x.leaf = BitVec.ofNat 64 (l.word ||| (if j.need.testBit 1 then 0x600 else 0x200)))
      ∧ (walk u w.part (missVa w j) = .ok l → leafAllows l j.need = false → exec .walkComplete s = .next (failMiss u w j .denied))
      ∧ (walk u w.part (missVa w j) = .error e → exec .walkComplete s = .next (failMiss u w j e)))
    ∧ (nth s.reports s.sel.idx = some r → serviced s r.part = true → r.since + 940 * (partOf s r.part).flttmo.toNat ≤ s.cycle → exec .faultTimeout s = .next (failReport s r 0x31)))
  ∧ (∀ (s : State) (part va : Nat) (l : Leaf), walk s part va = .ok l →
    l.word.testBit 0 = true ∧ l.frame % l.size = 0 ∧ l.frame + l.size ≤ tierSize l.tier
    ∧ hasSlice (partOf s part) (ownerSlice l.home l.tier l.frame) = true ∧ hasSlice (partOf s part) (ownerSlice l.home l.tier (l.frame + l.size - 1)) = true
    ∧ l.base ≤ va ∧ va < l.base + l.size ∧ l.base % l.size = 0)
  ∧ (∀ (s : State) (m : Migration),
    let part := s.sel.part
    let die := s.sel.die
    let p := partOf s part
    let l := migratable s part die
    (s.sel.flag = true → exec .migrationEpochEnd s = .next { s with pageCount := tset s.pageCount s.sel.idx (min 65535 (tget 0 s.pageCount s.sel.idx + s.sel.num)) })
    ∧ (s.sel.flag = false → p.live = true → p.migctl.getLsbD 31 = true → bitsOf p.migctl.toNat 16 8 ≠ 0 → p.checkpoint = false → tget 0 p.epochAt die + bitsOf p.migctl.toNat 16 8 * 65536 ≤ arithAt s die →
      ∃ t, exec .migrationEpochEnd s = .next t ∧ t.migrations = (takeHot s part ((promoteList p l).take 64) (demoteList p l)).migrations ∧ tget 0 (partOf t part).epochAt die = arithAt s die
        ∧ t.pageCount = s.pageCount.filter (fun e => !(keyDie (e.1 * 65536) = die && partOfSlice s (keySlice (e.1 * 65536)) = part)))
    ∧ (nth s.migrations s.sel.idx = some m → writesAhead s m = false → s.migrations.any (fun x => x != m && x.oldKey / 65536 = m.newFrame) = false →
      ∃ t, exec .migrationSwitch s = .next t ∧ t.migrations = s.migrations.filter (fun x => x != m)
        ∧ (∀ tlb e, e ∈ tget [] t.tlbs tlb → e.part = m.part → e.base + e.size ≤ m.page ∨ m.page + 65536 ≤ e.base)
        ∧ (let src := m.oldKey / 65536
          memWf s = true → src ≠ m.newFrame → keySpace (src * 65536) ≠ 3 → keySpace (m.newFrame * 65536) ≠ 3 → m.leaf % 8 = 0 → m.leaf / 65536 ≠ src → m.leaf / 65536 ≠ m.newFrame →
            mem64 t m.leaf = leafWord m.newFrame m.newTier m.die (mem64 s m.leaf) % 2 ^ 64
            ∧ ∀ i, i < 65536 → cellGet t.mem (m.newFrame * 65536 + i) = cellGet s.mem (src * 65536 + i))))

/-- R373, R380, R382, R404: an action of the Weir on a tensor that nothing holds is carried out: a drop leaves the tensor DROPPED, another moves its pages and gives it the state of its destination; the reserve's drain starts the conversion of the tensor that holds its oldest entry (shown where HBM4E has the frames for it); a compressed block for which no run is free is kept as log 28 says; a record is created ABSENT, an image is loaded into the frames found for it, and a deleted tensor's record is gone. R386 to R388: a recompute whose operator has ended well leaves its tensor in the state of its place and releases its inputs and its waiters; one whose operator failed, or whose input failed, fails the recomputes that wait for it and delivers the failure to its waiters. Completes: weirActionSwitch, reserveDrain, recomputeComplete, recomputeFail, tensorImageLoad, tensorDelete, tensorCreate. Rests also on the model's own choices and readings: log 28, 37, 38, 65. -/
def Obligations.WeirAndRecomputes : Prop :=
  (∀ (s : State) (a : WeirAct) (t : Tensor),
    let part := s.sel.part
    let leaves := leavesOf s a.part t
    let new : Tensor := { s.sel.ten with id := s.sel.ten.id % 0x100000, state := 0, nextuse := 0xFFFFFFFF, pin := 0, depth := 0, busy := false, incomp := false }
    (nth s.acts s.sel.idx = some a → tensorOf s a.part a.tid = some t → sealedPage s a.part t = false → accessesAhead s a.part t = false → victimAhead s s.sel.idx a = false →
      (a.act = 3 → exec .weirActionSwitch s = .next (endAct (dropPages s leaves) a t 5))
      ∧ (a.act ≠ 3 → leaves.any (fun l => l.tier = 3 && !pageDecodes s (frameOf l)) = false →
        exec .weirActionSwitch s = .next (endAct (movePages s (leaves.zip a.frames) (if a.dest = 4 then 2 else if a.dest = 3 then 3 else if a.dest = 1 then 0 else 1)) a t a.dest)))
    ∧ (∀ r k fs u, s.reserve.find? (fun r => r.slice / 8 = s.sel.die) = some r →
      s.tensors.find? (fun e => e.1 / 0x100000 = partOfSlice s r.slice && (leavesOf s (partOfSlice s r.slice) e.2).any (fun l => frameOf l = r.line / 512)) = some (k, t) →
      t.busy = false → managed s (partOfSlice s r.slice) t = true → (partOf s (partOfSlice s r.slice)).checkpoint = false → t.pages ≤ freeOn s (partOfSlice s r.slice) t.home 1 →
      takeFrames s (slicesOn s (partOfSlice s r.slice) t.home) 1 t.pages = some (fs, u) → exec .reserveDrain s = .next (startAct u (partOfSlice s r.slice) t 5 2 fs))
    ∧ ((partOf s part).live = true → tensorOf s part new.id = none → (s.tensors.filter (fun e => e.1 / 0x100000 = part)).length < (partOf s part).recordCap → s.sel.flag = false →
      exec .tensorCreate s = .next (setTensor s part new))
    ∧ (tensorOf s part s.sel.num = some t → t.state = 0 → t.busy = false → ∀ u place, placeTensor s part t = (u, .ok place) →
      exec .tensorImageLoad s = .next (tensorStore (setTensor u part { t with state := place }) part t.id 0 (s.sel.data.take t.extent)))
    ∧ (tensorOf s part s.sel.num = some t → t.id = s.sel.num → s.sel.num < 0x100000 → t.busy = false → sealedPage s part t = false → accessesAhead s part t = false → s.recomputes.any (fun r => r.part = part && r.tid = t.id) = false →
      ∃ u, exec .tensorDelete s = .next u ∧ tensorOf u part s.sel.num = none))
  ∧ (∀ (s : State) (r : Recompute) (o : Operator) (t : Tensor) (id : Nat), nth s.recomputes s.sel.idx = some r → tensorOf s r.part r.tid = some t →
    let ws := recomputeWaiters s r
    let ids := (s.ctxs.filter (fun e => e.2.running && e.2.block = some (.suspended r.part r.tid))).map (·.1)
    let u := unpinInputs (setTensor (retireOp s id o) r.part { t with state := r.place, depth := 0 }) r
    let v : State := { dropRecompute u r with retry := u.retry.filter (fun x => !(x.1 = r.part && x.2.1 = r.tid)) ++ ws.map (fun w => (r.part, r.tid, w)) }
    (r.op = some id → opOf s id = some o → o.phase = .ending → storesOut s o = false → sendsOut s id o = false →
      (o.fail = none → exec .recomputeComplete s = .next (clearSaved (ids.foldl (fun s i => acquireAt s (i / 4) 4) v) (.suspended r.part r.tid)))
      ∧ (∀ c d, o.fail = some (c, d) → sealedPage s r.part t = false → exec .recomputeFail s = .next (
          let w := unpinInputs (failParents (retireOp s id o) r 0x54 r.tid c) r
          let w := match tensorOf w r.part r.tid with | some t => tlbDrop (dropPages w (leavesOf w r.part t)) r.part t.vbase (t.vbase + t.pages * 65536) | none => w
          deliverFailure (dropRecompute w r) r 0x54 r.tid c)))
    ∧ (∀ cause failed inner, r.op = none → r.failed = some (cause, failed, inner) → r.place = 0 →
      exec .recomputeFail s = .next (deliverFailure (dropRecompute (unpinInputs (failParents s r cause failed inner) r) r) r cause failed inner)))

/-- R391, R393, R396, R416: a busy core whose partition pre-empts for priority asks for the save of its victim once that has run its quantum; for a resize the Wellhead asks for a context of a slice that leaves; the host's PREEMPT asks for the context it names and completes; a requested context that has settled and whose demand is ten blocks or fewer is saved into the first free area. R393, R397: a context whose state is written to its area leaves its core idle, and stands among the saved tasks with everything it held (a wait for a tensor that is over left out); where a store to the area fails its check, its operator fails with 0x6D instead. Completes: preemptRequest, contextSave, preempt. Rests also on the model's own choices and readings: log 45, 46. -/
def Obligations.Preemption : Prop :=
  (∀ (s : State) (c : Command) (x why area : Nat) (rest : List Nat),
    let core := s.sel.core
    let part := partOfCore s core
    let p := partOf s part
    let aged := applyAging s (dieOfCore core)
    let id := ctxId core (s.sel.ctx % 4)
    let named := ctxId c.a16 (c.a32 % 4)
    (s.sel.flag = false → part < 8 → p.prectl.getLsbD 31 = true → (∀ y, y < 4 → (ctxOf s (ctxId core y)).running = true ∧ (ctxOf s (ctxId core y)).preq = none) →
      preemptVictim aged core = some x → bitsOf p.prectl.toNat 0 16 * 1024 ≤ arithAt aged (dieOfCore core) - (ctxOf aged (ctxId core x)).since →
      exec .preemptRequest s = .next (requestSave aged (ctxId core x) 0))
    ∧ (s.sel.flag = true → s.sel.keep = false → (leaving (partOf s (partOfSlice s (core / 8)))).getLsbD (core / 8) = true → (ctxOf s id).running = true → (ctxOf s id).halted = false →
      exec .preemptRequest s = .next (requestSave s id 1))
    ∧ ((tget [] s.commands s.sel.part).head? = some c → c.code = 3 → c.unknown = false → c.a16 < 256 → partOfCore s c.a16 = s.sel.part → (ctxOf s named).running = true → (ctxOf s named).halted = false →
      exec .preempt s = .next (endCommand (requestSave s named 3) s.sel.part c none))
    ∧ ((ctxOf s id).preq = some why → p.saveAreas = area :: rest → (ctxOf s id).running = true → (ctxOf s id).halted = false → entering (ctxOf s id) = false → saveDemand s id ≤ 10 → settled s id = true → areaHeld s part area (saveImage s id why (saveSet s id)) = false →
      exec .contextSave s = .next (saveCtx s id why area)))
  ∧ (∀ (s : State) (id why area : Nat),
    match writeImage s (partOfCore s (id / 4)) area (saveImage s id why (saveSet s id)) with
    | none => saveCtx s id why area = failOp s (ctxOf s id).op 0x6D (id / 4)
    | some _ => ∃ x b, x.ctx = { ctxOf s id with block := b } ∧ (b = (ctxOf s id).block ∨ b = none ∧ ∃ p t, (ctxOf s id).block = some (.suspended p t)) ∧ x.core = id / 4 ∧ x.area = area ∧ x ∈ (saveCtx s id why area).saved ∧ (ctxOf (saveCtx s id why area) id).running = false)

/-- R371, R398, R400, R401, R406: a partition is made out of free slices and group entries; its reset fails all its operators with 0x7C, ends what it runs (contexts, calls, copies, streams, kernels, saved tasks, recomputes) and leaves its slices zeroed; a resize begins with its hold and ends once the leaving slices are quiet; after its limit the operators that still use a leaving slice fail; a domain map takes effect, a device number is set, and a device taken out of its domain has empty maps. Completes: partitionResize, resizeTimeout, partitionReset, partitionCreate, domainMapChange. Rests also on the model's own choices and readings: log 44, 47, 48, 49. -/
def Obligations.PartitionRows : Prop :=
  ∀ (s : State) (t : Nat) (w : W32),
    let part := s.sel.part
    let p := partOf s part
    let c := s.sel.cfg
    let new : W32 := BitVec.ofNat 32 s.sel.word.toNat
    (part < 8 → c.slices ≠ 0 → c.groupHi ≤ 256 → attachmentGood c = true → (∀ e, e ∈ s.parts → e.2.live = true → e.1 ≠ part ∧ e.2.slices &&& c.slices = 0 ∧ meets c.groupLo c.groupHi e.2.groupLo e.2.groupHi = false) →
      ∃ u, exec .partitionCreate s = .next u ∧ partOf u part = newPartition s c ∧ (partOf u part).live = true)
    ∧ (p.live = true → ∃ u, exec .partitionReset s = .next u ∧ u.remotes = (failAll s part 0x7C).remotes.filter (fun r => r.part != part) ∧ (∀ tid, tid < 0x100000 → tensorOf u part tid = none)
        ∧ (∀ a, inSlices (partOf u part).slices (keySlice a) = true → cellGet u.mem a = 0)
        ∧ (∀ id o, opOf s id = some o → o.part = part → o.phase ≠ .retired → ∃ o', opOf u id = some o' ∧ o'.phase = .retired ∧ o'.fail = some (0x7C, 0))
        ∧ (∀ id, inSlices p.slices (id / 32) = true → ctxOf u id = Ctx.idle)
        ∧ (∀ c, inSlices p.slices (c / 8) = true → (coreOf u c).queue = [] ∧ (coreOf u c).mcall = none ∧ (coreOf u c).resumed = [] ∧ (coreOf u c).copies = [])
        ∧ (∀ i, inSlices p.slices (lakeSlice i) = true → (lakeOf u i).run = none ∧ (lakeOf u i).buf = [])
        ∧ (∀ r, r ∈ u.streams → r.op.part ≠ part) ∧ (∀ o, o ∈ u.joins → o.part ≠ part) ∧ (∀ x, x ∈ u.saved → x.part ≠ part) ∧ (∀ r, r ∈ u.recomputes → r.part ≠ part))
    ∧ (p.live = true → p.resize = none → new &&& p.slices ≠ 0 → (∀ i, i < 32 → inSlices (new &&& ~~~p.slices) i = true → partOfSlice s i = 8) → exec .partitionResize s = .next (holdResize s part new))
    ∧ (p.live = true → p.resize = some (w, t) → quiesced s (leaving p) = true → drainedCores s part (leaving p) = true → exec .partitionResize s = .next (finishResize s part w))
    ∧ (p.resize = some (w, t) → t + 940 * p.resizetmo.toNat ≤ s.cycle → ∃ u, exec .resizeTimeout s = .next u ∧ u.ops = ((usingLeaving s (leaving p)).foldl (fun s id => failOp s id 0x7C 0) s).ops)
    ∧ (s.sel.flag = true → s.sel.num < 192 → exec .domainMapChange s = .next { s with devnum := s.sel.num })
    ∧ (s.sel.flag = true → 192 ≤ s.sel.num → ∃ u, exec .domainMapChange s = .next u ∧ u.devnum = 0xFF ∧ ∀ i, (partOf s i).live = true → (partOf u i).map = [])
    ∧ (s.sel.flag = false → p.live = true → s.devnum < 192 → (∀ d, d ∈ p.map → (tfind c.map d.1).isSome = true) → exec .domainMapChange s = .next (setPart s part { p with map := c.map }))

/-- R415, R416: a valid command word takes its new record behind those already read; a record that no step can perform is answered with the completion COMMAND_BAD as it reaches the head, at once (where nothing stands before it) or as the command before it ends; a word that announces more than the ring holds is answered with COMMAND_BAD. R416: the commands that act on streams, operators, translations, faults, groups and queue pairs, each at the head of its partition's ring. CLEAR_STREAM fails the stream's operators and lets it go on; CANCEL fails the operators of its SEQ; INVALIDATE drops the cached translations of its range and ends once no earlier access to it is outstanding; FAULT_ANSWER resolves a report; GROUP_DOMAIN sets a group's DMASK; QP_RESET returns a pair from its error state. Completes: commandWordWrite, clearStream, cancel, invalidate, faultAnswer, groupDomain, qpReset. Rests also on the model's own choices and readings: log 42, 50. -/
def Obligations.Commands : Prop :=
  (∀ (s : State) (l : List Byte),
    let part := s.sel.part
    let v := s.sel.word.toNat
    let u := tensorStore s part (partOf s part).submission 0x800008 (leBytes v 8)
    let p := partOf u part
    let c := parseCommand l
    let before := tget [] u.commands part
    (partOf s part).live = true → heldTensor s part (partOf s part).submission 0x800008 8 = false →
    (v / 2 ^ 32 % 2 ^ 16 = 0 → v / 2 ^ 56 = 0 → p.cmdHead + 1 = BitVec.ofNat 32 v → tensorBytes u part p.submission (0x801000 + 32 * (p.cmdHead.toNat % 256)) 32 = some l →
      ((∀ d, (before ++ [c]).head? = some d → d.unknown = false) →
        ∃ t, exec .commandWordWrite s = .next t ∧ tget [] t.commands part = before ++ [c] ∧ partOf t part = { p with cmdHead := p.cmdHead + 1, cmdTail := p.cmdHead + 1 })
      ∧ (before = [] → c.unknown = true → ∃ t, exec .commandWordWrite s = .next t ∧ tget [] t.commands part = [] ∧ (partOf t part).cmdHead = p.cmdHead + 1
        ∧ ∀ r, nth p.rings 0 = some r → nth (partOf t part).rings 0 = some { r with waiting := r.waiting ++ [completionBytes c.seq 0xFE 0x6B true u.cycle] }))
    ∧ (256 < (BitVec.ofNat 32 v - p.cmdHead).toNat → exec .commandWordWrite s = .next (postCompletion u part 0 0xFE (some 0x6B))))
  ∧ (∀ (s : State) (c d : Command) (rest : List Command) (fail : Option Nat),
    let part := s.sel.part
    let posted := postCompletion { s with commands := tset s.commands part (d :: rest) } part c.seq 0xFE fail
    tget [] s.commands part = c :: d :: rest →
      (d.unknown = false → tget [] (endCommand s part c fail).commands part = d :: rest)
      ∧ (d.unknown = true → (∀ e, rest.head? = some e → e.unknown = false) → tget [] (endCommand s part c fail).commands part = rest
        ∧ ∀ r, nth (partOf posted part).rings 0 = some r → nth (partOf (endCommand s part c fail) part).rings 0 = some { r with waiting := r.waiting ++ [completionBytes d.seq 0xFE 0x6B true s.cycle] }))
  ∧ (∀ (s : State) (c : Command) (r : Report) (m : List Byte) (q : QPair),
    let part := s.sel.part
    let p := partOf s part
    let hi := c.a64 + c.b64
    let fails (cause detail : Nat) (pick : Operator → Bool) : State :=
      ((s.ops.filter (fun e => e.2.part = part && pick e.2 && e.2.weir.isNone && e.2.phase != .retired)).map (·.1)).foldl (fun s id => failOp s id cause detail) s
    (tget [] s.commands part).head? = some c → c.unknown = false →
      (c.code = 1 → c.a16 < 64 → exec .clearStream s = .next (endCommand (setStreamOf (fails 0x66 c.a16 (fun o => o.stream = c.a16)) part c.a16 (fun x => { x with head := x.tail, stopped := false })) part c none))
      ∧ (c.code = 1 → 64 ≤ c.a16 → exec .clearStream s = .next (endCommand s part c (some 0x6C)))
      ∧ (c.code = 2 → exec .cancel s = .next (endCommand (fails 0x68 0 (fun o => o.seq.toNat = c.a64)) part c none))
      ∧ (c.code = 4 → c.phase = 0 → ∃ t, exec .invalidate s = .next t ∧ ∀ tlb e, e ∈ tget [] t.tlbs tlb → e.part = part → hi ≤ e.base ∨ e.base + e.size ≤ c.a64)
      ∧ (c.code = 4 → c.phase ≠ 0 → s.remotes.any (fun r => r.part = part && decide (r.id < c.phase) && remoteMeets s r c.a64 hi) = false → exec .invalidate s = .next (endCommand s part c none))
      ∧ (c.code = 5 → s.reports.find? (fun r => r.part = part && r.seq = c.a16) = some r →
        exec .faultAnswer s = .next (if c.a32 = 0 then endCommand (resolveStreams (dropReport s part r.seq) part r.seq none) part c none
          else if c.a32 = 1 then endCommand (failReport s r 0x30) part c none else if c.a32 = 2 then endCommand (failReport s r 0x32) part c none else endCommand s part c (some 0x6B)))
      ∧ (c.code = 8 → p.groupLo ≤ c.a16 → c.a16 < p.groupHi → c.a64 % 8 = 0 → groupUsed s part c.a16 = false → tensorBytes s part p.submission c.a64 24 = some m → (tensorBytes s part p.groupTensor (64 * c.a16 + 40) 24).isSome = true → heldTensor s part p.groupTensor (64 * c.a16 + 40) 24 = false →
        exec .groupDomain s = .next (endCommand (tensorStore (setGroup (touchTensor s part p.submission c.a64 24) c.a16 { groupOf s c.a16 with dmask := BitVec.ofNat 192 (leNat m) }) part p.groupTensor (64 * c.a16 + 40) m) part c none))
      ∧ (c.code = 9 → tfind p.qps c.a16 = some q → q.error = true →
        exec .qpReset s = .next (endCommand (setPart s part { p with qps := tset p.qps c.a16 { q with error := false, taken := 0, doors := [], posted := [] } }) part c none)))

/-- R419, R426, R427, R429, R441: the commands that write or read images, graphs and reports. CHECKPOINT stops admission, sends the image once the partition is at rest, then writes its record, and once that is out lets admission go on; RESTORE asks for the image and, when it comes, recreates an empty partition from its image; GRAPH_LAUNCH submits a graph's nodes in order, GRAPH_PATCH replaces one, GRAPH_ABORT fails a replay's unretired nodes; ATTEST writes the signed report after its nonce; HEALTH writes the health block. Completes: checkpoint, restore, graphLaunch, graphPatch, graphAbort, attest, health. Rests also on the model's own choices and readings: log 50, 51, 58, 59. -/
def Obligations.ImageCommands : Prop :=
  ∀ (s u : State) (c : Command) (nodes : List (List Byte)) (l : List Byte) (n : Nat),
    let part := s.sel.part
    let p := partOf s part
    let tid := c.a32 % 2 ^ 20
    let aborts := s.ops.filterMap (fun e => match e.2.replay with | some (n, i) => if e.2.part = part && n = c.a64 && e.2.phase != .retired then some (e.1, i) else none | none => none)
    let report := reportBody s l ++ sized (Config.identitySign (reportBody s l)) 29792
    let written := postCompletion { s with sent := s.sent ++ [.image part c.a64 c.a32 (imageBytes s part (c.a16 % 2 = 1))] } part c.seq 0xFE none
    (tget [] s.commands part).head? = some c → c.unknown = false →
      (c.code = 6 → c.phase = 0 → ∃ t, exec .checkpoint s = .next t ∧ (partOf t part).checkpoint = true ∧ (tget [] t.commands part).head? = some { c with phase := 1 })
      ∧ (c.code = 6 → c.phase = 1 → atRest s part = true → s.sel.flag = false →
        exec .checkpoint s = .next (stageCommand written part { c with phase := 2, due := recordsDue (partOf written part) }))
      ∧ (c.code = 6 → c.phase = 2 → recordsOut p c.due = true → exec .checkpoint s = .next (dropCommand (resumePart s part) part))
      ∧ (c.code = 7 → s.ops.any (fun e => e.2.part = part && e.2.phase != .retired) = false → s.tensors.any (fun e => e.1 / 0x100000 = part) = false → c.phase = 0 →
        exec .restore s = .next (stageCommand { s with sent := s.sent ++ [.imageRead part c.a64 c.a32] } part { c with phase := 1 }))
      ∧ (c.code = 7 → s.ops.any (fun e => e.2.part = part && e.2.phase != .retired) = false → s.tensors.any (fun e => e.1 / 0x100000 = part) = false → c.phase ≠ 0 → s.sel.flag = false → restoreImage s part (c.a16 % 2 = 1) s.sel.data = some u →
        exec .restore s = .next (endCommand u part c none))
      ∧ (c.code = 10 → graphCount s part tid = some n → graphNodes s part tid n = some nodes → c.a16 < 64 →
        exec .graphLaunch s = .next (endCommand ((nodes.zip (List.range nodes.length)).foldl (fun s x => submitRecord s part c.a16 (some (c.a64, x.2)) x.1) (touchTensor s part tid 0 (64 + 128 * nodes.length))) part c none))
      ∧ (c.code = 11 → graphCount s part tid = some n → c.a16 < n → tensorBytes s part p.submission c.a64 128 = some l → recordBad s part (parseOperator part 0 l) = false → (tensorBytes s part tid (64 + 128 * c.a16) 128).isSome = true → heldTensor s part tid (64 + 128 * c.a16) 128 = false →
        exec .graphPatch s = .next (endCommand (tensorStore (touchTensor (touchTensor s part tid 0 64) part p.submission c.a64 128) part tid (64 + 128 * c.a16) l) part c none))
      ∧ (c.code = 12 → exec .graphAbort s = .next (endCommand (aborts.foldl (fun s x => failOp s x.1 0x6A x.2) s) part c none))
      ∧ (c.code = 13 → tensorBytes s part p.submission c.a64 32 = some l → (tensorBytes s part p.submission (c.a64 + 32) 30160).isSome = true → heldTensor s part p.submission (c.a64 + 32) 30160 = false →
        exec .attest s = .next (endCommand (tensorStore (touchTensor s part p.submission c.a64 32) part p.submission (c.a64 + 32) report) part c none))
      ∧ (c.code = 14 → c.a64 % 64 = 0 → (tensorBytes s part p.submission c.a64 1024).isSome = true → heldTensor s part p.submission c.a64 1024 = false →
        exec .health s = .next (endCommand (tensorStore s part p.submission c.a64 (healthBlock s true)) part c none))

/-- R417, R418: a port takes the next announced request of a queue pair and sends its data; the acknowledged oldest request leaves and the completed count rises; the peer's errors and exhausted retries put the pair into its error state; a write from outside to a registered tensor is performed, and the words of the submission tensor that it covers are taken. R362, R410, R437, R438, R440: a port that loses its link is noted, with a notice LINK_DOWN to every partition; an engine taken offline faults its operations with ENGINE_OFFLINE (shown of those that wait for no other, by their tokens); a rail alarm is raised above 900 A over 10 µs or 700 A over 1 ms, and cleared after 1 ms below 650 A; a die's clock is lowered above 105 °C, again when the die has stayed above it for ten milliseconds, and restored below 100 °C, step by step, ten milliseconds apart; above 115 °C the module stops; a power failure holds it in reset; ten minutes after the last write the gathered counts are added to the health block in flash. R369, R370, R439: a hardware error, when its turn comes: one that is corrected changes no memory, no context and no poison, and counts in ERRCNT of the core whose storage it lies in; an uncorrectable one poisons its sector and nothing else of memory; in a stopped module nothing happens. Completes: rdmaRequest, rdmaRequestComplete, inboundRdmaWrite, linkDown, coreRailAlarmRaise, coreRailAlarmClear, thermalClockLower, thermalClockRestore, thermalTrip, healthBlockSave, engineOffline, rdmaRetryExceeded, powerFail. Rests also on the model's own choices and readings: log 52, 53, 54, 55, 66, 79. -/
def Obligations.LinksAndPower : Prop :=
  (∀ (s u : State) (q : QPair) (d : W32 × Nat × Nat) (id kind uid : Nat) (l data : List Byte) (rest : List (Nat × Nat × Nat × List Byte)) (tid : Nat) (segs : List Seg),
    let part := s.sel.part
    let n := s.sel.num
    let p := partOf s part
    let taken (z : State) (off : Nat) (take : State → W64 → State) : State :=
      if tid = p.submission && touchesWord s.sel.num s.sel.data.length off then (match tensorBytes z part tid off 8 with | some l => take z (BitVec.ofNat 64 (leNat l)) | none => z) else z
    (tfind p.qps n = some q →
      (q.doors.find? (fun d => doorOpen q d.1) = some d → q.error = false → opOfLaunch s part d.2.1 = some id → tensorBytes s part q.tid (q.sqOff + 64 * (q.taken % max 1 q.sqCount)) 64 = some l →
        ((∀ t, tensorOf s part q.tid = some t → tensorPoisoned s part t (q.sqOff + 64 * (q.taken % max 1 q.sqCount)) 64 = false) → heldRead s part q.tid (q.sqOff + 64 * (q.taken % max 1 q.sqCount)) 64 = false →
          exec .rdmaRequest s = .next (takeRequest (touchTensor s part q.tid (q.sqOff + 64 * (q.taken % max 1 q.sqCount)) 64) part n q id d.2.2 (parseWork l)))
        ∧ (∀ t, tensorOf s part q.tid = some t → tensorPoisoned s part t (q.sqOff + 64 * (q.taken % max 1 q.sqCount)) 64 = true → exec .rdmaRequest s = .next (failQp s part n q (some id) 0x3E)))
      ∧ (q.posted = (id, kind, uid, data) :: rest → s.sel.flag = false → s.sel.keep = false → kind ≠ 3 → heldTensor s part q.tid (q.dbOff + 4) 8 = false → exec .rdmaRequestComplete s = .next (countCompleted (setQp s part n { q with posted := rest }) part { q with posted := rest }))
      ∧ (q.posted = (id, kind, uid, data) :: rest → s.sel.flag = true → exec .rdmaRequestComplete s = .next (failQp s part n { q with posted := rest } (some id) 0x3C))
      ∧ (q.posted = (id, kind, uid, data) :: rest → q.reliable = true → exec .rdmaRetryExceeded s = .next (failQp s part n { q with posted := rest } (some id) 0x3B)))
    ∧ (tfind p.qps s.sel.idx = some q → q.error = false → tfind p.keys (s.sel.word.toNat % 2 ^ 32) = some tid → refTensor s part tid 0 none = (u, .ok) → tensorSegs u part tid s.sel.num s.sel.data.length = some segs → heldWrite u u.fresh segs = false →
      exec .inboundRdmaWrite s = .next (taken (taken (tensorStore u part tid s.sel.num s.sel.data) 0x800000 (fun s v => takeSubmission s part v)) 0x800008 (fun s v => takeCommands s part v))))
  ∧ (∀ (s : State),
    let d := s.sel.die
    let x := dieOf s d
    let read := readMonitors s d
    let y := dieOf read d
    let port := s.sel.num
    let core := s.sel.core
    (s.sel.flag = false → port < 24 → tget false s.links port = false → ∃ t, exec .linkDown s = .next t ∧ tget false t.links port = true
      ∧ ((s.parts.map (·.1)).Nodup → ∀ i r, (partOf s i).live = true → nth (partOf s i).rings 2 = some r →
        nth (partOf t i).rings 2 = some { r with waiting := r.waiting ++ [noticeBytes 0 5 0 ((r.written + r.waiting.length) % 65536) 0x7E (if port < 16 then 0xB0 + port else 0xC0 + (port - 16)) s.cycle] }))
    ∧ (∃ t, exec .engineOffline s = .next t ∧ unitOffline t core port = true
      ∧ ∀ o, o ∈ liveOps s → o.core = core → unitOf o.opc = unitOf port → (∀ x, x ∈ s.joins ++ liveOps s → x.id = o.id → x.opc ≠ 3 ∧ x.ready = true ∧ x.inherited = none) →
        ∀ id k f, readK (ctxOf s id) k = ⟨.pend, f, o.id⟩ → (readK (ctxOf t id) k).st = .fault ∧ (readK (ctxOf t id) k).fr.cause = 0x46)
    ∧ (d < 4 → y.alarm = false → 9000 < amps10 y ∨ 700000 < amps1000 y → ∃ t, exec .coreRailAlarmRaise s = .next t ∧ (dieOf t d).alarm = true)
    ∧ (y.alarm = true → 1000 ≤ y.low → exec .coreRailAlarmClear s = .next (setDie read d { y with alarm := false }))
    ∧ (d < 4 → x.clock = 940 → 1050 < x.temp → ∃ t, exec .thermalClockLower s = .next t ∧ dieOf t d = { x with clock := 705, changed := s.cycle, arith := x.arith + (s.cycle - x.changed) * 940 })
    ∧ (∀ t0, d < 4 → x.clock = 705 → 1050 < x.temp → x.hot = some t0 → t0 + 9400000 ≤ s.cycle → x.changed + 9400000 ≤ s.cycle → ∃ t, exec .thermalClockLower s = .next t ∧ dieOf t d = { x with clock := 470, changed := s.cycle, arith := x.arith + (s.cycle - x.changed) * 705 })
    ∧ (∀ t0, d < 4 → x.clock ≠ 940 → x.cool = some t0 → t0 + 9400000 ≤ s.cycle → x.changed + 9400000 ≤ s.cycle →
      ∃ t, exec .thermalClockRestore s = .next t ∧ dieOf t d = { x with clock := if x.clock = 470 then 705 else 940, changed := s.cycle, arith := x.arith + (s.cycle - x.changed) * x.clock })
    ∧ (1150 < (dieOf s (d % 4)).temp → ∃ t, exec .thermalTrip s = .next t ∧ t.stopped = true)
    ∧ (∃ t, exec .powerFail s = .next t ∧ t.stopped = true ∧ t.rails = false ∧ t.unsaved = [] ∧ t.health = s.health ∧ t.ctxs = [] ∧ t.ops = [] ∧ t.parts = [])
    ∧ (s.sel.flag = false → s.sel.keep = false → s.savedAt + 564000000000 ≤ s.cycle → hoursDue s = 0 → ∀ off v, (monitored s).unsaved = [(off, v)] → ∃ t, exec .healthBlockSave s = .next t ∧ t.unsaved = []
        ∧ tget 0 t.health off = BitVec.ofNat 64 (min ((tget 0 s.health off).toNat + v.toNat) (2 ^ healthWidth off - 1))))
  ∧ (∀ (s u : State) (t : Turn) (x : Upset), takeTurn s = (t, u) → t.agent = .upset x →
    (u.stopped = true → step s = .next u)
    ∧ (u.stopped = false → step s = .next (upsetState u x))
    ∧ (∀ unit core slice place, unitGood unit = true → unitPlaced unit core slice = true →
      let v := upsetState u (.corrected unit core slice place)
      v.mem = u.mem ∧ v.sram = u.sram ∧ v.ctxs = u.ctxs ∧ v.poison = u.poison
      ∧ (coreOf v core).errcnt = (if unit / 16 = 0 ∨ (2 ≤ unit / 16 ∧ unit / 16 ≤ 5) then (if (coreOf u core).errcnt = 0xFFFFFFFF then 0xFFFFFFFF else (coreOf u core).errcnt + 1) else (coreOf u core).errcnt))
    ∧ (∀ l k, let v := upsetState u (.sector l)
      v.mem = u.mem ∧ v.sram = u.sram ∧ v.ctxs = u.ctxs ∧ tget false v.poison k = (if k = sectorOf l then true else tget false u.poison k)))

/-- R428, R429: once every rail is within tolerance, a module reset leaves nothing running and boots the first flash slot whose image verifies and is not below the fused version, measuring it into register 0; with none the module comes up in recovery mode, where an image that verifies is written to a slot. Completes: moduleReset, recoveryImageDownload. Rests also on the model's own choices and readings: log 56, 57, 58, 59. -/
def Obligations.BootRows : Prop :=
  ∀ (s : State),
    let n := afterReset s
    (s.rails = true → match ((tfind s.flash 0).filter (imageGood s)).or ((tfind s.flash 1).filter (imageGood s)) with
      | some image => ∃ t, exec .moduleReset s = .next t ∧ tget 0 t.measures 0 = extendMeasure 0 image ∧ t.recovery = false ∧ t.ctxs = [] ∧ t.ops = [] ∧ t.parts = []
      | none => exec .moduleReset s = .next { n with recovery := true })
    ∧ (s.rails = false → exec .moduleReset s = .next s)
    ∧ (s.recovery = true → s.sel.num < 2 → exec .recoveryImageDownload s = .next (if imageGood s s.sel.data then { s with flash := tset s.flash s.sel.num s.sel.data } else s))

end
end

