-- ==== Sys2Proof/Laws/State.lean ====
section
/-! SUPPORT. The state's and a context's fields under each named update, and reading back what an update wrote. -/

namespace Sys2Proof.Machine

/-! ### Tables -/

@[simp] theorem tget_tset_same {α : Type} (d : α) (t : Tab α) (k : Nat) (v : α) : tget d (tset t k v) k = v := by
  induction t with
  | nil => simp [tset, tget]
  | cons e r ih =>
    obtain ⟨j, w⟩ := e
    simp only [tset]
    split
    · simp [tget]
    · split
      · simp [tget]
      · rename_i h _
        simp [tget, h, ih]

@[simp] theorem tget_tset_other {α : Type} (d : α) (t : Tab α) (k l : Nat) (v : α) (h : l ≠ k) : tget d (tset t k v) l = tget d t l := by
  induction t with
  | nil => simp [tset, tget, Ne.symm h]
  | cons e r ih =>
    obtain ⟨j, w⟩ := e
    simp only [tset]
    split
    · rename_i hj
      subst hj
      simp [tget, Ne.symm h]
    · split
      · simp [tget, Ne.symm h]
      · simp [tget, ih]

@[simp] theorem tset_tset_same {α : Type} (t : Tab α) (k : Nat) (v w : α) : tset (tset t k v) k w = tset t k w := by
  induction t with
  | nil => simp [tset]
  | cons e r ih =>
    obtain ⟨j, x⟩ := e
    by_cases hj : j = k
    · simp [tset, hj]
    · by_cases hk : k < j
      · simp [tset, hj, hk]
      · simp [tset, hj, hk, ih]

@[simp] theorem tfind_tset_same {α : Type} (t : Tab α) (k : Nat) (v : α) : tfind (tset t k v) k = some v := by
  induction t with
  | nil => simp [tset, tfind]
  | cons e r ih =>
    obtain ⟨j, w⟩ := e
    simp only [tset]
    split
    · simp [tfind]
    · split
      · simp [tfind]
      · rename_i h _
        simp [tfind, h, ih]

@[simp] theorem tfind_tset_other {α : Type} (t : Tab α) (k l : Nat) (v : α) (h : l ≠ k) : tfind (tset t k v) l = tfind t l := by
  induction t with
  | nil => simp [tset, tfind, Ne.symm h]
  | cons e r ih =>
    obtain ⟨j, w⟩ := e
    simp only [tset]
    split
    · rename_i hj
      subst hj
      simp [tfind, Ne.symm h]
    · split
      · simp [tfind, Ne.symm h]
      · simp [tfind, ih]

@[simp] theorem tmod_def {α : Type} (d : α) (t : Tab α) (k : Nat) (f : α → α) : tmod d t k f = tset t k (f (tget d t k)) := rfl

/-! ### setCtx -/

@[simp] theorem setCtx_cycle (s : State) (i : Nat) (x : Ctx) : (setCtx s i x).cycle = s.cycle := rfl
@[simp] theorem setCtx_resets (s : State) (i : Nat) (x : Ctx) : (setCtx s i x).resets = s.resets := rfl
@[simp] theorem setCtx_fresh (s : State) (i : Nat) (x : Ctx) : (setCtx s i x).fresh = s.fresh := rfl
@[simp] theorem setCtx_turn (s : State) (i : Nat) (x : Ctx) : (setCtx s i x).turn = s.turn := rfl
@[simp] theorem setCtx_sched (s : State) (i : Nat) (x : Ctx) : (setCtx s i x).sched = s.sched := rfl
@[simp] theorem setCtx_sel (s : State) (i : Nat) (x : Ctx) : (setCtx s i x).sel = s.sel := rfl
@[simp] theorem setCtx_stage (s : State) (i : Nat) (x : Ctx) : (setCtx s i x).stage = s.stage := rfl
@[simp] theorem setCtx_cores (s : State) (i : Nat) (x : Ctx) : (setCtx s i x).cores = s.cores := rfl
@[simp] theorem setCtx_splitCode (s : State) (i : Nat) (x : Ctx) : (setCtx s i x).splitCode = s.splitCode := rfl
@[simp] theorem setCtx_splits (s : State) (i : Nat) (x : Ctx) : (setCtx s i x).splits = s.splits := rfl
@[simp] theorem setCtx_ro (s : State) (i : Nat) (x : Ctx) : (setCtx s i x).ro = s.ro := rfl
@[simp] theorem setCtx_mem (s : State) (i : Nat) (x : Ctx) : (setCtx s i x).mem = s.mem := rfl
@[simp] theorem setCtx_sram (s : State) (i : Nat) (x : Ctx) : (setCtx s i x).sram = s.sram := rfl
@[simp] theorem setCtx_granules (s : State) (i : Nat) (x : Ctx) : (setCtx s i x).granules = s.granules := rfl
@[simp] theorem setCtx_poison (s : State) (i : Nat) (x : Ctx) : (setCtx s i x).poison = s.poison := rfl
@[simp] theorem setCtx_tags (s : State) (i : Nat) (x : Ctx) : (setCtx s i x).tags = s.tags := rfl
@[simp] theorem setCtx_dirty3 (s : State) (i : Nat) (x : Ctx) : (setCtx s i x).dirty3 = s.dirty3 := rfl
@[simp] theorem setCtx_remotes (s : State) (i : Nat) (x : Ctx) : (setCtx s i x).remotes = s.remotes := rfl
@[simp] theorem setCtx_tlbs (s : State) (i : Nat) (x : Ctx) : (setCtx s i x).tlbs = s.tlbs := rfl
@[simp] theorem setCtx_walks (s : State) (i : Nat) (x : Ctx) : (setCtx s i x).walks = s.walks := rfl
@[simp] theorem setCtx_reports (s : State) (i : Nat) (x : Ctx) : (setCtx s i x).reports = s.reports := rfl
@[simp] theorem setCtx_tensors (s : State) (i : Nat) (x : Ctx) : (setCtx s i x).tensors = s.tensors := rfl
@[simp] theorem setCtx_used (s : State) (i : Nat) (x : Ctx) : (setCtx s i x).used = s.used := rfl
@[simp] theorem setCtx_pageCount (s : State) (i : Nat) (x : Ctx) : (setCtx s i x).pageCount = s.pageCount := rfl
@[simp] theorem setCtx_acts (s : State) (i : Nat) (x : Ctx) : (setCtx s i x).acts = s.acts := rfl
@[simp] theorem setCtx_recomputes (s : State) (i : Nat) (x : Ctx) : (setCtx s i x).recomputes = s.recomputes := rfl
@[simp] theorem setCtx_retry (s : State) (i : Nat) (x : Ctx) : (setCtx s i x).retry = s.retry := rfl
@[simp] theorem setCtx_migrations (s : State) (i : Nat) (x : Ctx) : (setCtx s i x).migrations = s.migrations := rfl
@[simp] theorem setCtx_parts (s : State) (i : Nat) (x : Ctx) : (setCtx s i x).parts = s.parts := rfl
@[simp] theorem setCtx_ops (s : State) (i : Nat) (x : Ctx) : (setCtx s i x).ops = s.ops := rfl
@[simp] theorem setCtx_queues (s : State) (i : Nat) (x : Ctx) : (setCtx s i x).queues = s.queues := rfl
@[simp] theorem setCtx_rr (s : State) (i : Nat) (x : Ctx) : (setCtx s i x).rr = s.rr := rfl
@[simp] theorem setCtx_groups (s : State) (i : Nat) (x : Ctx) : (setCtx s i x).groups = s.groups := rfl
@[simp] theorem setCtx_rings (s : State) (i : Nat) (x : Ctx) : (setCtx s i x).rings = s.rings := rfl
@[simp] theorem setCtx_streams (s : State) (i : Nat) (x : Ctx) : (setCtx s i x).streams = s.streams := rfl
@[simp] theorem setCtx_joins (s : State) (i : Nat) (x : Ctx) : (setCtx s i x).joins = s.joins := rfl
@[simp] theorem setCtx_retired (s : State) (i : Nat) (x : Ctx) : (setCtx s i x).retired = s.retired := rfl
@[simp] theorem setCtx_colls (s : State) (i : Nat) (x : Ctx) : (setCtx s i x).colls = s.colls := rfl
@[simp] theorem setCtx_saved (s : State) (i : Nat) (x : Ctx) : (setCtx s i x).saved = s.saved := rfl
@[simp] theorem setCtx_lakes (s : State) (i : Nat) (x : Ctx) : (setCtx s i x).lakes = s.lakes := rfl
@[simp] theorem setCtx_bases (s : State) (i : Nat) (x : Ctx) : (setCtx s i x).bases = s.bases := rfl
@[simp] theorem setCtx_reserve (s : State) (i : Nat) (x : Ctx) : (setCtx s i x).reserve = s.reserve := rfl
@[simp] theorem setCtx_commands (s : State) (i : Nat) (x : Ctx) : (setCtx s i x).commands = s.commands := rfl
@[simp] theorem setCtx_sent (s : State) (i : Nat) (x : Ctx) : (setCtx s i x).sent = s.sent := rfl
@[simp] theorem setCtx_wells (s : State) (i : Nat) (x : Ctx) : (setCtx s i x).wells = s.wells := rfl
@[simp] theorem setCtx_wellDies (s : State) (i : Nat) (x : Ctx) : (setCtx s i x).wellDies = s.wellDies := rfl
@[simp] theorem setCtx_dies (s : State) (i : Nat) (x : Ctx) : (setCtx s i x).dies = s.dies := rfl
@[simp] theorem setCtx_stopped (s : State) (i : Nat) (x : Ctx) : (setCtx s i x).stopped = s.stopped := rfl
@[simp] theorem setCtx_devnum (s : State) (i : Nat) (x : Ctx) : (setCtx s i x).devnum = s.devnum := rfl
@[simp] theorem setCtx_flash (s : State) (i : Nat) (x : Ctx) : (setCtx s i x).flash = s.flash := rfl
@[simp] theorem setCtx_secVersion (s : State) (i : Nat) (x : Ctx) : (setCtx s i x).secVersion = s.secVersion := rfl
@[simp] theorem setCtx_measures (s : State) (i : Nat) (x : Ctx) : (setCtx s i x).measures = s.measures := rfl
@[simp] theorem setCtx_serial (s : State) (i : Nat) (x : Ctx) : (setCtx s i x).serial = s.serial := rfl
@[simp] theorem setCtx_recovery (s : State) (i : Nat) (x : Ctx) : (setCtx s i x).recovery = s.recovery := rfl
@[simp] theorem setCtx_health (s : State) (i : Nat) (x : Ctx) : (setCtx s i x).health = s.health := rfl
@[simp] theorem setCtx_unsaved (s : State) (i : Nat) (x : Ctx) : (setCtx s i x).unsaved = s.unsaved := rfl
@[simp] theorem setCtx_links (s : State) (i : Nat) (x : Ctx) : (setCtx s i x).links = s.links := rfl
@[simp] theorem setCtx_answered (s : State) (i : Nat) (x : Ctx) : (setCtx s i x).answered = s.answered := rfl
@[simp] theorem setCtx_roBad (s : State) (i : Nat) (x : Ctx) : (setCtx s i x).roBad = s.roBad := rfl
@[simp] theorem setCtx_served (s : State) (i : Nat) (x : Ctx) : (setCtx s i x).served = s.served := rfl
@[simp] theorem setCtx_peers (s : State) (i : Nat) (x : Ctx) : (setCtx s i x).peers = s.peers := rfl
@[simp] theorem setCtx_dispatched (s : State) (i : Nat) (x : Ctx) : (setCtx s i x).dispatched = s.dispatched := rfl
@[simp] theorem setCtx_rails (s : State) (i : Nat) (x : Ctx) : (setCtx s i x).rails = s.rails := rfl
@[simp] theorem setCtx_booted (s : State) (i : Nat) (x : Ctx) : (setCtx s i x).booted = s.booted := rfl
@[simp] theorem setCtx_copies (s : State) (i : Nat) (x : Ctx) : (setCtx s i x).copies = s.copies := rfl
@[simp] theorem setCtx_copyMask (s : State) (i : Nat) (x : Ctx) : (setCtx s i x).copyMask = s.copyMask := rfl
@[simp] theorem setCtx_hours (s : State) (i : Nat) (x : Ctx) : (setCtx s i x).hours = s.hours := rfl
@[simp] theorem setCtx_savedAt (s : State) (i : Nat) (x : Ctx) : (setCtx s i x).savedAt = s.savedAt := rfl
@[simp] theorem setCtx_noticed (s : State) (i : Nat) (x : Ctx) : (setCtx s i x).noticed = s.noticed := rfl

/-! ### setCore -/

@[simp] theorem setCore_cycle (s : State) (i : Nat) (x : Core) : (setCore s i x).cycle = s.cycle := rfl
@[simp] theorem setCore_resets (s : State) (i : Nat) (x : Core) : (setCore s i x).resets = s.resets := rfl
@[simp] theorem setCore_fresh (s : State) (i : Nat) (x : Core) : (setCore s i x).fresh = s.fresh := rfl
@[simp] theorem setCore_turn (s : State) (i : Nat) (x : Core) : (setCore s i x).turn = s.turn := rfl
@[simp] theorem setCore_sched (s : State) (i : Nat) (x : Core) : (setCore s i x).sched = s.sched := rfl
@[simp] theorem setCore_sel (s : State) (i : Nat) (x : Core) : (setCore s i x).sel = s.sel := rfl
@[simp] theorem setCore_stage (s : State) (i : Nat) (x : Core) : (setCore s i x).stage = s.stage := rfl
@[simp] theorem setCore_ctxs (s : State) (i : Nat) (x : Core) : (setCore s i x).ctxs = s.ctxs := rfl
@[simp] theorem setCore_splitCode (s : State) (i : Nat) (x : Core) : (setCore s i x).splitCode = s.splitCode := rfl
@[simp] theorem setCore_splits (s : State) (i : Nat) (x : Core) : (setCore s i x).splits = s.splits := rfl
@[simp] theorem setCore_ro (s : State) (i : Nat) (x : Core) : (setCore s i x).ro = s.ro := rfl
@[simp] theorem setCore_mem (s : State) (i : Nat) (x : Core) : (setCore s i x).mem = s.mem := rfl
@[simp] theorem setCore_sram (s : State) (i : Nat) (x : Core) : (setCore s i x).sram = s.sram := rfl
@[simp] theorem setCore_granules (s : State) (i : Nat) (x : Core) : (setCore s i x).granules = s.granules := rfl
@[simp] theorem setCore_poison (s : State) (i : Nat) (x : Core) : (setCore s i x).poison = s.poison := rfl
@[simp] theorem setCore_tags (s : State) (i : Nat) (x : Core) : (setCore s i x).tags = s.tags := rfl
@[simp] theorem setCore_dirty3 (s : State) (i : Nat) (x : Core) : (setCore s i x).dirty3 = s.dirty3 := rfl
@[simp] theorem setCore_remotes (s : State) (i : Nat) (x : Core) : (setCore s i x).remotes = s.remotes := rfl
@[simp] theorem setCore_tlbs (s : State) (i : Nat) (x : Core) : (setCore s i x).tlbs = s.tlbs := rfl
@[simp] theorem setCore_walks (s : State) (i : Nat) (x : Core) : (setCore s i x).walks = s.walks := rfl
@[simp] theorem setCore_reports (s : State) (i : Nat) (x : Core) : (setCore s i x).reports = s.reports := rfl
@[simp] theorem setCore_tensors (s : State) (i : Nat) (x : Core) : (setCore s i x).tensors = s.tensors := rfl
@[simp] theorem setCore_used (s : State) (i : Nat) (x : Core) : (setCore s i x).used = s.used := rfl
@[simp] theorem setCore_pageCount (s : State) (i : Nat) (x : Core) : (setCore s i x).pageCount = s.pageCount := rfl
@[simp] theorem setCore_acts (s : State) (i : Nat) (x : Core) : (setCore s i x).acts = s.acts := rfl
@[simp] theorem setCore_recomputes (s : State) (i : Nat) (x : Core) : (setCore s i x).recomputes = s.recomputes := rfl
@[simp] theorem setCore_retry (s : State) (i : Nat) (x : Core) : (setCore s i x).retry = s.retry := rfl
@[simp] theorem setCore_migrations (s : State) (i : Nat) (x : Core) : (setCore s i x).migrations = s.migrations := rfl
@[simp] theorem setCore_parts (s : State) (i : Nat) (x : Core) : (setCore s i x).parts = s.parts := rfl
@[simp] theorem setCore_ops (s : State) (i : Nat) (x : Core) : (setCore s i x).ops = s.ops := rfl
@[simp] theorem setCore_queues (s : State) (i : Nat) (x : Core) : (setCore s i x).queues = s.queues := rfl
@[simp] theorem setCore_rr (s : State) (i : Nat) (x : Core) : (setCore s i x).rr = s.rr := rfl
@[simp] theorem setCore_groups (s : State) (i : Nat) (x : Core) : (setCore s i x).groups = s.groups := rfl
@[simp] theorem setCore_rings (s : State) (i : Nat) (x : Core) : (setCore s i x).rings = s.rings := rfl
@[simp] theorem setCore_streams (s : State) (i : Nat) (x : Core) : (setCore s i x).streams = s.streams := rfl
@[simp] theorem setCore_joins (s : State) (i : Nat) (x : Core) : (setCore s i x).joins = s.joins := rfl
@[simp] theorem setCore_retired (s : State) (i : Nat) (x : Core) : (setCore s i x).retired = s.retired := rfl
@[simp] theorem setCore_colls (s : State) (i : Nat) (x : Core) : (setCore s i x).colls = s.colls := rfl
@[simp] theorem setCore_saved (s : State) (i : Nat) (x : Core) : (setCore s i x).saved = s.saved := rfl
@[simp] theorem setCore_lakes (s : State) (i : Nat) (x : Core) : (setCore s i x).lakes = s.lakes := rfl
@[simp] theorem setCore_bases (s : State) (i : Nat) (x : Core) : (setCore s i x).bases = s.bases := rfl
@[simp] theorem setCore_reserve (s : State) (i : Nat) (x : Core) : (setCore s i x).reserve = s.reserve := rfl
@[simp] theorem setCore_commands (s : State) (i : Nat) (x : Core) : (setCore s i x).commands = s.commands := rfl
@[simp] theorem setCore_sent (s : State) (i : Nat) (x : Core) : (setCore s i x).sent = s.sent := rfl
@[simp] theorem setCore_wells (s : State) (i : Nat) (x : Core) : (setCore s i x).wells = s.wells := rfl
@[simp] theorem setCore_wellDies (s : State) (i : Nat) (x : Core) : (setCore s i x).wellDies = s.wellDies := rfl
@[simp] theorem setCore_dies (s : State) (i : Nat) (x : Core) : (setCore s i x).dies = s.dies := rfl
@[simp] theorem setCore_stopped (s : State) (i : Nat) (x : Core) : (setCore s i x).stopped = s.stopped := rfl
@[simp] theorem setCore_devnum (s : State) (i : Nat) (x : Core) : (setCore s i x).devnum = s.devnum := rfl
@[simp] theorem setCore_flash (s : State) (i : Nat) (x : Core) : (setCore s i x).flash = s.flash := rfl
@[simp] theorem setCore_secVersion (s : State) (i : Nat) (x : Core) : (setCore s i x).secVersion = s.secVersion := rfl
@[simp] theorem setCore_measures (s : State) (i : Nat) (x : Core) : (setCore s i x).measures = s.measures := rfl
@[simp] theorem setCore_serial (s : State) (i : Nat) (x : Core) : (setCore s i x).serial = s.serial := rfl
@[simp] theorem setCore_recovery (s : State) (i : Nat) (x : Core) : (setCore s i x).recovery = s.recovery := rfl
@[simp] theorem setCore_health (s : State) (i : Nat) (x : Core) : (setCore s i x).health = s.health := rfl
@[simp] theorem setCore_unsaved (s : State) (i : Nat) (x : Core) : (setCore s i x).unsaved = s.unsaved := rfl
@[simp] theorem setCore_links (s : State) (i : Nat) (x : Core) : (setCore s i x).links = s.links := rfl
@[simp] theorem setCore_answered (s : State) (i : Nat) (x : Core) : (setCore s i x).answered = s.answered := rfl
@[simp] theorem setCore_roBad (s : State) (i : Nat) (x : Core) : (setCore s i x).roBad = s.roBad := rfl
@[simp] theorem setCore_served (s : State) (i : Nat) (x : Core) : (setCore s i x).served = s.served := rfl
@[simp] theorem setCore_peers (s : State) (i : Nat) (x : Core) : (setCore s i x).peers = s.peers := rfl
@[simp] theorem setCore_dispatched (s : State) (i : Nat) (x : Core) : (setCore s i x).dispatched = s.dispatched := rfl
@[simp] theorem setCore_rails (s : State) (i : Nat) (x : Core) : (setCore s i x).rails = s.rails := rfl
@[simp] theorem setCore_booted (s : State) (i : Nat) (x : Core) : (setCore s i x).booted = s.booted := rfl
@[simp] theorem setCore_copies (s : State) (i : Nat) (x : Core) : (setCore s i x).copies = s.copies := rfl
@[simp] theorem setCore_copyMask (s : State) (i : Nat) (x : Core) : (setCore s i x).copyMask = s.copyMask := rfl
@[simp] theorem setCore_hours (s : State) (i : Nat) (x : Core) : (setCore s i x).hours = s.hours := rfl
@[simp] theorem setCore_savedAt (s : State) (i : Nat) (x : Core) : (setCore s i x).savedAt = s.savedAt := rfl
@[simp] theorem setCore_noticed (s : State) (i : Nat) (x : Core) : (setCore s i x).noticed = s.noticed := rfl

/-! ### setPart -/

@[simp] theorem setPart_cycle (s : State) (i : Nat) (x : Partition) : (setPart s i x).cycle = s.cycle := rfl
@[simp] theorem setPart_resets (s : State) (i : Nat) (x : Partition) : (setPart s i x).resets = s.resets := rfl
@[simp] theorem setPart_fresh (s : State) (i : Nat) (x : Partition) : (setPart s i x).fresh = s.fresh := rfl
@[simp] theorem setPart_turn (s : State) (i : Nat) (x : Partition) : (setPart s i x).turn = s.turn := rfl
@[simp] theorem setPart_sched (s : State) (i : Nat) (x : Partition) : (setPart s i x).sched = s.sched := rfl
@[simp] theorem setPart_sel (s : State) (i : Nat) (x : Partition) : (setPart s i x).sel = s.sel := rfl
@[simp] theorem setPart_stage (s : State) (i : Nat) (x : Partition) : (setPart s i x).stage = s.stage := rfl
@[simp] theorem setPart_ctxs (s : State) (i : Nat) (x : Partition) : (setPart s i x).ctxs = s.ctxs := rfl
@[simp] theorem setPart_cores (s : State) (i : Nat) (x : Partition) : (setPart s i x).cores = s.cores := rfl
@[simp] theorem setPart_splitCode (s : State) (i : Nat) (x : Partition) : (setPart s i x).splitCode = s.splitCode := rfl
@[simp] theorem setPart_splits (s : State) (i : Nat) (x : Partition) : (setPart s i x).splits = s.splits := rfl
@[simp] theorem setPart_ro (s : State) (i : Nat) (x : Partition) : (setPart s i x).ro = s.ro := rfl
@[simp] theorem setPart_mem (s : State) (i : Nat) (x : Partition) : (setPart s i x).mem = s.mem := rfl
@[simp] theorem setPart_sram (s : State) (i : Nat) (x : Partition) : (setPart s i x).sram = s.sram := rfl
@[simp] theorem setPart_granules (s : State) (i : Nat) (x : Partition) : (setPart s i x).granules = s.granules := rfl
@[simp] theorem setPart_poison (s : State) (i : Nat) (x : Partition) : (setPart s i x).poison = s.poison := rfl
@[simp] theorem setPart_tags (s : State) (i : Nat) (x : Partition) : (setPart s i x).tags = s.tags := rfl
@[simp] theorem setPart_dirty3 (s : State) (i : Nat) (x : Partition) : (setPart s i x).dirty3 = s.dirty3 := rfl
@[simp] theorem setPart_remotes (s : State) (i : Nat) (x : Partition) : (setPart s i x).remotes = s.remotes := rfl
@[simp] theorem setPart_tlbs (s : State) (i : Nat) (x : Partition) : (setPart s i x).tlbs = s.tlbs := rfl
@[simp] theorem setPart_walks (s : State) (i : Nat) (x : Partition) : (setPart s i x).walks = s.walks := rfl
@[simp] theorem setPart_reports (s : State) (i : Nat) (x : Partition) : (setPart s i x).reports = s.reports := rfl
@[simp] theorem setPart_tensors (s : State) (i : Nat) (x : Partition) : (setPart s i x).tensors = s.tensors := rfl
@[simp] theorem setPart_used (s : State) (i : Nat) (x : Partition) : (setPart s i x).used = s.used := rfl
@[simp] theorem setPart_pageCount (s : State) (i : Nat) (x : Partition) : (setPart s i x).pageCount = s.pageCount := rfl
@[simp] theorem setPart_acts (s : State) (i : Nat) (x : Partition) : (setPart s i x).acts = s.acts := rfl
@[simp] theorem setPart_recomputes (s : State) (i : Nat) (x : Partition) : (setPart s i x).recomputes = s.recomputes := rfl
@[simp] theorem setPart_retry (s : State) (i : Nat) (x : Partition) : (setPart s i x).retry = s.retry := rfl
@[simp] theorem setPart_migrations (s : State) (i : Nat) (x : Partition) : (setPart s i x).migrations = s.migrations := rfl
@[simp] theorem setPart_ops (s : State) (i : Nat) (x : Partition) : (setPart s i x).ops = s.ops := rfl
@[simp] theorem setPart_queues (s : State) (i : Nat) (x : Partition) : (setPart s i x).queues = s.queues := rfl
@[simp] theorem setPart_rr (s : State) (i : Nat) (x : Partition) : (setPart s i x).rr = s.rr := rfl
@[simp] theorem setPart_groups (s : State) (i : Nat) (x : Partition) : (setPart s i x).groups = s.groups := rfl
@[simp] theorem setPart_rings (s : State) (i : Nat) (x : Partition) : (setPart s i x).rings = s.rings := rfl
@[simp] theorem setPart_streams (s : State) (i : Nat) (x : Partition) : (setPart s i x).streams = s.streams := rfl
@[simp] theorem setPart_joins (s : State) (i : Nat) (x : Partition) : (setPart s i x).joins = s.joins := rfl
@[simp] theorem setPart_retired (s : State) (i : Nat) (x : Partition) : (setPart s i x).retired = s.retired := rfl
@[simp] theorem setPart_colls (s : State) (i : Nat) (x : Partition) : (setPart s i x).colls = s.colls := rfl
@[simp] theorem setPart_saved (s : State) (i : Nat) (x : Partition) : (setPart s i x).saved = s.saved := rfl
@[simp] theorem setPart_lakes (s : State) (i : Nat) (x : Partition) : (setPart s i x).lakes = s.lakes := rfl
@[simp] theorem setPart_bases (s : State) (i : Nat) (x : Partition) : (setPart s i x).bases = s.bases := rfl
@[simp] theorem setPart_reserve (s : State) (i : Nat) (x : Partition) : (setPart s i x).reserve = s.reserve := rfl
@[simp] theorem setPart_commands (s : State) (i : Nat) (x : Partition) : (setPart s i x).commands = s.commands := rfl
@[simp] theorem setPart_sent (s : State) (i : Nat) (x : Partition) : (setPart s i x).sent = s.sent := rfl
@[simp] theorem setPart_wells (s : State) (i : Nat) (x : Partition) : (setPart s i x).wells = s.wells := rfl
@[simp] theorem setPart_wellDies (s : State) (i : Nat) (x : Partition) : (setPart s i x).wellDies = s.wellDies := rfl
@[simp] theorem setPart_dies (s : State) (i : Nat) (x : Partition) : (setPart s i x).dies = s.dies := rfl
@[simp] theorem setPart_stopped (s : State) (i : Nat) (x : Partition) : (setPart s i x).stopped = s.stopped := rfl
@[simp] theorem setPart_devnum (s : State) (i : Nat) (x : Partition) : (setPart s i x).devnum = s.devnum := rfl
@[simp] theorem setPart_flash (s : State) (i : Nat) (x : Partition) : (setPart s i x).flash = s.flash := rfl
@[simp] theorem setPart_secVersion (s : State) (i : Nat) (x : Partition) : (setPart s i x).secVersion = s.secVersion := rfl
@[simp] theorem setPart_measures (s : State) (i : Nat) (x : Partition) : (setPart s i x).measures = s.measures := rfl
@[simp] theorem setPart_serial (s : State) (i : Nat) (x : Partition) : (setPart s i x).serial = s.serial := rfl
@[simp] theorem setPart_recovery (s : State) (i : Nat) (x : Partition) : (setPart s i x).recovery = s.recovery := rfl
@[simp] theorem setPart_health (s : State) (i : Nat) (x : Partition) : (setPart s i x).health = s.health := rfl
@[simp] theorem setPart_unsaved (s : State) (i : Nat) (x : Partition) : (setPart s i x).unsaved = s.unsaved := rfl
@[simp] theorem setPart_links (s : State) (i : Nat) (x : Partition) : (setPart s i x).links = s.links := rfl
@[simp] theorem setPart_answered (s : State) (i : Nat) (x : Partition) : (setPart s i x).answered = s.answered := rfl
@[simp] theorem setPart_roBad (s : State) (i : Nat) (x : Partition) : (setPart s i x).roBad = s.roBad := rfl
@[simp] theorem setPart_served (s : State) (i : Nat) (x : Partition) : (setPart s i x).served = s.served := rfl
@[simp] theorem setPart_peers (s : State) (i : Nat) (x : Partition) : (setPart s i x).peers = s.peers := rfl
@[simp] theorem setPart_dispatched (s : State) (i : Nat) (x : Partition) : (setPart s i x).dispatched = s.dispatched := rfl
@[simp] theorem setPart_rails (s : State) (i : Nat) (x : Partition) : (setPart s i x).rails = s.rails := rfl
@[simp] theorem setPart_booted (s : State) (i : Nat) (x : Partition) : (setPart s i x).booted = s.booted := rfl
@[simp] theorem setPart_copies (s : State) (i : Nat) (x : Partition) : (setPart s i x).copies = s.copies := rfl
@[simp] theorem setPart_copyMask (s : State) (i : Nat) (x : Partition) : (setPart s i x).copyMask = s.copyMask := rfl
@[simp] theorem setPart_hours (s : State) (i : Nat) (x : Partition) : (setPart s i x).hours = s.hours := rfl
@[simp] theorem setPart_savedAt (s : State) (i : Nat) (x : Partition) : (setPart s i x).savedAt = s.savedAt := rfl
@[simp] theorem setPart_noticed (s : State) (i : Nat) (x : Partition) : (setPart s i x).noticed = s.noticed := rfl

/-! ### setLake -/

@[simp] theorem setLake_cycle (s : State) (i : Nat) (x : Lake) : (setLake s i x).cycle = s.cycle := rfl
@[simp] theorem setLake_resets (s : State) (i : Nat) (x : Lake) : (setLake s i x).resets = s.resets := rfl
@[simp] theorem setLake_fresh (s : State) (i : Nat) (x : Lake) : (setLake s i x).fresh = s.fresh := rfl
@[simp] theorem setLake_turn (s : State) (i : Nat) (x : Lake) : (setLake s i x).turn = s.turn := rfl
@[simp] theorem setLake_sched (s : State) (i : Nat) (x : Lake) : (setLake s i x).sched = s.sched := rfl
@[simp] theorem setLake_sel (s : State) (i : Nat) (x : Lake) : (setLake s i x).sel = s.sel := rfl
@[simp] theorem setLake_stage (s : State) (i : Nat) (x : Lake) : (setLake s i x).stage = s.stage := rfl
@[simp] theorem setLake_ctxs (s : State) (i : Nat) (x : Lake) : (setLake s i x).ctxs = s.ctxs := rfl
@[simp] theorem setLake_cores (s : State) (i : Nat) (x : Lake) : (setLake s i x).cores = s.cores := rfl
@[simp] theorem setLake_splitCode (s : State) (i : Nat) (x : Lake) : (setLake s i x).splitCode = s.splitCode := rfl
@[simp] theorem setLake_splits (s : State) (i : Nat) (x : Lake) : (setLake s i x).splits = s.splits := rfl
@[simp] theorem setLake_ro (s : State) (i : Nat) (x : Lake) : (setLake s i x).ro = s.ro := rfl
@[simp] theorem setLake_mem (s : State) (i : Nat) (x : Lake) : (setLake s i x).mem = s.mem := rfl
@[simp] theorem setLake_sram (s : State) (i : Nat) (x : Lake) : (setLake s i x).sram = s.sram := rfl
@[simp] theorem setLake_granules (s : State) (i : Nat) (x : Lake) : (setLake s i x).granules = s.granules := rfl
@[simp] theorem setLake_poison (s : State) (i : Nat) (x : Lake) : (setLake s i x).poison = s.poison := rfl
@[simp] theorem setLake_tags (s : State) (i : Nat) (x : Lake) : (setLake s i x).tags = s.tags := rfl
@[simp] theorem setLake_dirty3 (s : State) (i : Nat) (x : Lake) : (setLake s i x).dirty3 = s.dirty3 := rfl
@[simp] theorem setLake_remotes (s : State) (i : Nat) (x : Lake) : (setLake s i x).remotes = s.remotes := rfl
@[simp] theorem setLake_tlbs (s : State) (i : Nat) (x : Lake) : (setLake s i x).tlbs = s.tlbs := rfl
@[simp] theorem setLake_walks (s : State) (i : Nat) (x : Lake) : (setLake s i x).walks = s.walks := rfl
@[simp] theorem setLake_reports (s : State) (i : Nat) (x : Lake) : (setLake s i x).reports = s.reports := rfl
@[simp] theorem setLake_tensors (s : State) (i : Nat) (x : Lake) : (setLake s i x).tensors = s.tensors := rfl
@[simp] theorem setLake_used (s : State) (i : Nat) (x : Lake) : (setLake s i x).used = s.used := rfl
@[simp] theorem setLake_pageCount (s : State) (i : Nat) (x : Lake) : (setLake s i x).pageCount = s.pageCount := rfl
@[simp] theorem setLake_acts (s : State) (i : Nat) (x : Lake) : (setLake s i x).acts = s.acts := rfl
@[simp] theorem setLake_recomputes (s : State) (i : Nat) (x : Lake) : (setLake s i x).recomputes = s.recomputes := rfl
@[simp] theorem setLake_retry (s : State) (i : Nat) (x : Lake) : (setLake s i x).retry = s.retry := rfl
@[simp] theorem setLake_migrations (s : State) (i : Nat) (x : Lake) : (setLake s i x).migrations = s.migrations := rfl
@[simp] theorem setLake_parts (s : State) (i : Nat) (x : Lake) : (setLake s i x).parts = s.parts := rfl
@[simp] theorem setLake_ops (s : State) (i : Nat) (x : Lake) : (setLake s i x).ops = s.ops := rfl
@[simp] theorem setLake_queues (s : State) (i : Nat) (x : Lake) : (setLake s i x).queues = s.queues := rfl
@[simp] theorem setLake_rr (s : State) (i : Nat) (x : Lake) : (setLake s i x).rr = s.rr := rfl
@[simp] theorem setLake_groups (s : State) (i : Nat) (x : Lake) : (setLake s i x).groups = s.groups := rfl
@[simp] theorem setLake_rings (s : State) (i : Nat) (x : Lake) : (setLake s i x).rings = s.rings := rfl
@[simp] theorem setLake_streams (s : State) (i : Nat) (x : Lake) : (setLake s i x).streams = s.streams := rfl
@[simp] theorem setLake_joins (s : State) (i : Nat) (x : Lake) : (setLake s i x).joins = s.joins := rfl
@[simp] theorem setLake_retired (s : State) (i : Nat) (x : Lake) : (setLake s i x).retired = s.retired := rfl
@[simp] theorem setLake_colls (s : State) (i : Nat) (x : Lake) : (setLake s i x).colls = s.colls := rfl
@[simp] theorem setLake_saved (s : State) (i : Nat) (x : Lake) : (setLake s i x).saved = s.saved := rfl
@[simp] theorem setLake_bases (s : State) (i : Nat) (x : Lake) : (setLake s i x).bases = s.bases := rfl
@[simp] theorem setLake_reserve (s : State) (i : Nat) (x : Lake) : (setLake s i x).reserve = s.reserve := rfl
@[simp] theorem setLake_commands (s : State) (i : Nat) (x : Lake) : (setLake s i x).commands = s.commands := rfl
@[simp] theorem setLake_sent (s : State) (i : Nat) (x : Lake) : (setLake s i x).sent = s.sent := rfl
@[simp] theorem setLake_wells (s : State) (i : Nat) (x : Lake) : (setLake s i x).wells = s.wells := rfl
@[simp] theorem setLake_wellDies (s : State) (i : Nat) (x : Lake) : (setLake s i x).wellDies = s.wellDies := rfl
@[simp] theorem setLake_dies (s : State) (i : Nat) (x : Lake) : (setLake s i x).dies = s.dies := rfl
@[simp] theorem setLake_stopped (s : State) (i : Nat) (x : Lake) : (setLake s i x).stopped = s.stopped := rfl
@[simp] theorem setLake_devnum (s : State) (i : Nat) (x : Lake) : (setLake s i x).devnum = s.devnum := rfl
@[simp] theorem setLake_flash (s : State) (i : Nat) (x : Lake) : (setLake s i x).flash = s.flash := rfl
@[simp] theorem setLake_secVersion (s : State) (i : Nat) (x : Lake) : (setLake s i x).secVersion = s.secVersion := rfl
@[simp] theorem setLake_measures (s : State) (i : Nat) (x : Lake) : (setLake s i x).measures = s.measures := rfl
@[simp] theorem setLake_serial (s : State) (i : Nat) (x : Lake) : (setLake s i x).serial = s.serial := rfl
@[simp] theorem setLake_recovery (s : State) (i : Nat) (x : Lake) : (setLake s i x).recovery = s.recovery := rfl
@[simp] theorem setLake_health (s : State) (i : Nat) (x : Lake) : (setLake s i x).health = s.health := rfl
@[simp] theorem setLake_unsaved (s : State) (i : Nat) (x : Lake) : (setLake s i x).unsaved = s.unsaved := rfl
@[simp] theorem setLake_links (s : State) (i : Nat) (x : Lake) : (setLake s i x).links = s.links := rfl
@[simp] theorem setLake_answered (s : State) (i : Nat) (x : Lake) : (setLake s i x).answered = s.answered := rfl
@[simp] theorem setLake_roBad (s : State) (i : Nat) (x : Lake) : (setLake s i x).roBad = s.roBad := rfl
@[simp] theorem setLake_served (s : State) (i : Nat) (x : Lake) : (setLake s i x).served = s.served := rfl
@[simp] theorem setLake_peers (s : State) (i : Nat) (x : Lake) : (setLake s i x).peers = s.peers := rfl
@[simp] theorem setLake_dispatched (s : State) (i : Nat) (x : Lake) : (setLake s i x).dispatched = s.dispatched := rfl
@[simp] theorem setLake_rails (s : State) (i : Nat) (x : Lake) : (setLake s i x).rails = s.rails := rfl
@[simp] theorem setLake_booted (s : State) (i : Nat) (x : Lake) : (setLake s i x).booted = s.booted := rfl
@[simp] theorem setLake_copies (s : State) (i : Nat) (x : Lake) : (setLake s i x).copies = s.copies := rfl
@[simp] theorem setLake_copyMask (s : State) (i : Nat) (x : Lake) : (setLake s i x).copyMask = s.copyMask := rfl
@[simp] theorem setLake_hours (s : State) (i : Nat) (x : Lake) : (setLake s i x).hours = s.hours := rfl
@[simp] theorem setLake_savedAt (s : State) (i : Nat) (x : Lake) : (setLake s i x).savedAt = s.savedAt := rfl
@[simp] theorem setLake_noticed (s : State) (i : Nat) (x : Lake) : (setLake s i x).noticed = s.noticed := rfl

/-! ### setRing -/

@[simp] theorem setRing_cycle (s : State) (i : Nat) (x : Ring) : (setRing s i x).cycle = s.cycle := rfl
@[simp] theorem setRing_resets (s : State) (i : Nat) (x : Ring) : (setRing s i x).resets = s.resets := rfl
@[simp] theorem setRing_fresh (s : State) (i : Nat) (x : Ring) : (setRing s i x).fresh = s.fresh := rfl
@[simp] theorem setRing_turn (s : State) (i : Nat) (x : Ring) : (setRing s i x).turn = s.turn := rfl
@[simp] theorem setRing_sched (s : State) (i : Nat) (x : Ring) : (setRing s i x).sched = s.sched := rfl
@[simp] theorem setRing_sel (s : State) (i : Nat) (x : Ring) : (setRing s i x).sel = s.sel := rfl
@[simp] theorem setRing_stage (s : State) (i : Nat) (x : Ring) : (setRing s i x).stage = s.stage := rfl
@[simp] theorem setRing_ctxs (s : State) (i : Nat) (x : Ring) : (setRing s i x).ctxs = s.ctxs := rfl
@[simp] theorem setRing_cores (s : State) (i : Nat) (x : Ring) : (setRing s i x).cores = s.cores := rfl
@[simp] theorem setRing_splitCode (s : State) (i : Nat) (x : Ring) : (setRing s i x).splitCode = s.splitCode := rfl
@[simp] theorem setRing_splits (s : State) (i : Nat) (x : Ring) : (setRing s i x).splits = s.splits := rfl
@[simp] theorem setRing_ro (s : State) (i : Nat) (x : Ring) : (setRing s i x).ro = s.ro := rfl
@[simp] theorem setRing_mem (s : State) (i : Nat) (x : Ring) : (setRing s i x).mem = s.mem := rfl
@[simp] theorem setRing_sram (s : State) (i : Nat) (x : Ring) : (setRing s i x).sram = s.sram := rfl
@[simp] theorem setRing_granules (s : State) (i : Nat) (x : Ring) : (setRing s i x).granules = s.granules := rfl
@[simp] theorem setRing_poison (s : State) (i : Nat) (x : Ring) : (setRing s i x).poison = s.poison := rfl
@[simp] theorem setRing_tags (s : State) (i : Nat) (x : Ring) : (setRing s i x).tags = s.tags := rfl
@[simp] theorem setRing_dirty3 (s : State) (i : Nat) (x : Ring) : (setRing s i x).dirty3 = s.dirty3 := rfl
@[simp] theorem setRing_remotes (s : State) (i : Nat) (x : Ring) : (setRing s i x).remotes = s.remotes := rfl
@[simp] theorem setRing_tlbs (s : State) (i : Nat) (x : Ring) : (setRing s i x).tlbs = s.tlbs := rfl
@[simp] theorem setRing_walks (s : State) (i : Nat) (x : Ring) : (setRing s i x).walks = s.walks := rfl
@[simp] theorem setRing_reports (s : State) (i : Nat) (x : Ring) : (setRing s i x).reports = s.reports := rfl
@[simp] theorem setRing_tensors (s : State) (i : Nat) (x : Ring) : (setRing s i x).tensors = s.tensors := rfl
@[simp] theorem setRing_used (s : State) (i : Nat) (x : Ring) : (setRing s i x).used = s.used := rfl
@[simp] theorem setRing_pageCount (s : State) (i : Nat) (x : Ring) : (setRing s i x).pageCount = s.pageCount := rfl
@[simp] theorem setRing_acts (s : State) (i : Nat) (x : Ring) : (setRing s i x).acts = s.acts := rfl
@[simp] theorem setRing_recomputes (s : State) (i : Nat) (x : Ring) : (setRing s i x).recomputes = s.recomputes := rfl
@[simp] theorem setRing_retry (s : State) (i : Nat) (x : Ring) : (setRing s i x).retry = s.retry := rfl
@[simp] theorem setRing_migrations (s : State) (i : Nat) (x : Ring) : (setRing s i x).migrations = s.migrations := rfl
@[simp] theorem setRing_parts (s : State) (i : Nat) (x : Ring) : (setRing s i x).parts = s.parts := rfl
@[simp] theorem setRing_ops (s : State) (i : Nat) (x : Ring) : (setRing s i x).ops = s.ops := rfl
@[simp] theorem setRing_queues (s : State) (i : Nat) (x : Ring) : (setRing s i x).queues = s.queues := rfl
@[simp] theorem setRing_rr (s : State) (i : Nat) (x : Ring) : (setRing s i x).rr = s.rr := rfl
@[simp] theorem setRing_groups (s : State) (i : Nat) (x : Ring) : (setRing s i x).groups = s.groups := rfl
@[simp] theorem setRing_streams (s : State) (i : Nat) (x : Ring) : (setRing s i x).streams = s.streams := rfl
@[simp] theorem setRing_joins (s : State) (i : Nat) (x : Ring) : (setRing s i x).joins = s.joins := rfl
@[simp] theorem setRing_retired (s : State) (i : Nat) (x : Ring) : (setRing s i x).retired = s.retired := rfl
@[simp] theorem setRing_colls (s : State) (i : Nat) (x : Ring) : (setRing s i x).colls = s.colls := rfl
@[simp] theorem setRing_saved (s : State) (i : Nat) (x : Ring) : (setRing s i x).saved = s.saved := rfl
@[simp] theorem setRing_lakes (s : State) (i : Nat) (x : Ring) : (setRing s i x).lakes = s.lakes := rfl
@[simp] theorem setRing_bases (s : State) (i : Nat) (x : Ring) : (setRing s i x).bases = s.bases := rfl
@[simp] theorem setRing_reserve (s : State) (i : Nat) (x : Ring) : (setRing s i x).reserve = s.reserve := rfl
@[simp] theorem setRing_commands (s : State) (i : Nat) (x : Ring) : (setRing s i x).commands = s.commands := rfl
@[simp] theorem setRing_sent (s : State) (i : Nat) (x : Ring) : (setRing s i x).sent = s.sent := rfl
@[simp] theorem setRing_wells (s : State) (i : Nat) (x : Ring) : (setRing s i x).wells = s.wells := rfl
@[simp] theorem setRing_wellDies (s : State) (i : Nat) (x : Ring) : (setRing s i x).wellDies = s.wellDies := rfl
@[simp] theorem setRing_dies (s : State) (i : Nat) (x : Ring) : (setRing s i x).dies = s.dies := rfl
@[simp] theorem setRing_stopped (s : State) (i : Nat) (x : Ring) : (setRing s i x).stopped = s.stopped := rfl
@[simp] theorem setRing_devnum (s : State) (i : Nat) (x : Ring) : (setRing s i x).devnum = s.devnum := rfl
@[simp] theorem setRing_flash (s : State) (i : Nat) (x : Ring) : (setRing s i x).flash = s.flash := rfl
@[simp] theorem setRing_secVersion (s : State) (i : Nat) (x : Ring) : (setRing s i x).secVersion = s.secVersion := rfl
@[simp] theorem setRing_measures (s : State) (i : Nat) (x : Ring) : (setRing s i x).measures = s.measures := rfl
@[simp] theorem setRing_serial (s : State) (i : Nat) (x : Ring) : (setRing s i x).serial = s.serial := rfl
@[simp] theorem setRing_recovery (s : State) (i : Nat) (x : Ring) : (setRing s i x).recovery = s.recovery := rfl
@[simp] theorem setRing_health (s : State) (i : Nat) (x : Ring) : (setRing s i x).health = s.health := rfl
@[simp] theorem setRing_unsaved (s : State) (i : Nat) (x : Ring) : (setRing s i x).unsaved = s.unsaved := rfl
@[simp] theorem setRing_links (s : State) (i : Nat) (x : Ring) : (setRing s i x).links = s.links := rfl
@[simp] theorem setRing_answered (s : State) (i : Nat) (x : Ring) : (setRing s i x).answered = s.answered := rfl
@[simp] theorem setRing_roBad (s : State) (i : Nat) (x : Ring) : (setRing s i x).roBad = s.roBad := rfl
@[simp] theorem setRing_served (s : State) (i : Nat) (x : Ring) : (setRing s i x).served = s.served := rfl
@[simp] theorem setRing_peers (s : State) (i : Nat) (x : Ring) : (setRing s i x).peers = s.peers := rfl
@[simp] theorem setRing_dispatched (s : State) (i : Nat) (x : Ring) : (setRing s i x).dispatched = s.dispatched := rfl
@[simp] theorem setRing_rails (s : State) (i : Nat) (x : Ring) : (setRing s i x).rails = s.rails := rfl
@[simp] theorem setRing_booted (s : State) (i : Nat) (x : Ring) : (setRing s i x).booted = s.booted := rfl
@[simp] theorem setRing_copies (s : State) (i : Nat) (x : Ring) : (setRing s i x).copies = s.copies := rfl
@[simp] theorem setRing_copyMask (s : State) (i : Nat) (x : Ring) : (setRing s i x).copyMask = s.copyMask := rfl
@[simp] theorem setRing_hours (s : State) (i : Nat) (x : Ring) : (setRing s i x).hours = s.hours := rfl
@[simp] theorem setRing_savedAt (s : State) (i : Nat) (x : Ring) : (setRing s i x).savedAt = s.savedAt := rfl
@[simp] theorem setRing_noticed (s : State) (i : Nat) (x : Ring) : (setRing s i x).noticed = s.noticed := rfl

/-! ### setGroup -/

@[simp] theorem setGroup_cycle (s : State) (i : Nat) (x : Group) : (setGroup s i x).cycle = s.cycle := rfl
@[simp] theorem setGroup_resets (s : State) (i : Nat) (x : Group) : (setGroup s i x).resets = s.resets := rfl
@[simp] theorem setGroup_fresh (s : State) (i : Nat) (x : Group) : (setGroup s i x).fresh = s.fresh := rfl
@[simp] theorem setGroup_turn (s : State) (i : Nat) (x : Group) : (setGroup s i x).turn = s.turn := rfl
@[simp] theorem setGroup_sched (s : State) (i : Nat) (x : Group) : (setGroup s i x).sched = s.sched := rfl
@[simp] theorem setGroup_sel (s : State) (i : Nat) (x : Group) : (setGroup s i x).sel = s.sel := rfl
@[simp] theorem setGroup_stage (s : State) (i : Nat) (x : Group) : (setGroup s i x).stage = s.stage := rfl
@[simp] theorem setGroup_ctxs (s : State) (i : Nat) (x : Group) : (setGroup s i x).ctxs = s.ctxs := rfl
@[simp] theorem setGroup_cores (s : State) (i : Nat) (x : Group) : (setGroup s i x).cores = s.cores := rfl
@[simp] theorem setGroup_splitCode (s : State) (i : Nat) (x : Group) : (setGroup s i x).splitCode = s.splitCode := rfl
@[simp] theorem setGroup_splits (s : State) (i : Nat) (x : Group) : (setGroup s i x).splits = s.splits := rfl
@[simp] theorem setGroup_ro (s : State) (i : Nat) (x : Group) : (setGroup s i x).ro = s.ro := rfl
@[simp] theorem setGroup_mem (s : State) (i : Nat) (x : Group) : (setGroup s i x).mem = s.mem := rfl
@[simp] theorem setGroup_sram (s : State) (i : Nat) (x : Group) : (setGroup s i x).sram = s.sram := rfl
@[simp] theorem setGroup_granules (s : State) (i : Nat) (x : Group) : (setGroup s i x).granules = s.granules := rfl
@[simp] theorem setGroup_poison (s : State) (i : Nat) (x : Group) : (setGroup s i x).poison = s.poison := rfl
@[simp] theorem setGroup_tags (s : State) (i : Nat) (x : Group) : (setGroup s i x).tags = s.tags := rfl
@[simp] theorem setGroup_dirty3 (s : State) (i : Nat) (x : Group) : (setGroup s i x).dirty3 = s.dirty3 := rfl
@[simp] theorem setGroup_remotes (s : State) (i : Nat) (x : Group) : (setGroup s i x).remotes = s.remotes := rfl
@[simp] theorem setGroup_tlbs (s : State) (i : Nat) (x : Group) : (setGroup s i x).tlbs = s.tlbs := rfl
@[simp] theorem setGroup_walks (s : State) (i : Nat) (x : Group) : (setGroup s i x).walks = s.walks := rfl
@[simp] theorem setGroup_reports (s : State) (i : Nat) (x : Group) : (setGroup s i x).reports = s.reports := rfl
@[simp] theorem setGroup_tensors (s : State) (i : Nat) (x : Group) : (setGroup s i x).tensors = s.tensors := rfl
@[simp] theorem setGroup_used (s : State) (i : Nat) (x : Group) : (setGroup s i x).used = s.used := rfl
@[simp] theorem setGroup_pageCount (s : State) (i : Nat) (x : Group) : (setGroup s i x).pageCount = s.pageCount := rfl
@[simp] theorem setGroup_acts (s : State) (i : Nat) (x : Group) : (setGroup s i x).acts = s.acts := rfl
@[simp] theorem setGroup_recomputes (s : State) (i : Nat) (x : Group) : (setGroup s i x).recomputes = s.recomputes := rfl
@[simp] theorem setGroup_retry (s : State) (i : Nat) (x : Group) : (setGroup s i x).retry = s.retry := rfl
@[simp] theorem setGroup_migrations (s : State) (i : Nat) (x : Group) : (setGroup s i x).migrations = s.migrations := rfl
@[simp] theorem setGroup_parts (s : State) (i : Nat) (x : Group) : (setGroup s i x).parts = s.parts := rfl
@[simp] theorem setGroup_ops (s : State) (i : Nat) (x : Group) : (setGroup s i x).ops = s.ops := rfl
@[simp] theorem setGroup_queues (s : State) (i : Nat) (x : Group) : (setGroup s i x).queues = s.queues := rfl
@[simp] theorem setGroup_rr (s : State) (i : Nat) (x : Group) : (setGroup s i x).rr = s.rr := rfl
@[simp] theorem setGroup_rings (s : State) (i : Nat) (x : Group) : (setGroup s i x).rings = s.rings := rfl
@[simp] theorem setGroup_streams (s : State) (i : Nat) (x : Group) : (setGroup s i x).streams = s.streams := rfl
@[simp] theorem setGroup_joins (s : State) (i : Nat) (x : Group) : (setGroup s i x).joins = s.joins := rfl
@[simp] theorem setGroup_retired (s : State) (i : Nat) (x : Group) : (setGroup s i x).retired = s.retired := rfl
@[simp] theorem setGroup_colls (s : State) (i : Nat) (x : Group) : (setGroup s i x).colls = s.colls := rfl
@[simp] theorem setGroup_saved (s : State) (i : Nat) (x : Group) : (setGroup s i x).saved = s.saved := rfl
@[simp] theorem setGroup_lakes (s : State) (i : Nat) (x : Group) : (setGroup s i x).lakes = s.lakes := rfl
@[simp] theorem setGroup_bases (s : State) (i : Nat) (x : Group) : (setGroup s i x).bases = s.bases := rfl
@[simp] theorem setGroup_reserve (s : State) (i : Nat) (x : Group) : (setGroup s i x).reserve = s.reserve := rfl
@[simp] theorem setGroup_commands (s : State) (i : Nat) (x : Group) : (setGroup s i x).commands = s.commands := rfl
@[simp] theorem setGroup_sent (s : State) (i : Nat) (x : Group) : (setGroup s i x).sent = s.sent := rfl
@[simp] theorem setGroup_wells (s : State) (i : Nat) (x : Group) : (setGroup s i x).wells = s.wells := rfl
@[simp] theorem setGroup_wellDies (s : State) (i : Nat) (x : Group) : (setGroup s i x).wellDies = s.wellDies := rfl
@[simp] theorem setGroup_dies (s : State) (i : Nat) (x : Group) : (setGroup s i x).dies = s.dies := rfl
@[simp] theorem setGroup_stopped (s : State) (i : Nat) (x : Group) : (setGroup s i x).stopped = s.stopped := rfl
@[simp] theorem setGroup_devnum (s : State) (i : Nat) (x : Group) : (setGroup s i x).devnum = s.devnum := rfl
@[simp] theorem setGroup_flash (s : State) (i : Nat) (x : Group) : (setGroup s i x).flash = s.flash := rfl
@[simp] theorem setGroup_secVersion (s : State) (i : Nat) (x : Group) : (setGroup s i x).secVersion = s.secVersion := rfl
@[simp] theorem setGroup_measures (s : State) (i : Nat) (x : Group) : (setGroup s i x).measures = s.measures := rfl
@[simp] theorem setGroup_serial (s : State) (i : Nat) (x : Group) : (setGroup s i x).serial = s.serial := rfl
@[simp] theorem setGroup_recovery (s : State) (i : Nat) (x : Group) : (setGroup s i x).recovery = s.recovery := rfl
@[simp] theorem setGroup_health (s : State) (i : Nat) (x : Group) : (setGroup s i x).health = s.health := rfl
@[simp] theorem setGroup_unsaved (s : State) (i : Nat) (x : Group) : (setGroup s i x).unsaved = s.unsaved := rfl
@[simp] theorem setGroup_links (s : State) (i : Nat) (x : Group) : (setGroup s i x).links = s.links := rfl
@[simp] theorem setGroup_answered (s : State) (i : Nat) (x : Group) : (setGroup s i x).answered = s.answered := rfl
@[simp] theorem setGroup_roBad (s : State) (i : Nat) (x : Group) : (setGroup s i x).roBad = s.roBad := rfl
@[simp] theorem setGroup_served (s : State) (i : Nat) (x : Group) : (setGroup s i x).served = s.served := rfl
@[simp] theorem setGroup_peers (s : State) (i : Nat) (x : Group) : (setGroup s i x).peers = s.peers := rfl
@[simp] theorem setGroup_dispatched (s : State) (i : Nat) (x : Group) : (setGroup s i x).dispatched = s.dispatched := rfl
@[simp] theorem setGroup_rails (s : State) (i : Nat) (x : Group) : (setGroup s i x).rails = s.rails := rfl
@[simp] theorem setGroup_booted (s : State) (i : Nat) (x : Group) : (setGroup s i x).booted = s.booted := rfl
@[simp] theorem setGroup_copies (s : State) (i : Nat) (x : Group) : (setGroup s i x).copies = s.copies := rfl
@[simp] theorem setGroup_copyMask (s : State) (i : Nat) (x : Group) : (setGroup s i x).copyMask = s.copyMask := rfl
@[simp] theorem setGroup_hours (s : State) (i : Nat) (x : Group) : (setGroup s i x).hours = s.hours := rfl
@[simp] theorem setGroup_savedAt (s : State) (i : Nat) (x : Group) : (setGroup s i x).savedAt = s.savedAt := rfl
@[simp] theorem setGroup_noticed (s : State) (i : Nat) (x : Group) : (setGroup s i x).noticed = s.noticed := rfl

/-! ### setOp -/

@[simp] theorem setOp_cycle (s : State) (i : Nat) (x : Operator) : (setOp s i x).cycle = s.cycle := rfl
@[simp] theorem setOp_resets (s : State) (i : Nat) (x : Operator) : (setOp s i x).resets = s.resets := rfl
@[simp] theorem setOp_fresh (s : State) (i : Nat) (x : Operator) : (setOp s i x).fresh = s.fresh := rfl
@[simp] theorem setOp_turn (s : State) (i : Nat) (x : Operator) : (setOp s i x).turn = s.turn := rfl
@[simp] theorem setOp_sched (s : State) (i : Nat) (x : Operator) : (setOp s i x).sched = s.sched := rfl
@[simp] theorem setOp_sel (s : State) (i : Nat) (x : Operator) : (setOp s i x).sel = s.sel := rfl
@[simp] theorem setOp_stage (s : State) (i : Nat) (x : Operator) : (setOp s i x).stage = s.stage := rfl
@[simp] theorem setOp_ctxs (s : State) (i : Nat) (x : Operator) : (setOp s i x).ctxs = s.ctxs := rfl
@[simp] theorem setOp_cores (s : State) (i : Nat) (x : Operator) : (setOp s i x).cores = s.cores := rfl
@[simp] theorem setOp_splitCode (s : State) (i : Nat) (x : Operator) : (setOp s i x).splitCode = s.splitCode := rfl
@[simp] theorem setOp_splits (s : State) (i : Nat) (x : Operator) : (setOp s i x).splits = s.splits := rfl
@[simp] theorem setOp_ro (s : State) (i : Nat) (x : Operator) : (setOp s i x).ro = s.ro := rfl
@[simp] theorem setOp_mem (s : State) (i : Nat) (x : Operator) : (setOp s i x).mem = s.mem := rfl
@[simp] theorem setOp_sram (s : State) (i : Nat) (x : Operator) : (setOp s i x).sram = s.sram := rfl
@[simp] theorem setOp_granules (s : State) (i : Nat) (x : Operator) : (setOp s i x).granules = s.granules := rfl
@[simp] theorem setOp_poison (s : State) (i : Nat) (x : Operator) : (setOp s i x).poison = s.poison := rfl
@[simp] theorem setOp_tags (s : State) (i : Nat) (x : Operator) : (setOp s i x).tags = s.tags := rfl
@[simp] theorem setOp_dirty3 (s : State) (i : Nat) (x : Operator) : (setOp s i x).dirty3 = s.dirty3 := rfl
@[simp] theorem setOp_remotes (s : State) (i : Nat) (x : Operator) : (setOp s i x).remotes = s.remotes := rfl
@[simp] theorem setOp_tlbs (s : State) (i : Nat) (x : Operator) : (setOp s i x).tlbs = s.tlbs := rfl
@[simp] theorem setOp_walks (s : State) (i : Nat) (x : Operator) : (setOp s i x).walks = s.walks := rfl
@[simp] theorem setOp_reports (s : State) (i : Nat) (x : Operator) : (setOp s i x).reports = s.reports := rfl
@[simp] theorem setOp_tensors (s : State) (i : Nat) (x : Operator) : (setOp s i x).tensors = s.tensors := rfl
@[simp] theorem setOp_used (s : State) (i : Nat) (x : Operator) : (setOp s i x).used = s.used := rfl
@[simp] theorem setOp_pageCount (s : State) (i : Nat) (x : Operator) : (setOp s i x).pageCount = s.pageCount := rfl
@[simp] theorem setOp_acts (s : State) (i : Nat) (x : Operator) : (setOp s i x).acts = s.acts := rfl
@[simp] theorem setOp_recomputes (s : State) (i : Nat) (x : Operator) : (setOp s i x).recomputes = s.recomputes := rfl
@[simp] theorem setOp_retry (s : State) (i : Nat) (x : Operator) : (setOp s i x).retry = s.retry := rfl
@[simp] theorem setOp_migrations (s : State) (i : Nat) (x : Operator) : (setOp s i x).migrations = s.migrations := rfl
@[simp] theorem setOp_parts (s : State) (i : Nat) (x : Operator) : (setOp s i x).parts = s.parts := rfl
@[simp] theorem setOp_queues (s : State) (i : Nat) (x : Operator) : (setOp s i x).queues = s.queues := rfl
@[simp] theorem setOp_rr (s : State) (i : Nat) (x : Operator) : (setOp s i x).rr = s.rr := rfl
@[simp] theorem setOp_groups (s : State) (i : Nat) (x : Operator) : (setOp s i x).groups = s.groups := rfl
@[simp] theorem setOp_rings (s : State) (i : Nat) (x : Operator) : (setOp s i x).rings = s.rings := rfl
@[simp] theorem setOp_streams (s : State) (i : Nat) (x : Operator) : (setOp s i x).streams = s.streams := rfl
@[simp] theorem setOp_joins (s : State) (i : Nat) (x : Operator) : (setOp s i x).joins = s.joins := rfl
@[simp] theorem setOp_retired (s : State) (i : Nat) (x : Operator) : (setOp s i x).retired = s.retired := rfl
@[simp] theorem setOp_colls (s : State) (i : Nat) (x : Operator) : (setOp s i x).colls = s.colls := rfl
@[simp] theorem setOp_saved (s : State) (i : Nat) (x : Operator) : (setOp s i x).saved = s.saved := rfl
@[simp] theorem setOp_lakes (s : State) (i : Nat) (x : Operator) : (setOp s i x).lakes = s.lakes := rfl
@[simp] theorem setOp_bases (s : State) (i : Nat) (x : Operator) : (setOp s i x).bases = s.bases := rfl
@[simp] theorem setOp_reserve (s : State) (i : Nat) (x : Operator) : (setOp s i x).reserve = s.reserve := rfl
@[simp] theorem setOp_commands (s : State) (i : Nat) (x : Operator) : (setOp s i x).commands = s.commands := rfl
@[simp] theorem setOp_sent (s : State) (i : Nat) (x : Operator) : (setOp s i x).sent = s.sent := rfl
@[simp] theorem setOp_wells (s : State) (i : Nat) (x : Operator) : (setOp s i x).wells = s.wells := rfl
@[simp] theorem setOp_wellDies (s : State) (i : Nat) (x : Operator) : (setOp s i x).wellDies = s.wellDies := rfl
@[simp] theorem setOp_dies (s : State) (i : Nat) (x : Operator) : (setOp s i x).dies = s.dies := rfl
@[simp] theorem setOp_stopped (s : State) (i : Nat) (x : Operator) : (setOp s i x).stopped = s.stopped := rfl
@[simp] theorem setOp_devnum (s : State) (i : Nat) (x : Operator) : (setOp s i x).devnum = s.devnum := rfl
@[simp] theorem setOp_flash (s : State) (i : Nat) (x : Operator) : (setOp s i x).flash = s.flash := rfl
@[simp] theorem setOp_secVersion (s : State) (i : Nat) (x : Operator) : (setOp s i x).secVersion = s.secVersion := rfl
@[simp] theorem setOp_measures (s : State) (i : Nat) (x : Operator) : (setOp s i x).measures = s.measures := rfl
@[simp] theorem setOp_serial (s : State) (i : Nat) (x : Operator) : (setOp s i x).serial = s.serial := rfl
@[simp] theorem setOp_recovery (s : State) (i : Nat) (x : Operator) : (setOp s i x).recovery = s.recovery := rfl
@[simp] theorem setOp_health (s : State) (i : Nat) (x : Operator) : (setOp s i x).health = s.health := rfl
@[simp] theorem setOp_unsaved (s : State) (i : Nat) (x : Operator) : (setOp s i x).unsaved = s.unsaved := rfl
@[simp] theorem setOp_links (s : State) (i : Nat) (x : Operator) : (setOp s i x).links = s.links := rfl
@[simp] theorem setOp_answered (s : State) (i : Nat) (x : Operator) : (setOp s i x).answered = s.answered := rfl
@[simp] theorem setOp_roBad (s : State) (i : Nat) (x : Operator) : (setOp s i x).roBad = s.roBad := rfl
@[simp] theorem setOp_served (s : State) (i : Nat) (x : Operator) : (setOp s i x).served = s.served := rfl
@[simp] theorem setOp_peers (s : State) (i : Nat) (x : Operator) : (setOp s i x).peers = s.peers := rfl
@[simp] theorem setOp_dispatched (s : State) (i : Nat) (x : Operator) : (setOp s i x).dispatched = s.dispatched := rfl
@[simp] theorem setOp_rails (s : State) (i : Nat) (x : Operator) : (setOp s i x).rails = s.rails := rfl
@[simp] theorem setOp_booted (s : State) (i : Nat) (x : Operator) : (setOp s i x).booted = s.booted := rfl
@[simp] theorem setOp_copies (s : State) (i : Nat) (x : Operator) : (setOp s i x).copies = s.copies := rfl
@[simp] theorem setOp_copyMask (s : State) (i : Nat) (x : Operator) : (setOp s i x).copyMask = s.copyMask := rfl
@[simp] theorem setOp_hours (s : State) (i : Nat) (x : Operator) : (setOp s i x).hours = s.hours := rfl
@[simp] theorem setOp_savedAt (s : State) (i : Nat) (x : Operator) : (setOp s i x).savedAt = s.savedAt := rfl
@[simp] theorem setOp_noticed (s : State) (i : Nat) (x : Operator) : (setOp s i x).noticed = s.noticed := rfl

/-! ### setTensor -/

@[simp] theorem setTensor_cycle (s : State) (p : Nat) (x : Tensor) : (setTensor s p x).cycle = s.cycle := rfl
@[simp] theorem setTensor_resets (s : State) (p : Nat) (x : Tensor) : (setTensor s p x).resets = s.resets := rfl
@[simp] theorem setTensor_fresh (s : State) (p : Nat) (x : Tensor) : (setTensor s p x).fresh = s.fresh := rfl
@[simp] theorem setTensor_turn (s : State) (p : Nat) (x : Tensor) : (setTensor s p x).turn = s.turn := rfl
@[simp] theorem setTensor_sched (s : State) (p : Nat) (x : Tensor) : (setTensor s p x).sched = s.sched := rfl
@[simp] theorem setTensor_sel (s : State) (p : Nat) (x : Tensor) : (setTensor s p x).sel = s.sel := rfl
@[simp] theorem setTensor_stage (s : State) (p : Nat) (x : Tensor) : (setTensor s p x).stage = s.stage := rfl
@[simp] theorem setTensor_ctxs (s : State) (p : Nat) (x : Tensor) : (setTensor s p x).ctxs = s.ctxs := rfl
@[simp] theorem setTensor_cores (s : State) (p : Nat) (x : Tensor) : (setTensor s p x).cores = s.cores := rfl
@[simp] theorem setTensor_splitCode (s : State) (p : Nat) (x : Tensor) : (setTensor s p x).splitCode = s.splitCode := rfl
@[simp] theorem setTensor_splits (s : State) (p : Nat) (x : Tensor) : (setTensor s p x).splits = s.splits := rfl
@[simp] theorem setTensor_ro (s : State) (p : Nat) (x : Tensor) : (setTensor s p x).ro = s.ro := rfl
@[simp] theorem setTensor_mem (s : State) (p : Nat) (x : Tensor) : (setTensor s p x).mem = s.mem := rfl
@[simp] theorem setTensor_sram (s : State) (p : Nat) (x : Tensor) : (setTensor s p x).sram = s.sram := rfl
@[simp] theorem setTensor_granules (s : State) (p : Nat) (x : Tensor) : (setTensor s p x).granules = s.granules := rfl
@[simp] theorem setTensor_poison (s : State) (p : Nat) (x : Tensor) : (setTensor s p x).poison = s.poison := rfl
@[simp] theorem setTensor_tags (s : State) (p : Nat) (x : Tensor) : (setTensor s p x).tags = s.tags := rfl
@[simp] theorem setTensor_dirty3 (s : State) (p : Nat) (x : Tensor) : (setTensor s p x).dirty3 = s.dirty3 := rfl
@[simp] theorem setTensor_remotes (s : State) (p : Nat) (x : Tensor) : (setTensor s p x).remotes = s.remotes := rfl
@[simp] theorem setTensor_tlbs (s : State) (p : Nat) (x : Tensor) : (setTensor s p x).tlbs = s.tlbs := rfl
@[simp] theorem setTensor_walks (s : State) (p : Nat) (x : Tensor) : (setTensor s p x).walks = s.walks := rfl
@[simp] theorem setTensor_reports (s : State) (p : Nat) (x : Tensor) : (setTensor s p x).reports = s.reports := rfl
@[simp] theorem setTensor_used (s : State) (p : Nat) (x : Tensor) : (setTensor s p x).used = s.used := rfl
@[simp] theorem setTensor_pageCount (s : State) (p : Nat) (x : Tensor) : (setTensor s p x).pageCount = s.pageCount := rfl
@[simp] theorem setTensor_acts (s : State) (p : Nat) (x : Tensor) : (setTensor s p x).acts = s.acts := rfl
@[simp] theorem setTensor_recomputes (s : State) (p : Nat) (x : Tensor) : (setTensor s p x).recomputes = s.recomputes := rfl
@[simp] theorem setTensor_retry (s : State) (p : Nat) (x : Tensor) : (setTensor s p x).retry = s.retry := rfl
@[simp] theorem setTensor_migrations (s : State) (p : Nat) (x : Tensor) : (setTensor s p x).migrations = s.migrations := rfl
@[simp] theorem setTensor_parts (s : State) (p : Nat) (x : Tensor) : (setTensor s p x).parts = s.parts := rfl
@[simp] theorem setTensor_ops (s : State) (p : Nat) (x : Tensor) : (setTensor s p x).ops = s.ops := rfl
@[simp] theorem setTensor_queues (s : State) (p : Nat) (x : Tensor) : (setTensor s p x).queues = s.queues := rfl
@[simp] theorem setTensor_rr (s : State) (p : Nat) (x : Tensor) : (setTensor s p x).rr = s.rr := rfl
@[simp] theorem setTensor_groups (s : State) (p : Nat) (x : Tensor) : (setTensor s p x).groups = s.groups := rfl
@[simp] theorem setTensor_rings (s : State) (p : Nat) (x : Tensor) : (setTensor s p x).rings = s.rings := rfl
@[simp] theorem setTensor_streams (s : State) (p : Nat) (x : Tensor) : (setTensor s p x).streams = s.streams := rfl
@[simp] theorem setTensor_joins (s : State) (p : Nat) (x : Tensor) : (setTensor s p x).joins = s.joins := rfl
@[simp] theorem setTensor_retired (s : State) (p : Nat) (x : Tensor) : (setTensor s p x).retired = s.retired := rfl
@[simp] theorem setTensor_colls (s : State) (p : Nat) (x : Tensor) : (setTensor s p x).colls = s.colls := rfl
@[simp] theorem setTensor_saved (s : State) (p : Nat) (x : Tensor) : (setTensor s p x).saved = s.saved := rfl
@[simp] theorem setTensor_lakes (s : State) (p : Nat) (x : Tensor) : (setTensor s p x).lakes = s.lakes := rfl
@[simp] theorem setTensor_bases (s : State) (p : Nat) (x : Tensor) : (setTensor s p x).bases = s.bases := rfl
@[simp] theorem setTensor_reserve (s : State) (p : Nat) (x : Tensor) : (setTensor s p x).reserve = s.reserve := rfl
@[simp] theorem setTensor_commands (s : State) (p : Nat) (x : Tensor) : (setTensor s p x).commands = s.commands := rfl
@[simp] theorem setTensor_sent (s : State) (p : Nat) (x : Tensor) : (setTensor s p x).sent = s.sent := rfl
@[simp] theorem setTensor_wells (s : State) (p : Nat) (x : Tensor) : (setTensor s p x).wells = s.wells := rfl
@[simp] theorem setTensor_wellDies (s : State) (p : Nat) (x : Tensor) : (setTensor s p x).wellDies = s.wellDies := rfl
@[simp] theorem setTensor_dies (s : State) (p : Nat) (x : Tensor) : (setTensor s p x).dies = s.dies := rfl
@[simp] theorem setTensor_stopped (s : State) (p : Nat) (x : Tensor) : (setTensor s p x).stopped = s.stopped := rfl
@[simp] theorem setTensor_devnum (s : State) (p : Nat) (x : Tensor) : (setTensor s p x).devnum = s.devnum := rfl
@[simp] theorem setTensor_flash (s : State) (p : Nat) (x : Tensor) : (setTensor s p x).flash = s.flash := rfl
@[simp] theorem setTensor_secVersion (s : State) (p : Nat) (x : Tensor) : (setTensor s p x).secVersion = s.secVersion := rfl
@[simp] theorem setTensor_measures (s : State) (p : Nat) (x : Tensor) : (setTensor s p x).measures = s.measures := rfl
@[simp] theorem setTensor_serial (s : State) (p : Nat) (x : Tensor) : (setTensor s p x).serial = s.serial := rfl
@[simp] theorem setTensor_recovery (s : State) (p : Nat) (x : Tensor) : (setTensor s p x).recovery = s.recovery := rfl
@[simp] theorem setTensor_health (s : State) (p : Nat) (x : Tensor) : (setTensor s p x).health = s.health := rfl
@[simp] theorem setTensor_unsaved (s : State) (p : Nat) (x : Tensor) : (setTensor s p x).unsaved = s.unsaved := rfl
@[simp] theorem setTensor_links (s : State) (p : Nat) (x : Tensor) : (setTensor s p x).links = s.links := rfl
@[simp] theorem setTensor_answered (s : State) (p : Nat) (x : Tensor) : (setTensor s p x).answered = s.answered := rfl
@[simp] theorem setTensor_roBad (s : State) (p : Nat) (x : Tensor) : (setTensor s p x).roBad = s.roBad := rfl
@[simp] theorem setTensor_served (s : State) (p : Nat) (x : Tensor) : (setTensor s p x).served = s.served := rfl
@[simp] theorem setTensor_peers (s : State) (p : Nat) (x : Tensor) : (setTensor s p x).peers = s.peers := rfl
@[simp] theorem setTensor_dispatched (s : State) (p : Nat) (x : Tensor) : (setTensor s p x).dispatched = s.dispatched := rfl
@[simp] theorem setTensor_rails (s : State) (p : Nat) (x : Tensor) : (setTensor s p x).rails = s.rails := rfl
@[simp] theorem setTensor_booted (s : State) (p : Nat) (x : Tensor) : (setTensor s p x).booted = s.booted := rfl
@[simp] theorem setTensor_hours (s : State) (p : Nat) (x : Tensor) : (setTensor s p x).hours = s.hours := rfl
@[simp] theorem setTensor_savedAt (s : State) (p : Nat) (x : Tensor) : (setTensor s p x).savedAt = s.savedAt := rfl
@[simp] theorem setTensor_noticed (s : State) (p : Nat) (x : Tensor) : (setTensor s p x).noticed = s.noticed := rfl

/-! ### Updates by a function are updates by a value -/

@[simp] theorem modCtx_def (s : State) (i : Nat) (f : Ctx → Ctx) : modCtx s i f = setCtx s i (f (ctxOf s i)) := rfl
@[simp] theorem modCore_def (s : State) (i : Nat) (f : Core → Core) : modCore s i f = setCore s i (f (coreOf s i)) := rfl
@[simp] theorem modPart_def (s : State) (i : Nat) (f : Partition → Partition) : modPart s i f = setPart s i (f (partOf s i)) := rfl

/-! ### Reading back -/

@[simp] theorem ctxOf_setCtx_same (s : State) (i : Nat) (x : Ctx) : ctxOf (setCtx s i x) i = x := by simp [ctxOf, setCtx]
@[simp] theorem ctxOf_setCtx_other (s : State) (i j : Nat) (x : Ctx) (h : j ≠ i) : ctxOf (setCtx s i x) j = ctxOf s j := by simp [ctxOf, setCtx, h]
@[simp] theorem setCtx_setCtx (s : State) (i : Nat) (x y : Ctx) : setCtx (setCtx s i x) i y = setCtx s i y := by simp [setCtx]
@[simp] theorem ctxOf_setCore (s : State) (i j : Nat) (x : Core) : ctxOf (setCore s i x) j = ctxOf s j := rfl
@[simp] theorem ctxOf_setPart (s : State) (i j : Nat) (x : Partition) : ctxOf (setPart s i x) j = ctxOf s j := rfl
@[simp] theorem ctxOf_setLake (s : State) (i j : Nat) (x : Lake) : ctxOf (setLake s i x) j = ctxOf s j := rfl
@[simp] theorem ctxOf_setRing (s : State) (i j : Nat) (x : Ring) : ctxOf (setRing s i x) j = ctxOf s j := rfl
@[simp] theorem ctxOf_setGroup (s : State) (i j : Nat) (x : Group) : ctxOf (setGroup s i x) j = ctxOf s j := rfl
@[simp] theorem ctxOf_setOp (s : State) (i j : Nat) (x : Operator) : ctxOf (setOp s i x) j = ctxOf s j := rfl
@[simp] theorem coreOf_setCore_same (s : State) (i : Nat) (x : Core) : coreOf (setCore s i x) i = x := by simp [coreOf, setCore]
@[simp] theorem coreOf_setCore_other (s : State) (i j : Nat) (x : Core) (h : j ≠ i) : coreOf (setCore s i x) j = coreOf s j := by simp [coreOf, setCore, h]
@[simp] theorem setCore_setCore (s : State) (i : Nat) (x y : Core) : setCore (setCore s i x) i y = setCore s i y := by simp [setCore]
@[simp] theorem coreOf_setCtx (s : State) (i j : Nat) (x : Ctx) : coreOf (setCtx s i x) j = coreOf s j := rfl
@[simp] theorem coreOf_setPart (s : State) (i j : Nat) (x : Partition) : coreOf (setPart s i x) j = coreOf s j := rfl
@[simp] theorem coreOf_setLake (s : State) (i j : Nat) (x : Lake) : coreOf (setLake s i x) j = coreOf s j := rfl
@[simp] theorem coreOf_setRing (s : State) (i j : Nat) (x : Ring) : coreOf (setRing s i x) j = coreOf s j := rfl
@[simp] theorem coreOf_setGroup (s : State) (i j : Nat) (x : Group) : coreOf (setGroup s i x) j = coreOf s j := rfl
@[simp] theorem coreOf_setOp (s : State) (i j : Nat) (x : Operator) : coreOf (setOp s i x) j = coreOf s j := rfl
@[simp] theorem partOf_setPart_same (s : State) (i : Nat) (x : Partition) : partOf (setPart s i x) i = x := by simp [partOf, setPart]
@[simp] theorem partOf_setPart_other (s : State) (i j : Nat) (x : Partition) (h : j ≠ i) : partOf (setPart s i x) j = partOf s j := by simp [partOf, setPart, h]
@[simp] theorem setPart_setPart (s : State) (i : Nat) (x y : Partition) : setPart (setPart s i x) i y = setPart s i y := by simp [setPart]
@[simp] theorem partOf_setCtx (s : State) (i j : Nat) (x : Ctx) : partOf (setCtx s i x) j = partOf s j := rfl
@[simp] theorem partOf_setCore (s : State) (i j : Nat) (x : Core) : partOf (setCore s i x) j = partOf s j := rfl
@[simp] theorem partOf_setLake (s : State) (i j : Nat) (x : Lake) : partOf (setLake s i x) j = partOf s j := rfl
@[simp] theorem partOf_setRing (s : State) (i j : Nat) (x : Ring) : partOf (setRing s i x) j = partOf s j := rfl
@[simp] theorem partOf_setGroup (s : State) (i j : Nat) (x : Group) : partOf (setGroup s i x) j = partOf s j := rfl
@[simp] theorem partOf_setOp (s : State) (i j : Nat) (x : Operator) : partOf (setOp s i x) j = partOf s j := rfl
@[simp] theorem lakeOf_setLake_same (s : State) (i : Nat) (x : Lake) : lakeOf (setLake s i x) i = x := by simp [lakeOf, setLake]
@[simp] theorem lakeOf_setLake_other (s : State) (i j : Nat) (x : Lake) (h : j ≠ i) : lakeOf (setLake s i x) j = lakeOf s j := by simp [lakeOf, setLake, h]
@[simp] theorem setLake_setLake (s : State) (i : Nat) (x y : Lake) : setLake (setLake s i x) i y = setLake s i y := by simp [setLake]
@[simp] theorem lakeOf_setCtx (s : State) (i j : Nat) (x : Ctx) : lakeOf (setCtx s i x) j = lakeOf s j := rfl
@[simp] theorem lakeOf_setCore (s : State) (i j : Nat) (x : Core) : lakeOf (setCore s i x) j = lakeOf s j := rfl
@[simp] theorem lakeOf_setPart (s : State) (i j : Nat) (x : Partition) : lakeOf (setPart s i x) j = lakeOf s j := rfl
@[simp] theorem lakeOf_setRing (s : State) (i j : Nat) (x : Ring) : lakeOf (setRing s i x) j = lakeOf s j := rfl
@[simp] theorem lakeOf_setGroup (s : State) (i j : Nat) (x : Group) : lakeOf (setGroup s i x) j = lakeOf s j := rfl
@[simp] theorem lakeOf_setOp (s : State) (i j : Nat) (x : Operator) : lakeOf (setOp s i x) j = lakeOf s j := rfl
@[simp] theorem ringOf_setRing_same (s : State) (i : Nat) (x : Ring) : ringOf (setRing s i x) i = x := by simp [ringOf, setRing]
@[simp] theorem ringOf_setRing_other (s : State) (i j : Nat) (x : Ring) (h : j ≠ i) : ringOf (setRing s i x) j = ringOf s j := by simp [ringOf, setRing, h]
@[simp] theorem setRing_setRing (s : State) (i : Nat) (x y : Ring) : setRing (setRing s i x) i y = setRing s i y := by simp [setRing]
@[simp] theorem ringOf_setCtx (s : State) (i j : Nat) (x : Ctx) : ringOf (setCtx s i x) j = ringOf s j := rfl
@[simp] theorem ringOf_setCore (s : State) (i j : Nat) (x : Core) : ringOf (setCore s i x) j = ringOf s j := rfl
@[simp] theorem ringOf_setPart (s : State) (i j : Nat) (x : Partition) : ringOf (setPart s i x) j = ringOf s j := rfl
@[simp] theorem ringOf_setLake (s : State) (i j : Nat) (x : Lake) : ringOf (setLake s i x) j = ringOf s j := rfl
@[simp] theorem ringOf_setGroup (s : State) (i j : Nat) (x : Group) : ringOf (setGroup s i x) j = ringOf s j := rfl
@[simp] theorem ringOf_setOp (s : State) (i j : Nat) (x : Operator) : ringOf (setOp s i x) j = ringOf s j := rfl
@[simp] theorem groupOf_setGroup_same (s : State) (i : Nat) (x : Group) : groupOf (setGroup s i x) i = x := by simp [groupOf, setGroup]
@[simp] theorem groupOf_setGroup_other (s : State) (i j : Nat) (x : Group) (h : j ≠ i) : groupOf (setGroup s i x) j = groupOf s j := by simp [groupOf, setGroup, h]
@[simp] theorem setGroup_setGroup (s : State) (i : Nat) (x y : Group) : setGroup (setGroup s i x) i y = setGroup s i y := by simp [setGroup]
@[simp] theorem groupOf_setCtx (s : State) (i j : Nat) (x : Ctx) : groupOf (setCtx s i x) j = groupOf s j := rfl
@[simp] theorem groupOf_setCore (s : State) (i j : Nat) (x : Core) : groupOf (setCore s i x) j = groupOf s j := rfl
@[simp] theorem groupOf_setPart (s : State) (i j : Nat) (x : Partition) : groupOf (setPart s i x) j = groupOf s j := rfl
@[simp] theorem groupOf_setLake (s : State) (i j : Nat) (x : Lake) : groupOf (setLake s i x) j = groupOf s j := rfl
@[simp] theorem groupOf_setRing (s : State) (i j : Nat) (x : Ring) : groupOf (setRing s i x) j = groupOf s j := rfl
@[simp] theorem groupOf_setOp (s : State) (i j : Nat) (x : Operator) : groupOf (setOp s i x) j = groupOf s j := rfl
@[simp] theorem opOf_setOp_same (s : State) (i : Nat) (x : Operator) : opOf (setOp s i x) i = some x := by simp [opOf, setOp]
@[simp] theorem opOf_setOp_other (s : State) (i j : Nat) (x : Operator) (h : j ≠ i) : opOf (setOp s i x) j = opOf s j := by simp [opOf, setOp, h]
@[simp] theorem opOf_setCtx (s : State) (i j : Nat) (x : Ctx) : opOf (setCtx s i x) j = opOf s j := rfl
@[simp] theorem opOf_setCore (s : State) (i j : Nat) (x : Core) : opOf (setCore s i x) j = opOf s j := rfl
@[simp] theorem opOf_setPart (s : State) (i j : Nat) (x : Partition) : opOf (setPart s i x) j = opOf s j := rfl
@[simp] theorem opOf_setLake (s : State) (i j : Nat) (x : Lake) : opOf (setLake s i x) j = opOf s j := rfl
@[simp] theorem opOf_setRing (s : State) (i j : Nat) (x : Ring) : opOf (setRing s i x) j = opOf s j := rfl
@[simp] theorem opOf_setGroup (s : State) (i j : Nat) (x : Group) : opOf (setGroup s i x) j = opOf s j := rfl
@[simp] theorem tensorOf_setCtx (s : State) (i p t : Nat) (x : Ctx) : tensorOf (setCtx s i x) p t = tensorOf s p t := rfl
@[simp] theorem tensorOf_setCore (s : State) (i p t : Nat) (x : Core) : tensorOf (setCore s i x) p t = tensorOf s p t := rfl
@[simp] theorem tensorOf_setPart (s : State) (i p t : Nat) (x : Partition) : tensorOf (setPart s i x) p t = tensorOf s p t := rfl
@[simp] theorem tensorOf_setLake (s : State) (i p t : Nat) (x : Lake) : tensorOf (setLake s i x) p t = tensorOf s p t := rfl
@[simp] theorem tensorOf_setRing (s : State) (i p t : Nat) (x : Ring) : tensorOf (setRing s i x) p t = tensorOf s p t := rfl
@[simp] theorem tensorOf_setGroup (s : State) (i p t : Nat) (x : Group) : tensorOf (setGroup s i x) p t = tensorOf s p t := rfl
@[simp] theorem tensorOf_setOp (s : State) (i p t : Nat) (x : Operator) : tensorOf (setOp s i x) p t = tensorOf s p t := rfl

/-! ### Contexts: queue, count and results -/

@[simp] theorem Ctx.setQueue_running (c : Ctx) (q : List WbEntry) : (c.setQueue q).running = c.running := by unfold Ctx.setQueue; split <;> rfl
@[simp] theorem Ctx.setQueue_uid (c : Ctx) (q : List WbEntry) : (c.setQueue q).uid = c.uid := by unfold Ctx.setQueue; split <;> rfl
@[simp] theorem Ctx.setQueue_pc (c : Ctx) (q : List WbEntry) : (c.setQueue q).pc = c.pc := by unfold Ctx.setQueue; split <;> rfl
@[simp] theorem Ctx.setQueue_s (c : Ctx) (q : List WbEntry) : (c.setQueue q).s = c.s := by unfold Ctx.setQueue; split <;> rfl
@[simp] theorem Ctx.setQueue_g (c : Ctx) (q : List WbEntry) : (c.setQueue q).g = c.g := by unfold Ctx.setQueue; split <;> rfl
@[simp] theorem Ctx.setQueue_v (c : Ctx) (q : List WbEntry) : (c.setQueue q).v = c.v := by unfold Ctx.setQueue; split <;> rfl
@[simp] theorem Ctx.setQueue_p (c : Ctx) (q : List WbEntry) : (c.setQueue q).p = c.p := by unfold Ctx.setQueue; split <;> rfl
@[simp] theorem Ctx.setQueue_h (c : Ctx) (q : List WbEntry) : (c.setQueue q).h = c.h := by unfold Ctx.setQueue; split <;> rfl
@[simp] theorem Ctx.setQueue_k (c : Ctx) (q : List WbEntry) : (c.setQueue q).k = c.k := by unfold Ctx.setQueue; split <;> rfl
@[simp] theorem Ctx.setQueue_m (c : Ctx) (q : List WbEntry) : (c.setQueue q).m = c.m := by unfold Ctx.setQueue; split <;> rfl
@[simp] theorem Ctx.setQueue_lc (c : Ctx) (q : List WbEntry) : (c.setQueue q).lc = c.lc := by unfold Ctx.setQueue; split <;> rfl
@[simp] theorem Ctx.setQueue_ec (c : Ctx) (q : List WbEntry) : (c.setQueue q).ec = c.ec := by unfold Ctx.setQueue; split <;> rfl
@[simp] theorem Ctx.setQueue_vrb (c : Ctx) (q : List WbEntry) : (c.setQueue q).vrb = c.vrb := by unfold Ctx.setQueue; split <;> rfl
@[simp] theorem Ctx.setQueue_prb (c : Ctx) (q : List WbEntry) : (c.setQueue q).prb = c.prb := by unfold Ctx.setQueue; split <;> rfl
@[simp] theorem Ctx.setQueue_warnSat (c : Ctx) (q : List WbEntry) : (c.setQueue q).warnSat = c.warnSat := by unfold Ctx.setQueue; split <;> rfl
@[simp] theorem Ctx.setQueue_warnFallback (c : Ctx) (q : List WbEntry) : (c.setQueue q).warnFallback = c.warnFallback := by unfold Ctx.setQueue; split <;> rfl
@[simp] theorem Ctx.setQueue_trapq (c : Ctx) (q : List WbEntry) : (c.setQueue q).trapq = c.trapq := by unfold Ctx.setQueue; split <;> rfl
@[simp] theorem Ctx.setQueue_halted (c : Ctx) (q : List WbEntry) : (c.setQueue q).halted = c.halted := by unfold Ctx.setQueue; split <;> rfl
@[simp] theorem Ctx.setQueue_pendchk (c : Ctx) (q : List WbEntry) : (c.setQueue q).pendchk = c.pendchk := by unfold Ctx.setQueue; split <;> rfl
@[simp] theorem Ctx.setQueue_mode (c : Ctx) (q : List WbEntry) : (c.setQueue q).mode = c.mode := by unfold Ctx.setQueue; split <;> rfl
@[simp] theorem Ctx.setQueue_cause (c : Ctx) (q : List WbEntry) : (c.setQueue q).cause = c.cause := by unfold Ctx.setQueue; split <;> rfl
@[simp] theorem Ctx.setQueue_epc (c : Ctx) (q : List WbEntry) : (c.setQueue q).epc = c.epc := by unfold Ctx.setQueue; split <;> rfl
@[simp] theorem Ctx.setQueue_tvec (c : Ctx) (q : List WbEntry) : (c.setQueue q).tvec = c.tvec := by unfold Ctx.setQueue; split <;> rfl
@[simp] theorem Ctx.setQueue_fhandle (c : Ctx) (q : List WbEntry) : (c.setQueue q).fhandle = c.fhandle := by unfold Ctx.setQueue; split <;> rfl
@[simp] theorem Ctx.setQueue_foffset (c : Ctx) (q : List WbEntry) : (c.setQueue q).foffset = c.foffset := by unfold Ctx.setQueue; split <;> rfl
@[simp] theorem Ctx.setQueue_hsave (c : Ctx) (q : List WbEntry) : (c.setQueue q).hsave = c.hsave := by unfold Ctx.setQueue; split <;> rfl
@[simp] theorem Ctx.setQueue_dbgctl (c : Ctx) (q : List WbEntry) : (c.setQueue q).dbgctl = c.dbgctl := by unfold Ctx.setQueue; split <;> rfl
@[simp] theorem Ctx.setQueue_watchlo (c : Ctx) (q : List WbEntry) : (c.setQueue q).watchlo = c.watchlo := by unfold Ctx.setQueue; split <;> rfl
@[simp] theorem Ctx.setQueue_watchhi (c : Ctx) (q : List WbEntry) : (c.setQueue q).watchhi = c.watchhi := by unfold Ctx.setQueue; split <;> rfl
@[simp] theorem Ctx.setQueue_count (c : Ctx) (q : List WbEntry) : (c.setQueue q).count = c.count := by unfold Ctx.setQueue; split <;> rfl
@[simp] theorem Ctx.setQueue_hcount (c : Ctx) (q : List WbEntry) : (c.setQueue q).hcount = c.hcount := by unfold Ctx.setQueue; split <;> rfl
@[simp] theorem Ctx.setQueue_block (c : Ctx) (q : List WbEntry) : (c.setQueue q).block = c.block := by unfold Ctx.setQueue; split <;> rfl
@[simp] theorem Ctx.setQueue_marks (c : Ctx) (q : List WbEntry) : (c.setQueue q).marks = c.marks := by unfold Ctx.setQueue; split <;> rfl
@[simp] theorem Ctx.setQueue_storeFail (c : Ctx) (q : List WbEntry) : (c.setQueue q).storeFail = c.storeFail := by unfold Ctx.setQueue; split <;> rfl
@[simp] theorem Ctx.setQueue_pendFail (c : Ctx) (q : List WbEntry) : (c.setQueue q).pendFail = c.pendFail := by unfold Ctx.setQueue; split <;> rfl
@[simp] theorem Ctx.setQueue_boundary (c : Ctx) (q : List WbEntry) : (c.setQueue q).boundary = c.boundary := by unfold Ctx.setQueue; split <;> rfl
@[simp] theorem Ctx.setQueue_wake (c : Ctx) (q : List WbEntry) : (c.setQueue q).wake = c.wake := by unfold Ctx.setQueue; split <;> rfl
@[simp] theorem Ctx.setQueue_task (c : Ctx) (q : List WbEntry) : (c.setQueue q).task = c.task := by unfold Ctx.setQueue; split <;> rfl
@[simp] theorem Ctx.setQueue_op (c : Ctx) (q : List WbEntry) : (c.setQueue q).op = c.op := by unfold Ctx.setQueue; split <;> rfl
@[simp] theorem Ctx.setQueue_launch (c : Ctx) (q : List WbEntry) : (c.setQueue q).launch = c.launch := by unfold Ctx.setQueue; split <;> rfl
@[simp] theorem Ctx.setQueue_tclass (c : Ctx) (q : List WbEntry) : (c.setQueue q).tclass = c.tclass := by unfold Ctx.setQueue; split <;> rfl
@[simp] theorem Ctx.setQueue_since (c : Ctx) (q : List WbEntry) : (c.setQueue q).since = c.since := by unfold Ctx.setQueue; split <;> rfl
@[simp] theorem Ctx.setQueue_reserved (c : Ctx) (q : List WbEntry) : (c.setQueue q).reserved = c.reserved := by unfold Ctx.setQueue; split <;> rfl
@[simp] theorem Ctx.setQueue_preq (c : Ctx) (q : List WbEntry) : (c.setQueue q).preq = c.preq := by unfold Ctx.setQueue; split <;> rfl
@[simp] theorem Ctx.setQueue_splitDone (c : Ctx) (q : List WbEntry) : (c.setQueue q).splitDone = c.splitDone := by unfold Ctx.setQueue; split <;> rfl
@[simp] theorem Ctx.setQueue_ending (c : Ctx) (q : List WbEntry) : (c.setQueue q).ending = c.ending := by unfold Ctx.setQueue; split <;> rfl
@[simp] theorem Ctx.setQueue_faultAt (c : Ctx) (q : List WbEntry) : (c.setQueue q).faultAt = c.faultAt := by unfold Ctx.setQueue; split <;> rfl
@[simp] theorem Ctx.setQueue_laterFails (c : Ctx) (q : List WbEntry) : (c.setQueue q).laterFails = c.laterFails := by unfold Ctx.setQueue; split <;> rfl
@[simp] theorem Ctx.setQueue_told (c : Ctx) (q : List WbEntry) : (c.setQueue q).told = c.told := by unfold Ctx.setQueue; split <;> rfl
@[simp] theorem Ctx.setQueue_returning (c : Ctx) (q : List WbEntry) : (c.setQueue q).returning = c.returning := by unfold Ctx.setQueue; split <;> rfl
@[simp] theorem Ctx.setQueue_five (c : Ctx) (q : List WbEntry) : (c.setQueue q).five = c.five := by unfold Ctx.setQueue; split <;> rfl
@[simp] theorem Ctx.setQueue_spawned (c : Ctx) (q : List WbEntry) : (c.setQueue q).spawned = c.spawned := by unfold Ctx.setQueue; split <;> rfl
@[simp] theorem Ctx.push_running (c : Ctx) (n : Nat) (r : Result) : (c.push n r).running = c.running := by simp [Ctx.push]
@[simp] theorem Ctx.push_uid (c : Ctx) (n : Nat) (r : Result) : (c.push n r).uid = c.uid := by simp [Ctx.push]
@[simp] theorem Ctx.push_pc (c : Ctx) (n : Nat) (r : Result) : (c.push n r).pc = c.pc := by simp [Ctx.push]
@[simp] theorem Ctx.push_s (c : Ctx) (n : Nat) (r : Result) : (c.push n r).s = c.s := by simp [Ctx.push]
@[simp] theorem Ctx.push_g (c : Ctx) (n : Nat) (r : Result) : (c.push n r).g = c.g := by simp [Ctx.push]
@[simp] theorem Ctx.push_v (c : Ctx) (n : Nat) (r : Result) : (c.push n r).v = c.v := by simp [Ctx.push]
@[simp] theorem Ctx.push_p (c : Ctx) (n : Nat) (r : Result) : (c.push n r).p = c.p := by simp [Ctx.push]
@[simp] theorem Ctx.push_h (c : Ctx) (n : Nat) (r : Result) : (c.push n r).h = c.h := by simp [Ctx.push]
@[simp] theorem Ctx.push_k (c : Ctx) (n : Nat) (r : Result) : (c.push n r).k = c.k := by simp [Ctx.push]
@[simp] theorem Ctx.push_m (c : Ctx) (n : Nat) (r : Result) : (c.push n r).m = c.m := by simp [Ctx.push]
@[simp] theorem Ctx.push_lc (c : Ctx) (n : Nat) (r : Result) : (c.push n r).lc = c.lc := by simp [Ctx.push]
@[simp] theorem Ctx.push_ec (c : Ctx) (n : Nat) (r : Result) : (c.push n r).ec = c.ec := by simp [Ctx.push]
@[simp] theorem Ctx.push_vrb (c : Ctx) (n : Nat) (r : Result) : (c.push n r).vrb = c.vrb := by simp [Ctx.push]
@[simp] theorem Ctx.push_prb (c : Ctx) (n : Nat) (r : Result) : (c.push n r).prb = c.prb := by simp [Ctx.push]
@[simp] theorem Ctx.push_warnSat (c : Ctx) (n : Nat) (r : Result) : (c.push n r).warnSat = c.warnSat := by simp [Ctx.push]
@[simp] theorem Ctx.push_warnFallback (c : Ctx) (n : Nat) (r : Result) : (c.push n r).warnFallback = c.warnFallback := by simp [Ctx.push]
@[simp] theorem Ctx.push_trapq (c : Ctx) (n : Nat) (r : Result) : (c.push n r).trapq = c.trapq := by simp [Ctx.push]
@[simp] theorem Ctx.push_halted (c : Ctx) (n : Nat) (r : Result) : (c.push n r).halted = c.halted := by simp [Ctx.push]
@[simp] theorem Ctx.push_pendchk (c : Ctx) (n : Nat) (r : Result) : (c.push n r).pendchk = c.pendchk := by simp [Ctx.push]
@[simp] theorem Ctx.push_mode (c : Ctx) (n : Nat) (r : Result) : (c.push n r).mode = c.mode := by simp [Ctx.push]
@[simp] theorem Ctx.push_cause (c : Ctx) (n : Nat) (r : Result) : (c.push n r).cause = c.cause := by simp [Ctx.push]
@[simp] theorem Ctx.push_epc (c : Ctx) (n : Nat) (r : Result) : (c.push n r).epc = c.epc := by simp [Ctx.push]
@[simp] theorem Ctx.push_tvec (c : Ctx) (n : Nat) (r : Result) : (c.push n r).tvec = c.tvec := by simp [Ctx.push]
@[simp] theorem Ctx.push_fhandle (c : Ctx) (n : Nat) (r : Result) : (c.push n r).fhandle = c.fhandle := by simp [Ctx.push]
@[simp] theorem Ctx.push_foffset (c : Ctx) (n : Nat) (r : Result) : (c.push n r).foffset = c.foffset := by simp [Ctx.push]
@[simp] theorem Ctx.push_hsave (c : Ctx) (n : Nat) (r : Result) : (c.push n r).hsave = c.hsave := by simp [Ctx.push]
@[simp] theorem Ctx.push_dbgctl (c : Ctx) (n : Nat) (r : Result) : (c.push n r).dbgctl = c.dbgctl := by simp [Ctx.push]
@[simp] theorem Ctx.push_watchlo (c : Ctx) (n : Nat) (r : Result) : (c.push n r).watchlo = c.watchlo := by simp [Ctx.push]
@[simp] theorem Ctx.push_watchhi (c : Ctx) (n : Nat) (r : Result) : (c.push n r).watchhi = c.watchhi := by simp [Ctx.push]
@[simp] theorem Ctx.push_count (c : Ctx) (n : Nat) (r : Result) : (c.push n r).count = c.count := by simp [Ctx.push]
@[simp] theorem Ctx.push_hcount (c : Ctx) (n : Nat) (r : Result) : (c.push n r).hcount = c.hcount := by simp [Ctx.push]
@[simp] theorem Ctx.push_block (c : Ctx) (n : Nat) (r : Result) : (c.push n r).block = c.block := by simp [Ctx.push]
@[simp] theorem Ctx.push_marks (c : Ctx) (n : Nat) (r : Result) : (c.push n r).marks = c.marks := by simp [Ctx.push]
@[simp] theorem Ctx.push_storeFail (c : Ctx) (n : Nat) (r : Result) : (c.push n r).storeFail = c.storeFail := by simp [Ctx.push]
@[simp] theorem Ctx.push_pendFail (c : Ctx) (n : Nat) (r : Result) : (c.push n r).pendFail = c.pendFail := by simp [Ctx.push]
@[simp] theorem Ctx.push_boundary (c : Ctx) (n : Nat) (r : Result) : (c.push n r).boundary = c.boundary := by simp [Ctx.push]
@[simp] theorem Ctx.push_wake (c : Ctx) (n : Nat) (r : Result) : (c.push n r).wake = c.wake := by simp [Ctx.push]
@[simp] theorem Ctx.push_task (c : Ctx) (n : Nat) (r : Result) : (c.push n r).task = c.task := by simp [Ctx.push]
@[simp] theorem Ctx.push_op (c : Ctx) (n : Nat) (r : Result) : (c.push n r).op = c.op := by simp [Ctx.push]
@[simp] theorem Ctx.push_launch (c : Ctx) (n : Nat) (r : Result) : (c.push n r).launch = c.launch := by simp [Ctx.push]
@[simp] theorem Ctx.push_tclass (c : Ctx) (n : Nat) (r : Result) : (c.push n r).tclass = c.tclass := by simp [Ctx.push]
@[simp] theorem Ctx.push_since (c : Ctx) (n : Nat) (r : Result) : (c.push n r).since = c.since := by simp [Ctx.push]
@[simp] theorem Ctx.push_reserved (c : Ctx) (n : Nat) (r : Result) : (c.push n r).reserved = c.reserved := by simp [Ctx.push]
@[simp] theorem Ctx.push_preq (c : Ctx) (n : Nat) (r : Result) : (c.push n r).preq = c.preq := by simp [Ctx.push]
@[simp] theorem Ctx.push_splitDone (c : Ctx) (n : Nat) (r : Result) : (c.push n r).splitDone = c.splitDone := by simp [Ctx.push]
@[simp] theorem Ctx.push_ending (c : Ctx) (n : Nat) (r : Result) : (c.push n r).ending = c.ending := by simp [Ctx.push]
@[simp] theorem Ctx.push_faultAt (c : Ctx) (n : Nat) (r : Result) : (c.push n r).faultAt = c.faultAt := by simp [Ctx.push]
@[simp] theorem Ctx.push_laterFails (c : Ctx) (n : Nat) (r : Result) : (c.push n r).laterFails = c.laterFails := by simp [Ctx.push]
@[simp] theorem Ctx.push_told (c : Ctx) (n : Nat) (r : Result) : (c.push n r).told = c.told := by simp [Ctx.push]
@[simp] theorem Ctx.push_returning (c : Ctx) (n : Nat) (r : Result) : (c.push n r).returning = c.returning := by simp [Ctx.push]
@[simp] theorem Ctx.push_five (c : Ctx) (n : Nat) (r : Result) : (c.push n r).five = c.five := by simp [Ctx.push]
@[simp] theorem Ctx.push_spawned (c : Ctx) (n : Nat) (r : Result) : (c.push n r).spawned = c.spawned := by simp [Ctx.push]
@[simp] theorem Ctx.tick_running (c : Ctx) : c.tick.running = c.running := by unfold Ctx.tick; split <;> rfl
@[simp] theorem Ctx.tick_uid (c : Ctx) : c.tick.uid = c.uid := by unfold Ctx.tick; split <;> rfl
@[simp] theorem Ctx.tick_pc (c : Ctx) : c.tick.pc = c.pc := by unfold Ctx.tick; split <;> rfl
@[simp] theorem Ctx.tick_s (c : Ctx) : c.tick.s = c.s := by unfold Ctx.tick; split <;> rfl
@[simp] theorem Ctx.tick_g (c : Ctx) : c.tick.g = c.g := by unfold Ctx.tick; split <;> rfl
@[simp] theorem Ctx.tick_v (c : Ctx) : c.tick.v = c.v := by unfold Ctx.tick; split <;> rfl
@[simp] theorem Ctx.tick_p (c : Ctx) : c.tick.p = c.p := by unfold Ctx.tick; split <;> rfl
@[simp] theorem Ctx.tick_h (c : Ctx) : c.tick.h = c.h := by unfold Ctx.tick; split <;> rfl
@[simp] theorem Ctx.tick_k (c : Ctx) : c.tick.k = c.k := by unfold Ctx.tick; split <;> rfl
@[simp] theorem Ctx.tick_m (c : Ctx) : c.tick.m = c.m := by unfold Ctx.tick; split <;> rfl
@[simp] theorem Ctx.tick_lc (c : Ctx) : c.tick.lc = c.lc := by unfold Ctx.tick; split <;> rfl
@[simp] theorem Ctx.tick_ec (c : Ctx) : c.tick.ec = c.ec := by unfold Ctx.tick; split <;> rfl
@[simp] theorem Ctx.tick_vrb (c : Ctx) : c.tick.vrb = c.vrb := by unfold Ctx.tick; split <;> rfl
@[simp] theorem Ctx.tick_prb (c : Ctx) : c.tick.prb = c.prb := by unfold Ctx.tick; split <;> rfl
@[simp] theorem Ctx.tick_warnSat (c : Ctx) : c.tick.warnSat = c.warnSat := by unfold Ctx.tick; split <;> rfl
@[simp] theorem Ctx.tick_warnFallback (c : Ctx) : c.tick.warnFallback = c.warnFallback := by unfold Ctx.tick; split <;> rfl
@[simp] theorem Ctx.tick_trapq (c : Ctx) : c.tick.trapq = c.trapq := by unfold Ctx.tick; split <;> rfl
@[simp] theorem Ctx.tick_halted (c : Ctx) : c.tick.halted = c.halted := by unfold Ctx.tick; split <;> rfl
@[simp] theorem Ctx.tick_pendchk (c : Ctx) : c.tick.pendchk = c.pendchk := by unfold Ctx.tick; split <;> rfl
@[simp] theorem Ctx.tick_mode (c : Ctx) : c.tick.mode = c.mode := by unfold Ctx.tick; split <;> rfl
@[simp] theorem Ctx.tick_cause (c : Ctx) : c.tick.cause = c.cause := by unfold Ctx.tick; split <;> rfl
@[simp] theorem Ctx.tick_epc (c : Ctx) : c.tick.epc = c.epc := by unfold Ctx.tick; split <;> rfl
@[simp] theorem Ctx.tick_tvec (c : Ctx) : c.tick.tvec = c.tvec := by unfold Ctx.tick; split <;> rfl
@[simp] theorem Ctx.tick_fhandle (c : Ctx) : c.tick.fhandle = c.fhandle := by unfold Ctx.tick; split <;> rfl
@[simp] theorem Ctx.tick_foffset (c : Ctx) : c.tick.foffset = c.foffset := by unfold Ctx.tick; split <;> rfl
@[simp] theorem Ctx.tick_hsave (c : Ctx) : c.tick.hsave = c.hsave := by unfold Ctx.tick; split <;> rfl
@[simp] theorem Ctx.tick_dbgctl (c : Ctx) : c.tick.dbgctl = c.dbgctl := by unfold Ctx.tick; split <;> rfl
@[simp] theorem Ctx.tick_watchlo (c : Ctx) : c.tick.watchlo = c.watchlo := by unfold Ctx.tick; split <;> rfl
@[simp] theorem Ctx.tick_watchhi (c : Ctx) : c.tick.watchhi = c.watchhi := by unfold Ctx.tick; split <;> rfl
@[simp] theorem Ctx.tick_wq (c : Ctx) : c.tick.wq = c.wq := by unfold Ctx.tick; split <;> rfl
@[simp] theorem Ctx.tick_hq (c : Ctx) : c.tick.hq = c.hq := by unfold Ctx.tick; split <;> rfl
@[simp] theorem Ctx.tick_block (c : Ctx) : c.tick.block = c.block := by unfold Ctx.tick; split <;> rfl
@[simp] theorem Ctx.tick_marks (c : Ctx) : c.tick.marks = c.marks := by unfold Ctx.tick; split <;> rfl
@[simp] theorem Ctx.tick_storeFail (c : Ctx) : c.tick.storeFail = c.storeFail := by unfold Ctx.tick; split <;> rfl
@[simp] theorem Ctx.tick_pendFail (c : Ctx) : c.tick.pendFail = c.pendFail := by unfold Ctx.tick; split <;> rfl
@[simp] theorem Ctx.tick_boundary (c : Ctx) : c.tick.boundary = c.boundary := by unfold Ctx.tick; split <;> rfl
@[simp] theorem Ctx.tick_wake (c : Ctx) : c.tick.wake = c.wake := by unfold Ctx.tick; split <;> rfl
@[simp] theorem Ctx.tick_task (c : Ctx) : c.tick.task = c.task := by unfold Ctx.tick; split <;> rfl
@[simp] theorem Ctx.tick_op (c : Ctx) : c.tick.op = c.op := by unfold Ctx.tick; split <;> rfl
@[simp] theorem Ctx.tick_launch (c : Ctx) : c.tick.launch = c.launch := by unfold Ctx.tick; split <;> rfl
@[simp] theorem Ctx.tick_tclass (c : Ctx) : c.tick.tclass = c.tclass := by unfold Ctx.tick; split <;> rfl
@[simp] theorem Ctx.tick_since (c : Ctx) : c.tick.since = c.since := by unfold Ctx.tick; split <;> rfl
@[simp] theorem Ctx.tick_reserved (c : Ctx) : c.tick.reserved = c.reserved := by unfold Ctx.tick; split <;> rfl
@[simp] theorem Ctx.tick_preq (c : Ctx) : c.tick.preq = c.preq := by unfold Ctx.tick; split <;> rfl
@[simp] theorem Ctx.tick_splitDone (c : Ctx) : c.tick.splitDone = c.splitDone := by unfold Ctx.tick; split <;> rfl
@[simp] theorem Ctx.tick_ending (c : Ctx) : c.tick.ending = c.ending := by unfold Ctx.tick; split <;> rfl
@[simp] theorem Ctx.tick_faultAt (c : Ctx) : c.tick.faultAt = c.faultAt := by unfold Ctx.tick; split <;> rfl
@[simp] theorem Ctx.tick_laterFails (c : Ctx) : c.tick.laterFails = c.laterFails := by unfold Ctx.tick; split <;> rfl
@[simp] theorem Ctx.tick_told (c : Ctx) : c.tick.told = c.told := by unfold Ctx.tick; split <;> rfl
@[simp] theorem Ctx.tick_returning (c : Ctx) : c.tick.returning = c.returning := by unfold Ctx.tick; split <;> rfl
@[simp] theorem Ctx.tick_five (c : Ctx) : c.tick.five = c.five := by unfold Ctx.tick; split <;> rfl
@[simp] theorem Ctx.tick_spawned (c : Ctx) : c.tick.spawned = c.spawned := by unfold Ctx.tick; split <;> rfl
@[simp] theorem Ctx.put_running (c : Ctx) (r : Result) : (c.put r).running = c.running := by cases r <;> simp only [Ctx.put] <;> (try split) <;> rfl
@[simp] theorem Ctx.put_uid (c : Ctx) (r : Result) : (c.put r).uid = c.uid := by cases r <;> simp only [Ctx.put] <;> (try split) <;> rfl
@[simp] theorem Ctx.put_pc (c : Ctx) (r : Result) : (c.put r).pc = c.pc := by cases r <;> simp only [Ctx.put] <;> (try split) <;> rfl
@[simp] theorem Ctx.put_h (c : Ctx) (r : Result) : (c.put r).h = c.h := by cases r <;> simp only [Ctx.put] <;> (try split) <;> rfl
@[simp] theorem Ctx.put_k (c : Ctx) (r : Result) : (c.put r).k = c.k := by cases r <;> simp only [Ctx.put] <;> (try split) <;> rfl
@[simp] theorem Ctx.put_warnSat (c : Ctx) (r : Result) : (c.put r).warnSat = c.warnSat := by cases r <;> simp only [Ctx.put] <;> (try split) <;> rfl
@[simp] theorem Ctx.put_warnFallback (c : Ctx) (r : Result) : (c.put r).warnFallback = c.warnFallback := by cases r <;> simp only [Ctx.put] <;> (try split) <;> rfl
@[simp] theorem Ctx.put_trapq (c : Ctx) (r : Result) : (c.put r).trapq = c.trapq := by cases r <;> simp only [Ctx.put] <;> (try split) <;> rfl
@[simp] theorem Ctx.put_halted (c : Ctx) (r : Result) : (c.put r).halted = c.halted := by cases r <;> simp only [Ctx.put] <;> (try split) <;> rfl
@[simp] theorem Ctx.put_pendchk (c : Ctx) (r : Result) : (c.put r).pendchk = c.pendchk := by cases r <;> simp only [Ctx.put] <;> (try split) <;> rfl
@[simp] theorem Ctx.put_mode (c : Ctx) (r : Result) : (c.put r).mode = c.mode := by cases r <;> simp only [Ctx.put] <;> (try split) <;> rfl
@[simp] theorem Ctx.put_cause (c : Ctx) (r : Result) : (c.put r).cause = c.cause := by cases r <;> simp only [Ctx.put] <;> (try split) <;> rfl
@[simp] theorem Ctx.put_epc (c : Ctx) (r : Result) : (c.put r).epc = c.epc := by cases r <;> simp only [Ctx.put] <;> (try split) <;> rfl
@[simp] theorem Ctx.put_tvec (c : Ctx) (r : Result) : (c.put r).tvec = c.tvec := by cases r <;> simp only [Ctx.put] <;> (try split) <;> rfl
@[simp] theorem Ctx.put_fhandle (c : Ctx) (r : Result) : (c.put r).fhandle = c.fhandle := by cases r <;> simp only [Ctx.put] <;> (try split) <;> rfl
@[simp] theorem Ctx.put_foffset (c : Ctx) (r : Result) : (c.put r).foffset = c.foffset := by cases r <;> simp only [Ctx.put] <;> (try split) <;> rfl
@[simp] theorem Ctx.put_hsave (c : Ctx) (r : Result) : (c.put r).hsave = c.hsave := by cases r <;> simp only [Ctx.put] <;> (try split) <;> rfl
@[simp] theorem Ctx.put_dbgctl (c : Ctx) (r : Result) : (c.put r).dbgctl = c.dbgctl := by cases r <;> simp only [Ctx.put] <;> (try split) <;> rfl
@[simp] theorem Ctx.put_watchlo (c : Ctx) (r : Result) : (c.put r).watchlo = c.watchlo := by cases r <;> simp only [Ctx.put] <;> (try split) <;> rfl
@[simp] theorem Ctx.put_watchhi (c : Ctx) (r : Result) : (c.put r).watchhi = c.watchhi := by cases r <;> simp only [Ctx.put] <;> (try split) <;> rfl
@[simp] theorem Ctx.put_count (c : Ctx) (r : Result) : (c.put r).count = c.count := by cases r <;> simp only [Ctx.put] <;> (try split) <;> rfl
@[simp] theorem Ctx.put_hcount (c : Ctx) (r : Result) : (c.put r).hcount = c.hcount := by cases r <;> simp only [Ctx.put] <;> (try split) <;> rfl
@[simp] theorem Ctx.put_wq (c : Ctx) (r : Result) : (c.put r).wq = c.wq := by cases r <;> simp only [Ctx.put] <;> (try split) <;> rfl
@[simp] theorem Ctx.put_hq (c : Ctx) (r : Result) : (c.put r).hq = c.hq := by cases r <;> simp only [Ctx.put] <;> (try split) <;> rfl
@[simp] theorem Ctx.put_block (c : Ctx) (r : Result) : (c.put r).block = c.block := by cases r <;> simp only [Ctx.put] <;> (try split) <;> rfl
@[simp] theorem Ctx.put_marks (c : Ctx) (r : Result) : (c.put r).marks = c.marks := by cases r <;> simp only [Ctx.put] <;> (try split) <;> rfl
@[simp] theorem Ctx.put_storeFail (c : Ctx) (r : Result) : (c.put r).storeFail = c.storeFail := by cases r <;> simp only [Ctx.put] <;> (try split) <;> rfl
@[simp] theorem Ctx.put_pendFail (c : Ctx) (r : Result) : (c.put r).pendFail = c.pendFail := by cases r <;> simp only [Ctx.put] <;> (try split) <;> rfl
@[simp] theorem Ctx.put_boundary (c : Ctx) (r : Result) : (c.put r).boundary = c.boundary := by cases r <;> simp only [Ctx.put] <;> (try split) <;> rfl
@[simp] theorem Ctx.put_wake (c : Ctx) (r : Result) : (c.put r).wake = c.wake := by cases r <;> simp only [Ctx.put] <;> (try split) <;> rfl
@[simp] theorem Ctx.put_task (c : Ctx) (r : Result) : (c.put r).task = c.task := by cases r <;> simp only [Ctx.put] <;> (try split) <;> rfl
@[simp] theorem Ctx.put_op (c : Ctx) (r : Result) : (c.put r).op = c.op := by cases r <;> simp only [Ctx.put] <;> (try split) <;> rfl
@[simp] theorem Ctx.put_launch (c : Ctx) (r : Result) : (c.put r).launch = c.launch := by cases r <;> simp only [Ctx.put] <;> (try split) <;> rfl
@[simp] theorem Ctx.put_tclass (c : Ctx) (r : Result) : (c.put r).tclass = c.tclass := by cases r <;> simp only [Ctx.put] <;> (try split) <;> rfl
@[simp] theorem Ctx.put_since (c : Ctx) (r : Result) : (c.put r).since = c.since := by cases r <;> simp only [Ctx.put] <;> (try split) <;> rfl
@[simp] theorem Ctx.put_reserved (c : Ctx) (r : Result) : (c.put r).reserved = c.reserved := by cases r <;> simp only [Ctx.put] <;> (try split) <;> rfl
@[simp] theorem Ctx.put_preq (c : Ctx) (r : Result) : (c.put r).preq = c.preq := by cases r <;> simp only [Ctx.put] <;> (try split) <;> rfl
@[simp] theorem Ctx.put_splitDone (c : Ctx) (r : Result) : (c.put r).splitDone = c.splitDone := by cases r <;> simp only [Ctx.put] <;> (try split) <;> rfl
@[simp] theorem Ctx.put_ending (c : Ctx) (r : Result) : (c.put r).ending = c.ending := by cases r <;> simp only [Ctx.put] <;> (try split) <;> rfl
@[simp] theorem Ctx.put_faultAt (c : Ctx) (r : Result) : (c.put r).faultAt = c.faultAt := by cases r <;> simp only [Ctx.put] <;> (try split) <;> rfl
@[simp] theorem Ctx.put_laterFails (c : Ctx) (r : Result) : (c.put r).laterFails = c.laterFails := by cases r <;> simp only [Ctx.put] <;> (try split) <;> rfl
@[simp] theorem Ctx.put_told (c : Ctx) (r : Result) : (c.put r).told = c.told := by cases r <;> simp only [Ctx.put] <;> (try split) <;> rfl
@[simp] theorem Ctx.put_returning (c : Ctx) (r : Result) : (c.put r).returning = c.returning := by cases r <;> simp only [Ctx.put] <;> (try split) <;> rfl
@[simp] theorem Ctx.put_five (c : Ctx) (r : Result) : (c.put r).five = c.five := by cases r <;> simp only [Ctx.put] <;> (try split) <;> rfl
@[simp] theorem Ctx.put_spawned (c : Ctx) (r : Result) : (c.put r).spawned = c.spawned := by cases r <;> simp only [Ctx.put] <;> (try split) <;> rfl

@[simp] theorem Ctx.setQueue_queue (c : Ctx) (q : List WbEntry) : (c.setQueue q).queue = q := by
  simp only [Ctx.queue, Ctx.setQueue_mode]
  unfold Ctx.setQueue
  split <;> rfl
@[simp] theorem Ctx.push_queue (c : Ctx) (n : Nat) (r : Result) : (c.push n r).queue = c.queue ++ [⟨r, n, c.now + n⟩] := by simp [Ctx.push]
@[simp] theorem Ctx.push_now (c : Ctx) (n : Nat) (r : Result) : (c.push n r).now = c.now := by simp [Ctx.now]
@[simp] theorem Ctx.setQueue_now (c : Ctx) (q : List WbEntry) : (c.setQueue q).now = c.now := by simp [Ctx.now]
@[simp] theorem Ctx.tick_queue (c : Ctx) : c.tick.queue = c.queue := by simp [Ctx.queue]
@[simp] theorem Ctx.tick_now (c : Ctx) : c.tick.now = c.now + 1 := by
  simp only [Ctx.now, Ctx.tick_mode]
  unfold Ctx.tick
  split <;> rfl
@[simp] theorem Ctx.put_queue (c : Ctx) (r : Result) : (c.put r).queue = c.queue := by simp [Ctx.queue]
@[simp] theorem Ctx.put_now (c : Ctx) (r : Result) : (c.put r).now = c.now := by simp [Ctx.now]

end Sys2Proof.Machine
end

