-- ==== Sys2Proof/Laws/Memory.lean ====
section
/-! SUPPORT. Memory: reading back what a write wrote, that a write leaves every other byte alone, and that every memory operation keeps the canonical form. -/

namespace Sys2Proof.Machine

/-! ### The canonical form of a list of cells -/

/-- The canonical form, said cell by cell. -/
theorem wf_iff (m : List Host.Cell) : Memory.wf m = true ↔ m.Pairwise (fun x y => x.1 < y.1) ∧ ∀ e ∈ m, e.2 ≠ 0 := by
  induction m with
  | nil => simp [Memory.wf]
  | cons e r ih =>
    cases r with
    | nil => simp [Memory.wf]
    | cons f q =>
      simp only [Memory.wf, Bool.and_eq_true, bne_iff_ne, ne_eq, decide_eq_true_eq, ih]
      constructor
      · rintro ⟨⟨h0, hlt⟩, hp, hz⟩
        refine ⟨List.pairwise_cons.2 ⟨?_, hp⟩, ?_⟩
        · intro x hx
          rcases List.mem_cons.1 hx with rfl | hx
          · exact hlt
          · exact Nat.lt_trans hlt ((List.pairwise_cons.1 hp).1 x hx)
        · intro x hx
          rcases List.mem_cons.1 hx with rfl | hx
          · exact h0
          · exact hz x hx
      · rintro ⟨hp, hz⟩
        have hc := List.pairwise_cons.1 hp
        exact ⟨⟨hz e (by simp), hc.1 f (by simp)⟩, hc.2, fun x hx => hz x (List.mem_cons_of_mem _ hx)⟩

theorem wf_filter (m : List Host.Cell) (p : Host.Cell → Bool) (h : Memory.wf m = true) : Memory.wf (m.filter p) = true := by
  rw [wf_iff] at *
  exact ⟨h.1.filter p, fun e he => h.2 e (List.mem_of_mem_filter he)⟩

/-- What a table holds once a key is set. -/
theorem mem_tset {α : Type} (t : Tab α) (k : Nat) (v : α) (e : Nat × α) (h : e ∈ tset t k v) : e = (k, v) ∨ e ∈ t := by
  induction t with
  | nil => exact Or.inl (by simpa [tset] using h)
  | cons f r ih =>
    obtain ⟨j, w⟩ := f
    simp only [tset] at h
    split at h
    · rcases List.mem_cons.1 h with h | h
      · exact Or.inl h
      · exact Or.inr (List.mem_cons_of_mem _ h)
    · split at h
      · rcases List.mem_cons.1 h with h | h
        · exact Or.inl h
        · exact Or.inr h
      · rcases List.mem_cons.1 h with h | h
        · exact Or.inr (by simp [h])
        · exact (ih h).imp id (List.mem_cons_of_mem _)

/-- Setting a key keeps the keys rising. -/
theorem tset_sorted {α : Type} (t : Tab α) (k : Nat) (v : α) (h : t.Pairwise (fun x y => x.1 < y.1)) : (tset t k v).Pairwise (fun x y => x.1 < y.1) := by
  induction t with
  | nil => simp [tset]
  | cons f r ih =>
    obtain ⟨j, w⟩ := f
    have hc := List.pairwise_cons.1 h
    simp only [tset]
    split
    · rename_i hj
      subst hj
      exact List.pairwise_cons.2 ⟨hc.1, hc.2⟩
    · split
      · rename_i hlt
        refine List.pairwise_cons.2 ⟨?_, h⟩
        intro x hx
        rcases List.mem_cons.1 hx with rfl | hx
        · exact hlt
        · exact Nat.lt_trans hlt (hc.1 x hx)
      · rename_i hne hnlt
        refine List.pairwise_cons.2 ⟨?_, ih hc.2⟩
        intro x hx
        rcases mem_tset _ _ _ _ hx with rfl | hx
        · exact Nat.lt_of_le_of_ne (Nat.le_of_not_lt hnlt) hne
        · exact hc.1 x hx

theorem wf_cellSet (m : List Host.Cell) (a : Nat) (b : Byte) (h : Memory.wf m = true) : Memory.wf (cellSet m a b) = true := by
  unfold cellSet
  split
  · exact wf_filter m _ h
  · rename_i hb
    rw [wf_iff] at *
    refine ⟨tset_sorted m a b h.1, fun e he => ?_⟩
    rcases mem_tset _ _ _ _ he with rfl | he
    · exact hb
    · exact h.2 e he

theorem wf_cellsSet (l : List Byte) (m : List Host.Cell) (a : Nat) (h : Memory.wf m = true) : Memory.wf (cellsSet m a l) = true := by
  induction l generalizing m a with
  | nil => exact h
  | cons b r ih => exact ih _ _ (wf_cellSet m a b h)

/-! ### Read after write -/

theorem tget_filter_same {α : Type} (d : α) (t : Tab α) (k : Nat) : tget d (tdel t k) k = d := by
  induction t with
  | nil => rfl
  | cons e r ih =>
    obtain ⟨j, w⟩ := e
    unfold tdel at *
    by_cases hj : j = k
    · simpa [hj] using ih
    · simpa [List.filter_cons, hj, tget] using ih

theorem tget_filter_other {α : Type} (d : α) (t : Tab α) (k l : Nat) (h : l ≠ k) : tget d (tdel t k) l = tget d t l := by
  induction t with
  | nil => rfl
  | cons e r ih =>
    obtain ⟨j, w⟩ := e
    unfold tdel at *
    by_cases hj : j = k
    · subst hj
      simpa [tget, Ne.symm h] using ih
    · simp [hj, tget, ih]

/-- A byte reads as it was last written. -/
@[simp] theorem cellGet_cellSet_same (m : List Host.Cell) (a : Nat) (b : Byte) : cellGet (cellSet m a b) a = b := by
  unfold cellGet cellSet
  split
  · rename_i hb
    simp [hb, tget_filter_same]
  · simp

/-- A write leaves every other byte alone. -/
@[simp] theorem cellGet_cellSet_other (m : List Host.Cell) (a c : Nat) (b : Byte) (h : c ≠ a) : cellGet (cellSet m a b) c = cellGet m c := by
  unfold cellGet cellSet
  split
  · exact tget_filter_other 0 m a c h
  · simp [h]

/-- Bytes stored in a row leave every address outside the row alone. -/
theorem cellGet_cellsSet_outside (l : List Byte) (m : List Host.Cell) (a c : Nat) (h : c < a ∨ a + l.length ≤ c) : cellGet (cellsSet m a l) c = cellGet m c := by
  induction l generalizing m a with
  | nil => rfl
  | cons b r ih =>
    simp only [List.length_cons] at h
    rw [cellsSet, ih (cellSet m a b) (a + 1) (by omega)]
    exact cellGet_cellSet_other m a c b (by omega)

/-- Bytes stored in a row read back. -/
theorem cellGet_cellsSet_inside (l : List Byte) (m : List Host.Cell) (a i : Nat) (h : i < l.length) : cellGet (cellsSet m a l) (a + i) = l.getD i 0 := by
  induction l generalizing m a i with
  | nil => simp at h
  | cons b r ih =>
    cases i with
    | zero =>
      rw [cellsSet, Nat.add_zero, cellGet_cellsSet_outside r _ _ _ (Or.inl (by omega))]
      simp
    | succ i =>
      have := ih (cellSet m a b) (a + 1) i (by simpa using h)
      rw [cellsSet, show a + (i + 1) = a + 1 + i by omega, this]
      simp

/-! ### Every memory operation keeps the canonical form -/

theorem memWf_iff (s : State) : memWf s = true ↔ Memory.wf s.mem = true ∧ Memory.wf s.sram = true := by simp [memWf]

/-- An operation that touches neither memory keeps the form. -/
theorem memWf_same {s t : State} (h : memWf s = true) (hm : t.mem = s.mem) (hs : t.sram = s.sram) : memWf t = true := by
  rw [memWf_iff] at *
  rw [hm, hs]
  exact h

/-- A fold of operations that keep the form keeps it. -/
theorem foldl_keeps {α β : Type} {P : β → Prop} (f : β → α → β) (hf : ∀ b a, P b → P (f b a)) (l : List α) (b : β) (h : P b) : P (l.foldl f b) := by
  induction l generalizing b with
  | nil => exact h
  | cons a r ih => exact ih _ (hf b a h)

theorem memWf_reset : memWf State.reset = true := by decide

theorem memWf_writeScr (s : State) (c b n : Nat) (v : Byte) (h : memWf s = true) : memWf (writeScr s c b n v) = true := by
  rw [memWf_iff] at *
  unfold writeScr
  simp only
  split
  · exact ⟨h.1, wf_cellSet _ _ _ h.2⟩
  · exact ⟨h.1, wf_cellSet _ _ _ (wf_filter _ _ h.2)⟩

theorem memWf_storeScr (s : State) (c k b n : Nat) (v : Byte) (h : memWf s = true) : memWf (storeScr s c k b n v) = true := by
  unfold storeScr
  split
  · exact memWf_same (memWf_writeScr s k b n v h) rfl rfl
  · exact h

theorem memWf_clearPoison (s : State) (l : Loc) (n : Nat) (h : memWf s = true) : memWf (clearPoison s l n) = true := memWf_same h rfl rfl

theorem memWf_storeLocal (s : State) (c off n : Nat) (d : List Byte) (h : memWf s = true) : memWf (storeLocal s c off n d) = true := by
  unfold storeLocal
  refine memWf_same (foldl_keeps (P := fun s => memWf s = true) _ (fun b i hb => ?_) _ _ h) rfl rfl
  split
  · exact memWf_storeScr _ _ _ _ _ _ hb
  · exact hb

theorem memWf_writeLoc (s : State) (n : Nat) (l : Loc) (b : Byte) (h : memWf s = true) : memWf (writeLoc s n l b) = true := by
  cases l with
  | scr c k => exact memWf_writeScr s c k n b h
  | mem k =>
    rw [memWf_iff] at *
    exact ⟨wf_cellSet _ _ _ h.1, h.2⟩
  | comp k => exact memWf_same h rfl rfl
  | far d t o => exact h

theorem memWf_writeLocs (s : State) (n : Nat) (l : Loc) (d : List Byte) (h : memWf s = true) : memWf (writeLocs s n l d) = true := by
  unfold writeLocs
  exact memWf_clearPoison _ _ _ (foldl_keeps (P := fun s => memWf s = true) _ (fun b i hb => memWf_writeLoc _ _ _ _ hb) _ _ h)

theorem memWf_storeByte (s : State) (c n : Nat) (l : Loc) (b : Byte) (h : memWf s = true) : memWf (storeByte s c n l b) = true := by
  unfold storeByte
  split
  · exact memWf_same (memWf_writeLoc s n l b h) rfl rfl
  · exact h

theorem memWf_plainStore (s : State) (c n : Nat) (l : Loc) (d : List Byte) (h : memWf s = true) : memWf (plainStore s c n l d) = true := by
  unfold plainStore
  exact memWf_same (foldl_keeps (P := fun s => memWf s = true) _ (fun b i hb => memWf_storeByte _ _ _ _ _ hb) _ _ h) rfl rfl

theorem memWf_overSegs (f : State → Loc → List Byte → State) (hf : ∀ s l d, memWf s = true → memWf (f s l d) = true) (segs : List Seg) (s : State) (d : List Byte)
    (h : memWf s = true) : memWf (overSegs f s segs d) = true := by
  induction segs generalizing s d with
  | nil => exact h
  | cons g r ih => exact ih _ _ (hf _ _ _ h)

theorem memWf_storeSegs (s : State) (c n : Nat) (segs : List Seg) (d : List Byte) (h : memWf s = true) : memWf (storeSegs s c n segs d) = true :=
  memWf_overSegs _ (fun s l d hs => memWf_plainStore s c n l d hs) segs s d h

theorem memWf_writeSegs (s : State) (n : Nat) (segs : List Seg) (d : List Byte) (h : memWf s = true) : memWf (writeSegs s n segs d) = true :=
  memWf_overSegs _ (fun s l d hs => memWf_writeLocs s n l d hs) segs s d h

theorem memWf_setAD (s : State) (l : Leaf) (w : Bool) (h : memWf s = true) : memWf (setAD s l w).1 = true := by
  unfold setAD
  simp only
  by_cases hw : (l.word ||| (if w then 0x600 else 0x200)) = l.word
  · rw [if_pos hw]
    exact h
  · rw [if_neg hw]
    rw [memWf_iff] at *
    exact ⟨wf_cellsSet _ _ _ h.1, h.2⟩

theorem memWf_storeVa (s : State) (p va : Nat) (d : List Byte) (h : memWf s = true) : memWf (storeVa s p va d) = true := by
  unfold storeVa
  refine foldl_keeps (P := fun a : State × List Byte => memWf a.1 = true) _ (fun a q ha => ?_) _ _ h
  split
  · split
    · exact memWf_writeLocs _ _ _ _ (memWf_setAD _ _ _ ha)
    · exact ha
  · exact ha

theorem memWf_touchVa (s : State) (p va n : Nat) (h : memWf s = true) : memWf (touchVa s p va n) = true := by
  unfold touchVa
  refine foldl_keeps (P := fun s => memWf s = true) _ (fun b q hb => ?_) _ _ h
  split
  · exact memWf_setAD _ _ _ hb
  · exact hb

theorem memWf_touchTensor (s : State) (p t o n : Nat) (h : memWf s = true) : memWf (touchTensor s p t o n) = true := by
  unfold touchTensor
  split
  · exact memWf_touchVa _ _ _ _ h
  · exact h

theorem memWf_tensorStore (s : State) (p t o : Nat) (d : List Byte) (h : memWf s = true) : memWf (tensorStore s p t o d) = true := by
  unfold tensorStore
  split
  · exact h
  · split
    · exact h
    · exact memWf_storeVa _ _ _ _ (memWf_same h rfl rfl)

theorem memWf_zeroFrame (s : State) (f : Nat) (h : memWf s = true) : memWf (zeroFrame s f) = true := by
  rw [memWf_iff] at *
  exact ⟨wf_filter _ _ h.1, h.2⟩

theorem memWf_copyFrame (s : State) (a b : Nat) (h : memWf s = true) : memWf (copyFrame s a b) = true := by
  have hz := memWf_zeroFrame s b h
  rw [memWf_iff] at *
  exact ⟨foldl_keeps (P := fun m => Memory.wf m = true) _ (fun m e hm => wf_cellSet _ _ _ hm) _ _ hz.1, hz.2⟩

theorem memWf_putCompressed (s : State) (k run codes : Nat) (d : List Byte) (h : memWf s = true) : memWf (putCompressed s k run codes d) = true := by
  rw [memWf_iff] at *
  exact ⟨wf_cellsSet _ _ _ (wf_cellsSet _ _ _ h.1), h.2⟩

theorem memWf_putRaw (s : State) (k : Nat) (d : List Byte) (h : memWf s = true) : memWf (putRaw s k d) = true := by
  unfold putRaw
  simp only
  rw [memWf_iff] at *
  split
  · exact ⟨wf_cellsSet _ _ _ h.1, h.2⟩
  · exact ⟨wf_cellsSet _ _ _ h.1, h.2⟩

theorem memWf_reserveLine (s : State) (k l : Nat) (d : List Byte) (h : memWf s = true) : memWf (reserveLine s k l d) = true := by
  unfold reserveLine
  rw [memWf_iff] at *
  exact ⟨wf_cellsSet _ _ _ (wf_cellsSet _ _ _ h.1), h.2⟩

theorem memWf_reserveAll (s : State) (k : Nat) (d : List Byte) (h : memWf s = true) : memWf (reserveAll s k d) = true := by
  unfold reserveAll
  refine foldl_keeps (P := fun s => memWf s = true) _ (fun s l hs => memWf_reserveLine _ _ _ _ hs) _ _ ?_
  rw [memWf_iff] at *
  exact ⟨wf_cellsSet _ _ _ h.1, h.2⟩

theorem memWf_dirtyAll (s : State) (k : Nat) (d : List Byte) (h : memWf s = true) : memWf (dirtyAll s k d) = true := by
  unfold dirtyAll
  refine foldl_keeps (P := fun s => memWf s = true) _ (fun b l hs => ?_) _ _ h
  exact memWf_same (s := b) hs rfl rfl

theorem memWf_spillBlock (s : State) (k : Nat) (d : List Byte) (h : memWf s = true) : memWf (spillBlock s k d) = true := by
  unfold spillBlock
  split
  · exact memWf_reserveAll _ _ _ h
  · split
    · exact memWf_dirtyAll _ _ _ h
    · exact memWf_putRaw _ _ _ h

theorem memWf_compressBlock (s : State) (k : Nat) (d : List Byte) (h : memWf s = true) : memWf (compressBlock s k d) = true := by
  unfold compressBlock
  simp only
  split
  · split
    · exact memWf_spillBlock _ _ _ h
    · exact memWf_putRaw _ _ _ h
  · split
    · exact memWf_putCompressed _ _ _ _ _ (memWf_same h rfl rfl)
    · split
      · exact memWf_putCompressed _ _ _ _ _ (memWf_same h rfl rfl)
      · exact memWf_spillBlock _ _ _ h

theorem memWf_takeFrame (s : State) (i tier f : Nat) (t : State) (h : memWf s = true) (e : takeFrame s i tier = some (f, t)) : memWf t = true := by
  unfold takeFrame at e
  split at e
  · exact absurd e (by simp)
  · simp only [Option.some.injEq, Prod.mk.injEq] at e
    obtain ⟨_, rfl⟩ := e
    exact memWf_same h rfl rfl

theorem memWf_takeFrameOf (s : State) (l : List Nat) (tier f : Nat) (t : State) (h : memWf s = true) (e : takeFrameOf s l tier = some (f, t)) : memWf t = true := by
  unfold takeFrameOf at e
  obtain ⟨i, -, hi⟩ := List.exists_of_findSome?_eq_some e
  exact memWf_takeFrame s i tier f t h hi

theorem memWf_ensureTable (levels : List (Nat × Nat × Nat)) (s : State) (l : List Nat) (va k n : Nat) (t : State) (h : memWf s = true)
    (e : ensureTable s l va levels k = some (n, t)) : memWf t = true := by
  induction levels generalizing s k with
  | nil =>
    simp only [ensureTable, Option.some.injEq, Prod.mk.injEq] at e
    rw [← e.2]
    exact h
  | cons x r ih =>
    obtain ⟨lv, sh, w⟩ := x
    unfold ensureTable at e
    simp only at e
    split at e
    · split at e
      · exact absurd e (by simp)
      · exact ih _ _ h e
    · split at e
      · exact absurd e (by simp)
      · rename_i f s' hf
        have hz := memWf_zeroFrame s' f (memWf_takeFrameOf _ _ _ _ _ h hf)
        refine ih _ _ ?_ e
        rw [memWf_iff] at *
        exact ⟨wf_cellsSet _ _ _ hz.1, hz.2⟩

theorem memWf_mapPage (s : State) (p die va f tier : Nat) (t : State) (h : memWf s = true) (e : mapPage s p die va f tier = some t) : memWf t = true := by
  unfold mapPage at e
  obtain ⟨r, hk, rfl⟩ := Option.map_eq_some_iff.1 e
  unfold leafSlot at hk
  split at hk
  · exact absurd hk (by simp)
  · obtain ⟨q, hq, rfl⟩ := Option.map_eq_some_iff.1 hk
    have ht := memWf_ensureTable _ _ _ _ _ _ _ h hq
    rw [memWf_iff] at *
    exact ⟨wf_cellsSet _ _ _ ht.1, ht.2⟩

theorem memWf_unmapPage (s : State) (p va : Nat) (h : memWf s = true) : memWf (unmapPage s p va) = true := by
  unfold unmapPage
  split
  · rw [memWf_iff] at *
    exact ⟨wf_cellsSet _ _ _ h.1, h.2⟩
  · exact h

end Sys2Proof.Machine
end

