-- ==== Sys2Proof/Laws/Bundle.lean ====
section
/-! SUPPORT. What landing, issuing and committing a bundle can do (R14 to R20): a local store changes scratchpad bytes alone, landing changes registers and scratchpad alone, and the bundle of a quiet context that no check stops commits its effects. -/

namespace Sys2Proof.Machine

/-! ### Local stores -/

/-- `u` is `s` but for scratchpad bytes with their launch marks, tags and poison. -/
def ScrOnly (s u : State) : Prop := ∃ a b t p, u = { s with sram := a, granules := b, tags := t, poison := p }

theorem ScrOnly.refl (s : State) : ScrOnly s s := ⟨_, _, _, _, rfl⟩

theorem scrOnly_writeScr {s u : State} (h : ScrOnly s u) (c b n : Nat) (v : Byte) : ScrOnly s (writeScr u c b n v) := by
  obtain ⟨_, _, _, _, rfl⟩ := h
  unfold writeScr
  simp only
  split <;> exact ⟨_, _, _, _, rfl⟩

theorem scrOnly_storeScr {s u : State} (h : ScrOnly s u) (c k b n : Nat) (v : Byte) : ScrOnly s (storeScr u c k b n v) := by
  unfold storeScr
  split
  · obtain ⟨_, _, _, _, hw⟩ := scrOnly_writeScr h k b n v
    rw [hw]
    exact ⟨_, _, _, _, rfl⟩
  · exact h

/-- A local store changes scratchpad alone. -/
theorem scrOnly_storeLocal {s u : State} (h : ScrOnly s u) (c off n : Nat) (d : List Byte) : ScrOnly s (storeLocal u c off n d) := by
  unfold storeLocal
  have hf : ScrOnly s ((List.range d.length).foldl (fun s i => if off + i < shareOf u c then storeScr s c c (off + i) n (d.getD i 0) else s) u) := by
    refine foldl_keeps (P := ScrOnly s) _ (fun b i hb => ?_) _ _ h
    split
    · exact scrOnly_storeScr hb _ _ _ _ _
    · exact hb
  obtain ⟨_, _, _, _, he⟩ := hf
  simp only
  rw [he]
  exact ⟨_, _, _, _, rfl⟩

/-! ### Landing (R19) -/

/-- `u` is `s` but for scratchpad and the registers and queues of context `id`. -/
structure Landed (s u : State) (id : Nat) : Prop where
  scr : ∃ x, ScrOnly (setCtx s id x) u
  running : (ctxOf u id).running = (ctxOf s id).running
  uid : (ctxOf u id).uid = (ctxOf s id).uid
  pc : (ctxOf u id).pc = (ctxOf s id).pc
  h : (ctxOf u id).h = (ctxOf s id).h
  k : (ctxOf u id).k = (ctxOf s id).k
  warnSat : (ctxOf u id).warnSat = (ctxOf s id).warnSat
  warnFallback : (ctxOf u id).warnFallback = (ctxOf s id).warnFallback
  trapq : (ctxOf u id).trapq = (ctxOf s id).trapq
  halted : (ctxOf u id).halted = (ctxOf s id).halted
  pendchk : (ctxOf u id).pendchk = (ctxOf s id).pendchk
  mode : (ctxOf u id).mode = (ctxOf s id).mode
  cause : (ctxOf u id).cause = (ctxOf s id).cause
  epc : (ctxOf u id).epc = (ctxOf s id).epc
  tvec : (ctxOf u id).tvec = (ctxOf s id).tvec
  fhandle : (ctxOf u id).fhandle = (ctxOf s id).fhandle
  foffset : (ctxOf u id).foffset = (ctxOf s id).foffset
  hsave : (ctxOf u id).hsave = (ctxOf s id).hsave
  dbgctl : (ctxOf u id).dbgctl = (ctxOf s id).dbgctl
  watchlo : (ctxOf u id).watchlo = (ctxOf s id).watchlo
  watchhi : (ctxOf u id).watchhi = (ctxOf s id).watchhi
  count : (ctxOf u id).count = (ctxOf s id).count
  hcount : (ctxOf u id).hcount = (ctxOf s id).hcount
  block : (ctxOf u id).block = (ctxOf s id).block
  marks : (ctxOf u id).marks = (ctxOf s id).marks
  storeFail : (ctxOf u id).storeFail = (ctxOf s id).storeFail
  pendFail : (ctxOf u id).pendFail = (ctxOf s id).pendFail
  boundary : (ctxOf u id).boundary = (ctxOf s id).boundary
  wake : (ctxOf u id).wake = (ctxOf s id).wake
  task : (ctxOf u id).task = (ctxOf s id).task
  op : (ctxOf u id).op = (ctxOf s id).op
  launch : (ctxOf u id).launch = (ctxOf s id).launch
  tclass : (ctxOf u id).tclass = (ctxOf s id).tclass
  since : (ctxOf u id).since = (ctxOf s id).since
  reserved : (ctxOf u id).reserved = (ctxOf s id).reserved
  preq : (ctxOf u id).preq = (ctxOf s id).preq
  splitDone : (ctxOf u id).splitDone = (ctxOf s id).splitDone
  ending : (ctxOf u id).ending = (ctxOf s id).ending
  faultAt : (ctxOf u id).faultAt = (ctxOf s id).faultAt
  laterFails : (ctxOf u id).laterFails = (ctxOf s id).laterFails
  told : (ctxOf u id).told = (ctxOf s id).told
  returning : (ctxOf u id).returning = (ctxOf s id).returning
  five : (ctxOf u id).five = (ctxOf s id).five
  spawned : (ctxOf u id).spawned = (ctxOf s id).spawned

theorem ctxOf_scrOnly {s u : State} (h : ScrOnly s u) (id : Nat) : ctxOf u id = ctxOf s id := by
  obtain ⟨_, _, _, _, rfl⟩ := h
  rfl

theorem setCtx_scrOnly {s u : State} (h : ScrOnly s u) (id : Nat) (x : Ctx) : ScrOnly (setCtx s id x) (setCtx u id x) := by
  obtain ⟨_, _, _, _, rfl⟩ := h
  exact ⟨_, _, _, _, rfl⟩

/-- A change of the context that keeps what landing keeps. -/
theorem Landed.put {s u : State} {id : Nat} (h : Landed s u id) (r : Result) : Landed s (setCtx u id ((ctxOf u id).put r)) id := by
  obtain ⟨x, hx⟩ := h.scr
  have hs := setCtx_scrOnly hx id ((ctxOf u id).put r)
  rw [setCtx_setCtx] at hs
  exact
    { scr := ⟨_, hs⟩
      running := by simpa using h.running
      uid := by simpa using h.uid
      pc := by simpa using h.pc
      h := by simpa using h.h
      k := by simpa using h.k
      warnSat := by simpa using h.warnSat
      warnFallback := by simpa using h.warnFallback
      trapq := by simpa using h.trapq
      halted := by simpa using h.halted
      pendchk := by simpa using h.pendchk
      mode := by simpa using h.mode
      cause := by simpa using h.cause
      epc := by simpa using h.epc
      tvec := by simpa using h.tvec
      fhandle := by simpa using h.fhandle
      foffset := by simpa using h.foffset
      hsave := by simpa using h.hsave
      dbgctl := by simpa using h.dbgctl
      watchlo := by simpa using h.watchlo
      watchhi := by simpa using h.watchhi
      count := by simpa using h.count
      hcount := by simpa using h.hcount
      block := by simpa using h.block
      marks := by simpa using h.marks
      storeFail := by simpa using h.storeFail
      pendFail := by simpa using h.pendFail
      boundary := by simpa using h.boundary
      wake := by simpa using h.wake
      task := by simpa using h.task
      op := by simpa using h.op
      launch := by simpa using h.launch
      tclass := by simpa using h.tclass
      since := by simpa using h.since
      reserved := by simpa using h.reserved
      preq := by simpa using h.preq
      splitDone := by simpa using h.splitDone
      ending := by simpa using h.ending
      faultAt := by simpa using h.faultAt
      laterFails := by simpa using h.laterFails
      told := by simpa using h.told
      returning := by simpa using h.returning
      five := by simpa using h.five
      spawned := by simpa using h.spawned }

theorem Landed.local {s u : State} {id : Nat} (h : Landed s u id) (c off n : Nat) (d : List Byte) : Landed s (storeLocal u c off n d) id := by
  obtain ⟨x, hx⟩ := h.scr
  have hc : ctxOf (storeLocal u c off n d) id = ctxOf u id := ctxOf_scrOnly (scrOnly_storeLocal (ScrOnly.refl u) c off n d) id
  exact
    { scr := ⟨x, scrOnly_storeLocal hx c off n d⟩
      running := by rw [hc]; exact h.running
      uid := by rw [hc]; exact h.uid
      pc := by rw [hc]; exact h.pc
      h := by rw [hc]; exact h.h
      k := by rw [hc]; exact h.k
      warnSat := by rw [hc]; exact h.warnSat
      warnFallback := by rw [hc]; exact h.warnFallback
      trapq := by rw [hc]; exact h.trapq
      halted := by rw [hc]; exact h.halted
      pendchk := by rw [hc]; exact h.pendchk
      mode := by rw [hc]; exact h.mode
      cause := by rw [hc]; exact h.cause
      epc := by rw [hc]; exact h.epc
      tvec := by rw [hc]; exact h.tvec
      fhandle := by rw [hc]; exact h.fhandle
      foffset := by rw [hc]; exact h.foffset
      hsave := by rw [hc]; exact h.hsave
      dbgctl := by rw [hc]; exact h.dbgctl
      watchlo := by rw [hc]; exact h.watchlo
      watchhi := by rw [hc]; exact h.watchhi
      count := by rw [hc]; exact h.count
      hcount := by rw [hc]; exact h.hcount
      block := by rw [hc]; exact h.block
      marks := by rw [hc]; exact h.marks
      storeFail := by rw [hc]; exact h.storeFail
      pendFail := by rw [hc]; exact h.pendFail
      boundary := by rw [hc]; exact h.boundary
      wake := by rw [hc]; exact h.wake
      task := by rw [hc]; exact h.task
      op := by rw [hc]; exact h.op
      launch := by rw [hc]; exact h.launch
      tclass := by rw [hc]; exact h.tclass
      since := by rw [hc]; exact h.since
      reserved := by rw [hc]; exact h.reserved
      preq := by rw [hc]; exact h.preq
      splitDone := by rw [hc]; exact h.splitDone
      ending := by rw [hc]; exact h.ending
      faultAt := by rw [hc]; exact h.faultAt
      laterFails := by rw [hc]; exact h.laterFails
      told := by rw [hc]; exact h.told
      returning := by rw [hc]; exact h.returning
      five := by rw [hc]; exact h.five
      spawned := by rw [hc]; exact h.spawned }

theorem Landed.apply {s u : State} {id : Nat} (h : Landed s u id) (r : Result) : Landed s (applyResult u id r) id := by
  cases r with
  | bytes off d => exact h.local _ _ _ _
  | _ => exact h.put _

/-- Landing changes the registers and queues of its context, and scratchpad, and nothing else (R19). -/
theorem landed_landDue (s : State) (id : Nat) : Landed s (landDue s id) id := by
  unfold landDue
  refine foldl_keeps (P := fun u => Landed s u id) _ (fun u e hu => hu.apply e.res) _ _ ?_
  exact
    { scr := ⟨_, ScrOnly.refl _⟩
      running := by simp
      uid := by simp
      pc := by simp
      h := by simp
      k := by simp
      warnSat := by simp
      warnFallback := by simp
      trapq := by simp
      halted := by simp
      pendchk := by simp
      mode := by simp
      cause := by simp
      epc := by simp
      tvec := by simp
      fhandle := by simp
      foffset := by simp
      hsave := by simp
      dbgctl := by simp
      watchlo := by simp
      watchhi := by simp
      count := by simp
      hcount := by simp
      block := by simp
      marks := by simp
      storeFail := by simp
      pendFail := by simp
      boundary := by simp
      wake := by simp
      task := by simp
      op := by simp
      launch := by simp
      tclass := by simp
      since := by simp
      reserved := by simp
      preq := by simp
      splitDone := by simp
      ending := by simp
      faultAt := by simp
      laterFails := by simp
      told := by simp
      returning := by simp
      five := by simp
      spawned := by simp }

/-- The fields of the state that landing leaves. -/
@[simp] theorem landDue_cycle (s : State) (id : Nat) : (landDue s id).cycle = s.cycle := by obtain ⟨x, _, _, _, _, h⟩ := (landed_landDue s id).scr; rw [h]; rfl
@[simp] theorem landDue_resets (s : State) (id : Nat) : (landDue s id).resets = s.resets := by obtain ⟨x, _, _, _, _, h⟩ := (landed_landDue s id).scr; rw [h]; rfl
@[simp] theorem landDue_fresh (s : State) (id : Nat) : (landDue s id).fresh = s.fresh := by obtain ⟨x, _, _, _, _, h⟩ := (landed_landDue s id).scr; rw [h]; rfl
@[simp] theorem landDue_turn (s : State) (id : Nat) : (landDue s id).turn = s.turn := by obtain ⟨x, _, _, _, _, h⟩ := (landed_landDue s id).scr; rw [h]; rfl
@[simp] theorem landDue_sched (s : State) (id : Nat) : (landDue s id).sched = s.sched := by obtain ⟨x, _, _, _, _, h⟩ := (landed_landDue s id).scr; rw [h]; rfl
@[simp] theorem landDue_sel (s : State) (id : Nat) : (landDue s id).sel = s.sel := by obtain ⟨x, _, _, _, _, h⟩ := (landed_landDue s id).scr; rw [h]; rfl
@[simp] theorem landDue_stage (s : State) (id : Nat) : (landDue s id).stage = s.stage := by obtain ⟨x, _, _, _, _, h⟩ := (landed_landDue s id).scr; rw [h]; rfl
@[simp] theorem landDue_cores (s : State) (id : Nat) : (landDue s id).cores = s.cores := by obtain ⟨x, _, _, _, _, h⟩ := (landed_landDue s id).scr; rw [h]; rfl
@[simp] theorem landDue_splitCode (s : State) (id : Nat) : (landDue s id).splitCode = s.splitCode := by obtain ⟨x, _, _, _, _, h⟩ := (landed_landDue s id).scr; rw [h]; rfl
@[simp] theorem landDue_splits (s : State) (id : Nat) : (landDue s id).splits = s.splits := by obtain ⟨x, _, _, _, _, h⟩ := (landed_landDue s id).scr; rw [h]; rfl
@[simp] theorem landDue_ro (s : State) (id : Nat) : (landDue s id).ro = s.ro := by obtain ⟨x, _, _, _, _, h⟩ := (landed_landDue s id).scr; rw [h]; rfl
@[simp] theorem landDue_mem (s : State) (id : Nat) : (landDue s id).mem = s.mem := by obtain ⟨x, _, _, _, _, h⟩ := (landed_landDue s id).scr; rw [h]; rfl
@[simp] theorem landDue_dirty3 (s : State) (id : Nat) : (landDue s id).dirty3 = s.dirty3 := by obtain ⟨x, _, _, _, _, h⟩ := (landed_landDue s id).scr; rw [h]; rfl
@[simp] theorem landDue_remotes (s : State) (id : Nat) : (landDue s id).remotes = s.remotes := by obtain ⟨x, _, _, _, _, h⟩ := (landed_landDue s id).scr; rw [h]; rfl
@[simp] theorem landDue_tlbs (s : State) (id : Nat) : (landDue s id).tlbs = s.tlbs := by obtain ⟨x, _, _, _, _, h⟩ := (landed_landDue s id).scr; rw [h]; rfl
@[simp] theorem landDue_walks (s : State) (id : Nat) : (landDue s id).walks = s.walks := by obtain ⟨x, _, _, _, _, h⟩ := (landed_landDue s id).scr; rw [h]; rfl
@[simp] theorem landDue_reports (s : State) (id : Nat) : (landDue s id).reports = s.reports := by obtain ⟨x, _, _, _, _, h⟩ := (landed_landDue s id).scr; rw [h]; rfl
@[simp] theorem landDue_tensors (s : State) (id : Nat) : (landDue s id).tensors = s.tensors := by obtain ⟨x, _, _, _, _, h⟩ := (landed_landDue s id).scr; rw [h]; rfl
@[simp] theorem landDue_used (s : State) (id : Nat) : (landDue s id).used = s.used := by obtain ⟨x, _, _, _, _, h⟩ := (landed_landDue s id).scr; rw [h]; rfl
@[simp] theorem landDue_pageCount (s : State) (id : Nat) : (landDue s id).pageCount = s.pageCount := by obtain ⟨x, _, _, _, _, h⟩ := (landed_landDue s id).scr; rw [h]; rfl
@[simp] theorem landDue_acts (s : State) (id : Nat) : (landDue s id).acts = s.acts := by obtain ⟨x, _, _, _, _, h⟩ := (landed_landDue s id).scr; rw [h]; rfl
@[simp] theorem landDue_recomputes (s : State) (id : Nat) : (landDue s id).recomputes = s.recomputes := by obtain ⟨x, _, _, _, _, h⟩ := (landed_landDue s id).scr; rw [h]; rfl
@[simp] theorem landDue_retry (s : State) (id : Nat) : (landDue s id).retry = s.retry := by obtain ⟨x, _, _, _, _, h⟩ := (landed_landDue s id).scr; rw [h]; rfl
@[simp] theorem landDue_migrations (s : State) (id : Nat) : (landDue s id).migrations = s.migrations := by obtain ⟨x, _, _, _, _, h⟩ := (landed_landDue s id).scr; rw [h]; rfl
@[simp] theorem landDue_parts (s : State) (id : Nat) : (landDue s id).parts = s.parts := by obtain ⟨x, _, _, _, _, h⟩ := (landed_landDue s id).scr; rw [h]; rfl
@[simp] theorem landDue_ops (s : State) (id : Nat) : (landDue s id).ops = s.ops := by obtain ⟨x, _, _, _, _, h⟩ := (landed_landDue s id).scr; rw [h]; rfl
@[simp] theorem landDue_queues (s : State) (id : Nat) : (landDue s id).queues = s.queues := by obtain ⟨x, _, _, _, _, h⟩ := (landed_landDue s id).scr; rw [h]; rfl
@[simp] theorem landDue_rr (s : State) (id : Nat) : (landDue s id).rr = s.rr := by obtain ⟨x, _, _, _, _, h⟩ := (landed_landDue s id).scr; rw [h]; rfl
@[simp] theorem landDue_groups (s : State) (id : Nat) : (landDue s id).groups = s.groups := by obtain ⟨x, _, _, _, _, h⟩ := (landed_landDue s id).scr; rw [h]; rfl
@[simp] theorem landDue_rings (s : State) (id : Nat) : (landDue s id).rings = s.rings := by obtain ⟨x, _, _, _, _, h⟩ := (landed_landDue s id).scr; rw [h]; rfl
@[simp] theorem landDue_streams (s : State) (id : Nat) : (landDue s id).streams = s.streams := by obtain ⟨x, _, _, _, _, h⟩ := (landed_landDue s id).scr; rw [h]; rfl
@[simp] theorem landDue_joins (s : State) (id : Nat) : (landDue s id).joins = s.joins := by obtain ⟨x, _, _, _, _, h⟩ := (landed_landDue s id).scr; rw [h]; rfl
@[simp] theorem landDue_retired (s : State) (id : Nat) : (landDue s id).retired = s.retired := by obtain ⟨x, _, _, _, _, h⟩ := (landed_landDue s id).scr; rw [h]; rfl
@[simp] theorem landDue_colls (s : State) (id : Nat) : (landDue s id).colls = s.colls := by obtain ⟨x, _, _, _, _, h⟩ := (landed_landDue s id).scr; rw [h]; rfl
@[simp] theorem landDue_saved (s : State) (id : Nat) : (landDue s id).saved = s.saved := by obtain ⟨x, _, _, _, _, h⟩ := (landed_landDue s id).scr; rw [h]; rfl
@[simp] theorem landDue_lakes (s : State) (id : Nat) : (landDue s id).lakes = s.lakes := by obtain ⟨x, _, _, _, _, h⟩ := (landed_landDue s id).scr; rw [h]; rfl
@[simp] theorem landDue_bases (s : State) (id : Nat) : (landDue s id).bases = s.bases := by obtain ⟨x, _, _, _, _, h⟩ := (landed_landDue s id).scr; rw [h]; rfl
@[simp] theorem landDue_reserve (s : State) (id : Nat) : (landDue s id).reserve = s.reserve := by obtain ⟨x, _, _, _, _, h⟩ := (landed_landDue s id).scr; rw [h]; rfl
@[simp] theorem landDue_commands (s : State) (id : Nat) : (landDue s id).commands = s.commands := by obtain ⟨x, _, _, _, _, h⟩ := (landed_landDue s id).scr; rw [h]; rfl
@[simp] theorem landDue_sent (s : State) (id : Nat) : (landDue s id).sent = s.sent := by obtain ⟨x, _, _, _, _, h⟩ := (landed_landDue s id).scr; rw [h]; rfl
@[simp] theorem landDue_wells (s : State) (id : Nat) : (landDue s id).wells = s.wells := by obtain ⟨x, _, _, _, _, h⟩ := (landed_landDue s id).scr; rw [h]; rfl
@[simp] theorem landDue_wellDies (s : State) (id : Nat) : (landDue s id).wellDies = s.wellDies := by obtain ⟨x, _, _, _, _, h⟩ := (landed_landDue s id).scr; rw [h]; rfl
@[simp] theorem landDue_dies (s : State) (id : Nat) : (landDue s id).dies = s.dies := by obtain ⟨x, _, _, _, _, h⟩ := (landed_landDue s id).scr; rw [h]; rfl
@[simp] theorem landDue_stopped (s : State) (id : Nat) : (landDue s id).stopped = s.stopped := by obtain ⟨x, _, _, _, _, h⟩ := (landed_landDue s id).scr; rw [h]; rfl
@[simp] theorem landDue_devnum (s : State) (id : Nat) : (landDue s id).devnum = s.devnum := by obtain ⟨x, _, _, _, _, h⟩ := (landed_landDue s id).scr; rw [h]; rfl
@[simp] theorem landDue_flash (s : State) (id : Nat) : (landDue s id).flash = s.flash := by obtain ⟨x, _, _, _, _, h⟩ := (landed_landDue s id).scr; rw [h]; rfl
@[simp] theorem landDue_secVersion (s : State) (id : Nat) : (landDue s id).secVersion = s.secVersion := by obtain ⟨x, _, _, _, _, h⟩ := (landed_landDue s id).scr; rw [h]; rfl
@[simp] theorem landDue_measures (s : State) (id : Nat) : (landDue s id).measures = s.measures := by obtain ⟨x, _, _, _, _, h⟩ := (landed_landDue s id).scr; rw [h]; rfl
@[simp] theorem landDue_serial (s : State) (id : Nat) : (landDue s id).serial = s.serial := by obtain ⟨x, _, _, _, _, h⟩ := (landed_landDue s id).scr; rw [h]; rfl
@[simp] theorem landDue_recovery (s : State) (id : Nat) : (landDue s id).recovery = s.recovery := by obtain ⟨x, _, _, _, _, h⟩ := (landed_landDue s id).scr; rw [h]; rfl
@[simp] theorem landDue_health (s : State) (id : Nat) : (landDue s id).health = s.health := by obtain ⟨x, _, _, _, _, h⟩ := (landed_landDue s id).scr; rw [h]; rfl
@[simp] theorem landDue_unsaved (s : State) (id : Nat) : (landDue s id).unsaved = s.unsaved := by obtain ⟨x, _, _, _, _, h⟩ := (landed_landDue s id).scr; rw [h]; rfl
@[simp] theorem landDue_links (s : State) (id : Nat) : (landDue s id).links = s.links := by obtain ⟨x, _, _, _, _, h⟩ := (landed_landDue s id).scr; rw [h]; rfl
@[simp] theorem landDue_answered (s : State) (id : Nat) : (landDue s id).answered = s.answered := by obtain ⟨x, _, _, _, _, h⟩ := (landed_landDue s id).scr; rw [h]; rfl
@[simp] theorem landDue_roBad (s : State) (id : Nat) : (landDue s id).roBad = s.roBad := by obtain ⟨x, _, _, _, _, h⟩ := (landed_landDue s id).scr; rw [h]; rfl
@[simp] theorem landDue_served (s : State) (id : Nat) : (landDue s id).served = s.served := by obtain ⟨x, _, _, _, _, h⟩ := (landed_landDue s id).scr; rw [h]; rfl
@[simp] theorem landDue_peers (s : State) (id : Nat) : (landDue s id).peers = s.peers := by obtain ⟨x, _, _, _, _, h⟩ := (landed_landDue s id).scr; rw [h]; rfl
@[simp] theorem landDue_dispatched (s : State) (id : Nat) : (landDue s id).dispatched = s.dispatched := by obtain ⟨x, _, _, _, _, h⟩ := (landed_landDue s id).scr; rw [h]; rfl
@[simp] theorem landDue_rails (s : State) (id : Nat) : (landDue s id).rails = s.rails := by obtain ⟨x, _, _, _, _, h⟩ := (landed_landDue s id).scr; rw [h]; rfl
@[simp] theorem landDue_booted (s : State) (id : Nat) : (landDue s id).booted = s.booted := by obtain ⟨x, _, _, _, _, h⟩ := (landed_landDue s id).scr; rw [h]; rfl
@[simp] theorem landDue_hours (s : State) (id : Nat) : (landDue s id).hours = s.hours := by obtain ⟨x, _, _, _, _, h⟩ := (landed_landDue s id).scr; rw [h]; rfl
@[simp] theorem landDue_savedAt (s : State) (id : Nat) : (landDue s id).savedAt = s.savedAt := by obtain ⟨x, _, _, _, _, h⟩ := (landed_landDue s id).scr; rw [h]; rfl
@[simp] theorem landDue_noticed (s : State) (id : Nat) : (landDue s id).noticed = s.noticed := by obtain ⟨x, _, _, _, _, h⟩ := (landed_landDue s id).scr; rw [h]; rfl

theorem actor_running (s : State) : (actor s).running = (ctxOf s (selCtx s)).running := (landed_landDue s (selCtx s)).running
theorem actor_uid (s : State) : (actor s).uid = (ctxOf s (selCtx s)).uid := (landed_landDue s (selCtx s)).uid
theorem actor_pc (s : State) : (actor s).pc = (ctxOf s (selCtx s)).pc := (landed_landDue s (selCtx s)).pc
theorem actor_h (s : State) : (actor s).h = (ctxOf s (selCtx s)).h := (landed_landDue s (selCtx s)).h
theorem actor_k (s : State) : (actor s).k = (ctxOf s (selCtx s)).k := (landed_landDue s (selCtx s)).k
theorem actor_warnSat (s : State) : (actor s).warnSat = (ctxOf s (selCtx s)).warnSat := (landed_landDue s (selCtx s)).warnSat
theorem actor_warnFallback (s : State) : (actor s).warnFallback = (ctxOf s (selCtx s)).warnFallback := (landed_landDue s (selCtx s)).warnFallback
theorem actor_trapq (s : State) : (actor s).trapq = (ctxOf s (selCtx s)).trapq := (landed_landDue s (selCtx s)).trapq
theorem actor_halted (s : State) : (actor s).halted = (ctxOf s (selCtx s)).halted := (landed_landDue s (selCtx s)).halted
theorem actor_pendchk (s : State) : (actor s).pendchk = (ctxOf s (selCtx s)).pendchk := (landed_landDue s (selCtx s)).pendchk
theorem actor_mode (s : State) : (actor s).mode = (ctxOf s (selCtx s)).mode := (landed_landDue s (selCtx s)).mode
theorem actor_cause (s : State) : (actor s).cause = (ctxOf s (selCtx s)).cause := (landed_landDue s (selCtx s)).cause
theorem actor_epc (s : State) : (actor s).epc = (ctxOf s (selCtx s)).epc := (landed_landDue s (selCtx s)).epc
theorem actor_tvec (s : State) : (actor s).tvec = (ctxOf s (selCtx s)).tvec := (landed_landDue s (selCtx s)).tvec
theorem actor_fhandle (s : State) : (actor s).fhandle = (ctxOf s (selCtx s)).fhandle := (landed_landDue s (selCtx s)).fhandle
theorem actor_foffset (s : State) : (actor s).foffset = (ctxOf s (selCtx s)).foffset := (landed_landDue s (selCtx s)).foffset
theorem actor_hsave (s : State) : (actor s).hsave = (ctxOf s (selCtx s)).hsave := (landed_landDue s (selCtx s)).hsave
theorem actor_dbgctl (s : State) : (actor s).dbgctl = (ctxOf s (selCtx s)).dbgctl := (landed_landDue s (selCtx s)).dbgctl
theorem actor_watchlo (s : State) : (actor s).watchlo = (ctxOf s (selCtx s)).watchlo := (landed_landDue s (selCtx s)).watchlo
theorem actor_watchhi (s : State) : (actor s).watchhi = (ctxOf s (selCtx s)).watchhi := (landed_landDue s (selCtx s)).watchhi
theorem actor_count (s : State) : (actor s).count = (ctxOf s (selCtx s)).count := (landed_landDue s (selCtx s)).count
theorem actor_hcount (s : State) : (actor s).hcount = (ctxOf s (selCtx s)).hcount := (landed_landDue s (selCtx s)).hcount
theorem actor_block (s : State) : (actor s).block = (ctxOf s (selCtx s)).block := (landed_landDue s (selCtx s)).block
theorem actor_marks (s : State) : (actor s).marks = (ctxOf s (selCtx s)).marks := (landed_landDue s (selCtx s)).marks
theorem actor_storeFail (s : State) : (actor s).storeFail = (ctxOf s (selCtx s)).storeFail := (landed_landDue s (selCtx s)).storeFail
theorem actor_pendFail (s : State) : (actor s).pendFail = (ctxOf s (selCtx s)).pendFail := (landed_landDue s (selCtx s)).pendFail
theorem actor_boundary (s : State) : (actor s).boundary = (ctxOf s (selCtx s)).boundary := (landed_landDue s (selCtx s)).boundary
theorem actor_wake (s : State) : (actor s).wake = (ctxOf s (selCtx s)).wake := (landed_landDue s (selCtx s)).wake
theorem actor_task (s : State) : (actor s).task = (ctxOf s (selCtx s)).task := (landed_landDue s (selCtx s)).task
theorem actor_op (s : State) : (actor s).op = (ctxOf s (selCtx s)).op := (landed_landDue s (selCtx s)).op
theorem actor_launch (s : State) : (actor s).launch = (ctxOf s (selCtx s)).launch := (landed_landDue s (selCtx s)).launch
theorem actor_tclass (s : State) : (actor s).tclass = (ctxOf s (selCtx s)).tclass := (landed_landDue s (selCtx s)).tclass
theorem actor_since (s : State) : (actor s).since = (ctxOf s (selCtx s)).since := (landed_landDue s (selCtx s)).since
theorem actor_reserved (s : State) : (actor s).reserved = (ctxOf s (selCtx s)).reserved := (landed_landDue s (selCtx s)).reserved
theorem actor_preq (s : State) : (actor s).preq = (ctxOf s (selCtx s)).preq := (landed_landDue s (selCtx s)).preq
theorem actor_splitDone (s : State) : (actor s).splitDone = (ctxOf s (selCtx s)).splitDone := (landed_landDue s (selCtx s)).splitDone
theorem actor_ending (s : State) : (actor s).ending = (ctxOf s (selCtx s)).ending := (landed_landDue s (selCtx s)).ending
theorem actor_faultAt (s : State) : (actor s).faultAt = (ctxOf s (selCtx s)).faultAt := (landed_landDue s (selCtx s)).faultAt

/-! ### Issuing (R356) -/

/-- What a quiet state says. -/
theorem quiet_iff (s : State) : quiet s = true ↔ s.stage = none ∧ mayIssue (ctxOf s (selCtx s)) = true ∧ (actor s).pendchk = false ∧ (actor s).dbgctl = 0 ∧ (actor s).five = false ∧ (actor s).marks = []
    ∧ markedItems (begun s) (actor s).uid = [] := by
  simp [quiet, and_assoc, Option.isNone_iff_eq_none, List.isEmpty_iff]

/-- No check or wait of a slot's answer stops its bundle, whose accesses leave state `s1` once translated. -/
structure Passes (s : State) (id : Nat) (o : SlotOut) (s1 : State) : Prop where
  priv : o.priv = none
  trap : o.trap = none
  block : o.block = none
  accs : checkAccesses s id (o.accs.map (fun a => (Slot.num o.slot, a))) = (s1, .ok)
  poison : o.poison = none
  watch : o.watch = none
  fetch : o.fetch = none
  stall : o.stall = false

theorem markRead_nil (c : Ctx) (o : SlotOut) (h : c.marks = []) : markRead c o = none := by simp [markRead, h]

theorem debugTrap_off (c : Ctx) (o : SlotOut) (h : c.dbgctl = 0) : debugTrap c o = none := by simp [debugTrap, h]

@[simp] theorem crossStall_one (s : State) (id : Nat) (o : SlotOut) : crossStall s id [o] = false := rfl
@[simp] theorem fixReads_one (s : State) (id : Nat) (o : SlotOut) : fixReads s id [o] = [o] := rfl

/-- A quiet context's bundle that passes its checks commits (R14). -/
theorem runSlot_commits (s s1 : State) (f : State → Nat → SlotOut) (o : SlotOut) (hq : quiet s = true) (ho : f (begun s) (selCtx s) = o) (hp : Passes (begun s) (selCtx s) o s1) :
    runSlot s f = .next (commitOuts s1 (selCtx s) [o]) := by
  obtain ⟨hst, hm, hpc, hd, h5, hmk, hmi⟩ := (quiet_iff s).1 hq
  have hc : ctxOf (begun s) (selCtx s) = actor s := rfl
  unfold runSlot
  rw [hst]
  show (if mayIssue (ctxOf s (selCtx s)) then Host.Outcome.next (issueOuts (begun s) (selCtx s) [f (begun s) (selCtx s)]) else _) = _
  rw [if_pos hm]
  simp only [issueOuts, earlyTrap, lateChecks, hc, ho, hmi, hpc, h5, hp.priv, hp.trap, hp.block, hp.poison, hp.watch, hp.fetch, hp.stall, firstTrap, Option.map_none, List.filter_nil, List.isEmpty_nil, List.findSome?_cons, List.findSome?_nil,
    markRead_nil _ _ hmk, debugTrap_off _ _ hd, List.flatMap_cons, List.flatMap_nil, List.append_nil, hp.accs, List.any_cons, List.any_nil, Bool.or_false, crossStall_one, fixReads_one, Bool.not_true, Bool.false_eq_true, if_false]

/-- With a trap found by the slot itself, nothing else having been found before it, the bundle does nothing but trap (R15). -/
theorem runSlot_traps (s : State) (f : State → Nat → SlotOut) (o : SlotOut) (t : Trap) (hq : quiet s = true) (hs : (actor s).storeFail = none) (ho : f (begun s) (selCtx s) = o)
    (hp : o.priv = none) (ht : o.trap = some t) : ∃ u, runSlot s f = .next (trapCtx u (selCtx s) t) ∧ u = setCtx (begun s) (selCtx s) (actor s) := by
  obtain ⟨hst, hm, hpc, hd, h5, hmk, hmi⟩ := (quiet_iff s).1 hq
  have hc : ctxOf (begun s) (selCtx s) = actor s := rfl
  refine ⟨_, ?_, rfl⟩
  unfold runSlot
  rw [hst]
  show (if mayIssue (ctxOf s (selCtx s)) then Host.Outcome.next (issueOuts (begun s) (selCtx s) [f (begun s) (selCtx s)]) else _) = _
  rw [if_pos hm]
  have he : ∀ c : Ctx, c.storeFail = none → c.reported t = c := by
    intro c h
    simp [Ctx.reported, h]
  have hpt : (if (actor s).pendchk = true then firstTrap [o] (pendingTrap (begun s) (selCtx s)) else none) = none := by rw [hpc]; rfl
  simp only [issueOuts, earlyTrap, hc, ho, hmi, hpt, h5, Option.map_some, List.filter_nil, List.isEmpty_nil, List.findSome?_cons, List.findSome?_nil,
    show firstTrap [o] (·.priv) = none from by simp [firstTrap, hp], show firstTrap [o] (·.trap) = some t from by simp [firstTrap, ht], markRead_nil _ _ hmk, Bool.not_true, Bool.false_eq_true, if_false, modCtx_def]
  rw [he _ hs]

end Sys2Proof.Machine
end

