-- ==== Sys2Proof/Laws/Commit.lean ====
section
/-! SUPPORT. What the commit of a bundle leaves: its effects, then the count, the PC and nothing more, when the context's debug checks are off; and the answer of each shared shape of a slot. -/

namespace Sys2Proof.Machine

theorem boundaryTrap_off (c : Ctx) (b : Bool) (h : c.dbgctl = 0) : boundaryTrap c b = none := by simp [boundaryTrap, h]

theorem applyEffect_consumeMarks (s : State) (id : Nat) (w : List (Nat × Nat)) :
    applyEffect s id (.consumeMarks w) = setCtx s id { ctxOf s id with marks := (ctxOf s id).marks.filter (fun m => !(w.contains (m.cls, m.num))) } := rfl

/-- The effects of a bundle in the order they are carried out. -/
def carriedOut (s : State) (id : Nat) (es : List Effect) : State :=
  (es.filter (fun e => e.isLate)).foldl (fun s e => applyEffect s id e) ((es.filter (fun e => !e.isLate)).foldl (fun s e => applyEffect s id e) s)

/-- Without a load among them, effects take their places as they stand. -/
theorem inOrder_of_noRead (es : List Effect) (h : ∀ e ∈ es, e.isRead = false) : inOrder es = es := by
  unfold inOrder
  rw [List.filter_eq_nil_iff.2 (fun e he => by simp [h e he]), List.filter_eq_self.2 (fun e he => by simp [h e he]), List.nil_append]

/-- A bundle that neither ends its task nor returns from its handler, and none of whose loads stands behind another effect: its effects, then the context goes on (R14, R17, R30). -/
theorem commitOuts_goes (s u : State) (id : Nat) (o : SlotOut) (hu : carriedOut s id o.effects = u) (hr : (ctxOf u id).running = true) (hm : (ctxOf u id).marks = [])
    (hd : (ctxOf s id).dbgctl = 0) (ho : inOrder o.effects = o.effects) (hf : o.effects.any (·.isFinish) = false) (he : o.effects.any (·.isEret) = false) :
    commitOuts s id [o] = setCtx u id ((ctxOf u id).past ((jumpOf [o]).getD ((ctxOf s id).pc + 1))) := by
  have hc : ∀ (c : Ctx) (w : List (Nat × Nat)), c.marks = [] → { c with marks := c.marks.filter (fun m => !(w.contains (m.cls, m.num))) } = c := by
    intro c w h
    cases c
    subst h
    rfl
  have hv : applyEffect u id (.consumeMarks o.writes) = setCtx u id (ctxOf u id) := by rw [applyEffect_consumeMarks, hc _ _ hm]
  subst hu
  unfold carriedOut at *
  simp only [commitOuts, List.flatMap_cons, List.flatMap_nil, List.append_nil, ho, hv, hf, he, modCtx_def, ctxOf_setCtx_same, setCtx_setCtx, boundaryTrap_off _ _ hd, Bool.false_eq_true, if_false]
  rw [if_neg (by simp [hr])]
  rfl

/-- What an effect on the context alone does to it. -/
def Ctx.after (c : Ctx) (e : Effect) : Ctx :=
  match e with
  | .result lat r => c.push lat r
  | .resultLate r => c.push 1 r
  | .warnSat => { c with warnSat := true }
  | .warnFallback => { c with warnFallback := true }
  | .token k t => { c with k := tset c.k k t }
  | .splitTaken => { c with splitDone := false }
  | _ => c

/-- Effects that act on the context alone (a taken transfer acts through the PC). -/
def Effect.inCtx (e : Effect) : Bool :=
  match e with
  | .result _ _ | .resultLate _ | .warnSat | .warnFallback | .token _ _ | .splitTaken => true
  | _ => false

theorem applyEffect_inCtx (s : State) (id : Nat) (e : Effect) (h : e.inCtx = true) : applyEffect s id e = setCtx s id ((ctxOf s id).after e) := by
  cases e <;> first | rfl | (simp [Effect.inCtx] at h)

@[simp] theorem Ctx.after_running (c : Ctx) (e : Effect) : (c.after e).running = c.running := by cases e <;> simp [Ctx.after]
@[simp] theorem Ctx.after_marks (c : Ctx) (e : Effect) : (c.after e).marks = c.marks := by cases e <;> simp [Ctx.after]

/-- The context after a list of effects on it: the results in order, then the late ones. -/
def Ctx.afterAll (c : Ctx) (es : List Effect) : Ctx := (es.filter (fun e => e.isLate)).foldl Ctx.after ((es.filter (fun e => !e.isLate)).foldl Ctx.after c)

theorem foldl_inCtx (id : Nat) (es : List Effect) (s : State) (h : ∀ e ∈ es, e.inCtx = true) :
    ctxOf (es.foldl (fun s e => applyEffect s id e) s) id = es.foldl Ctx.after (ctxOf s id)
    ∧ ∀ x, setCtx (es.foldl (fun s e => applyEffect s id e) s) id x = setCtx s id x := by
  induction es generalizing s with
  | nil => exact ⟨rfl, fun _ => rfl⟩
  | cons e r ih =>
    simp only [List.foldl_cons]
    rw [applyEffect_inCtx s id e (h e (by simp))]
    have := ih (setCtx s id ((ctxOf s id).after e)) (fun x hx => h x (List.mem_cons_of_mem _ hx))
    simpa using this

theorem foldl_after_keeps (es : List Effect) (c : Ctx) : (es.foldl Ctx.after c).running = c.running ∧ (es.foldl Ctx.after c).marks = c.marks := by
  induction es generalizing c with
  | nil => exact ⟨rfl, rfl⟩
  | cons e r ih => simpa using ih (c.after e)

theorem afterAll_keeps (es : List Effect) (c : Ctx) : (c.afterAll es).running = c.running ∧ (c.afterAll es).marks = c.marks := by
  unfold Ctx.afterAll
  rw [(foldl_after_keeps _ _).1, (foldl_after_keeps _ _).2]
  exact foldl_after_keeps _ _

theorem carriedOut_inCtx (s : State) (id : Nat) (es : List Effect) (h : ∀ e ∈ es, e.inCtx = true) :
    ctxOf (carriedOut s id es) id = (ctxOf s id).afterAll es ∧ ∀ x, setCtx (carriedOut s id es) id x = setCtx s id x := by
  have h1 := foldl_inCtx id (es.filter (fun e => !e.isLate)) s (fun e he => h e (List.mem_of_mem_filter he))
  have h2 := foldl_inCtx id (es.filter (fun e => e.isLate)) ((es.filter (fun e => !e.isLate)).foldl (fun s e => applyEffect s id e) s) (fun e he => h e (List.mem_of_mem_filter he))
  unfold carriedOut Ctx.afterAll
  rw [← h1.1]
  exact ⟨h2.1, fun x => by rw [h2.2, h1.2]⟩

theorem committed_eq (s : State) (f : Ctx → Ctx) : committed s f = setCtx (begun s) (selCtx s) ((f (actor s)).past ((actor s).pc + 1)) := rfl

theorem quiet_running {s : State} (h : quiet s = true) : (actor s).running = true := by
  have hm := ((quiet_iff s).1 h).2.1
  rw [actor_running]
  simp only [mayIssue, Bool.and_eq_true] at hm
  exact hm.1.1.1.1

/-- A quiet context's bundle whose effects are on the context alone, or a taken transfer beside them: it passes, those effects are had, and nothing else changes. -/
theorem runSlot_inCtx (s : State) (f : State → Nat → SlotOut) (o : SlotOut) (hq : quiet s = true) (ho : f (begun s) (selCtx s) = o)
    (hp : o.priv = none) (ht : o.trap = none) (hb : o.block = none) (ha : o.accs = []) (hpo : o.poison = none) (hw : o.watch = none) (hs : o.stall = false) (hfe : o.fetch = none := by rfl)
    (he : ∀ e ∈ o.effects, e.inCtx = true) : runSlot s f = .next (committed s (fun c => c.afterAll o.effects)) := by
  obtain ⟨hst, hm, hpc, hd, h5, hmk, hmi⟩ := (quiet_iff s).1 hq
  rw [runSlot_commits s (begun s) f o hq ho ⟨hp, ht, hb, by rw [ha]; rfl, hpo, hw, hfe, hs⟩]
  have hcar := carriedOut_inCtx (begun s) (selCtx s) o.effects he
  have hk := afterAll_keeps o.effects (actor s)
  have hio : inOrder o.effects = o.effects := inOrder_of_noRead _ (fun e h => by
    have := he e h
    cases e <;> simp_all [Effect.inCtx, Effect.isRead])
  have hnf : o.effects.any (·.isFinish) = false := by
    rw [List.any_eq_false]
    intro e h
    have := he e h
    cases e <;> simp_all [Effect.inCtx, Effect.isFinish]
  have hne : o.effects.any (·.isEret) = false := by
    rw [List.any_eq_false]
    intro e h
    have := he e h
    cases e <;> simp_all [Effect.inCtx, Effect.isEret]
  have hnj : jumpOf [o] = none := by
    simp only [jumpOf, List.flatMap_cons, List.flatMap_nil, List.append_nil, List.findSome?_eq_none_iff]
    intro e h
    have := he e h
    cases e <;> simp_all [Effect.inCtx]
  have hca : ctxOf (begun s) (selCtx s) = actor s := rfl
  rw [hca] at hcar
  rw [commitOuts_goes (begun s) _ (selCtx s) o rfl (by rw [hcar.1, hk.1]; exact quiet_running hq) (by rw [hcar.1, hk.2]; exact hmk) hd hio hnf hne, hcar.1, hcar.2, hnj]
  rfl

end Sys2Proof.Machine
end

