-- ==== Sys2Proof/Laws/Well.lean ====
section
/-! SUPPORT. The replay of a die's log reads memory and the log's positions alone, so that an exception of a Wellhead processor and a count of the health block leave it (R425). -/

namespace Sys2Proof.Machine

theorem readLoc_mem (s t : State) (n k : Nat) (h : s.mem = t.mem) : readLoc s n (.mem k) = readLoc t n (.mem k) := by
  simp only [readLoc, h]

theorem wellBytes_of_mem (s t : State) (die addr n : Nat) (h : s.mem = t.mem) : wellBytes s die addr n = wellBytes t die addr n := by
  unfold wellBytes readLocs
  exact List.map_congr_left (fun i _ => readLoc_mem s t 0 _ h)

theorem logBytes_of_mem (s t : State) (die : Nat) (h : s.mem = t.mem) : logBytes s die = logBytes t die := by
  funext pos n
  simp only [logBytes, wellBytes_of_mem s t _ _ _ h]

theorem scanLog_of_mem (s t : State) (die tail : Nat) (h : s.mem = t.mem) (n pos lsn : Nat) : scanLog s die tail pos lsn n = scanLog t die tail pos lsn n := by
  induction n generalizing pos lsn with
  | zero => rfl
  | succ n ih =>
    unfold scanLog
    rw [logBytes_of_mem s t die h]
    dsimp only
    rw [ih]

theorem replayReaches_of_mem (s t : State) (die : Nat) (hm : s.mem = t.mem) (hd : s.wellDies = t.wellDies) : replayReaches s die = replayReaches t die := by
  simp only [replayReaches, loggedRecs, wellDie, hd, scanLog_of_mem s t _ _ hm]

@[simp] theorem replayReaches_wellFault (s : State) (die cp cause detail d : Nat) : replayReaches (wellFault s die cp cause detail) d = replayReaches s d :=
  replayReaches_of_mem _ _ d rfl rfl

@[simp] theorem replayReaches_countHealth (s : State) (off d : Nat) : replayReaches (countHealth s off) d = replayReaches s d :=
  replayReaches_of_mem _ _ d rfl rfl

end Sys2Proof.Machine
end

