-- ==== Sys2Proof/Tests/Slice0.lean ====
section
/-! SUPPORT. Tests: an ill-formed instruction for each check of well-formedness, words written out field by field, the results the manual works out, and for each statement states and operands that meet its hypotheses. -/

namespace Sys2Proof.Tests

open Sys2Proof Sys2Proof.Machine

set_option Elab.async false

/-! ### Reading the parts of an answer -/

/-- The next state of an outcome, for the tests that start from one. -/
def nextOf (o : Host.Outcome State Fault Refusal) : State := match o with | .next s => s | _ => State.reset

/-- The outcome is a next state. -/
def isNext (o : Host.Outcome State Fault Refusal) : Bool := match o with | .next _ => true | _ => false

/-- What an answer that may fail holds. -/
def okOf {ε α : Type} (x : Except ε α) : Option α := match x with | .ok a => some a | .error _ => none

/-- The error of an answer that may fail. -/
def errOf {ε α : Type} (x : Except ε α) : Option ε := match x with | .ok _ => none | .error e => some e

/-- The bundle a fetch answers, with the state it leaves. -/
def wordOf (x : Fetch) : Option (State × Nat) := match x with | .word s w => some (s, w) | _ => none

/-- The bundles of a segment that was read. -/
def codeOf (x : SegRes) : Option (List (BitVec 128)) := match x with | .code l => some l | _ => none

/-- Cause and inner cause of a segment that could not be read. -/
def failOf (x : SegRes) : Option (Nat × Nat) := match x with | .fail a b => some (a, b) | _ => none

/-- The state a chunk that was written leaves. -/
def writtenOf (x : ChunkRes) : Option State := match x with | .written s => some s | _ => none

theorem nextOf_eq {o : Host.Outcome State Fault Refusal} (h : isNext o = true) : o = .next (nextOf o) := by
  cases o <;> simp_all [isNext, nextOf]

theorem okOf_eq {ε α : Type} {x : Except ε α} {a : α} (h : okOf x = some a) : x = .ok a := by
  cases x <;> simp_all [okOf]

theorem errOf_eq {ε α : Type} {x : Except ε α} {e : ε} (h : errOf x = some e) : x = .error e := by
  cases x <;> simp_all [errOf]

theorem wordOf_eq {x : Fetch} {s : State} {w : Nat} (h : wordOf x = some (s, w)) : x = .word s w := by
  cases x <;> simp_all [wordOf]

theorem okPair_eq {β ε α : Type} {x : β × Except ε α} {u : β} {a : α} (hu : x.1 = u) (h : okOf x.2 = some a) : x = (u, .ok a) :=
  Prod.ext hu (okOf_eq h)

theorem codePair_eq {x : State × SegRes} {u : State} {l : List (BitVec 128)} (hu : x.1 = u) (h : codeOf x.2 = some l) : x = (u, .code l) := by
  obtain ⟨y, z⟩ := x
  cases z <;> simp_all [codeOf]

theorem failPair_eq {x : State × SegRes} {u : State} {a b : Nat} (hu : x.1 = u) (h : failOf x.2 = some (a, b)) : x = (u, .fail a b) := by
  obtain ⟨y, z⟩ := x
  cases z <;> simp_all [failOf]

theorem writtenPair_eq {x : State × ChunkRes} {u v : State} (hu : x.1 = u) (h : writtenOf x.2 = some v) : x = (u, .written v) := by
  obtain ⟨y, z⟩ := x
  cases z <;> simp_all [writtenOf]


/-! ### Ill-formed instructions -/

/-- Each check of well-formedness refuses an instruction that breaks it (R36, R38, R43 to R48, R99, R256). -/
theorem test_ill_formed : ([.addi .a 0 3 4 1024, .andi .a 0 3 4 1024, .ori .a 0 3 4 1024, .xori .a 0 3 4 1024, .lui .a 0 3 0x8000, .bfx .a 0 3 4 31 33, .bfi .b 0 3 4 1 63,
    .cmpi .a 0 3 0 4 512, .cmpi .a 0 3 4 4 1024, .fcvt .a 0 3 4 14 false 0, .ldb .a 0 7 3 4 128, .ldh .a 0 7 3 4 128, .ldw .a 0 7 3 4 128, .ldd .a 0 7 3 4 128, .ldbx .a 0 7 3 4 128,
    .ldhx .a 0 7 3 4 128, .ldwx .a 0 7 3 4 128, .stb .a 0 7 3 4 128, .sth .a 0 7 3 4 128, .stw .a 0 7 3 4 128, .std .a 0 7 3 4 128, .sysrd 0 3 0x0FFF, .syswr 0 3 0x0131, .syswr 0 3 0x0FFF,
    .vld 0 3 2 4 5 0, .vldro 0 3 2 4 5 0, .vst 0 3 2 4 4 0, .vlds 0 3 2 4 3 0, .vsts 0 3 2 4 3 0, .amo 0 3 2 4 9 0, .acas 0 31 2 4 0, .hbind 0 1 4, .split 0 5, .vcvt 0 3 4 15 false false 2,
    .vred 0 false 3 4 5 2, .vscan 0 3 4 5 2, .madv 0 3 false 0] : List Instr).all (fun i => !i.wf) = true := by decide +kernel

/-- The same checks let through an operand at its bound. -/
theorem test_well_formed : ([.addi .a 0 3 4 1023, .addi .b 0 3 4 1024, .lui .a 0 3 0x7FFF, .bfx .a 0 3 4 31 32, .cmpi .a 0 3 0 4 511, .cmpi .a 0 3 4 4 1023, .fcvt .a 0 3 4 13 false 0, .ldw .a 0 7 3 4 127,
    .stw .b 0 7 3 4 128, .sysrd 0 3 0, .vld 0 3 2 4 4 0, .vst 0 3 2 4 3 0, .vlds 0 3 2 4 2 0, .amo 0 3 2 4 8 0, .acas 0 30 2 4 0, .hbind 0 2 4, .split 0 4, .vcvt 0 3 4 14 false false 2, .vred 0 false 3 4 4 2, .txpose 0 2,
    .madv 0 2 false 0] : List Instr).all (fun i => i.wf) = true := by decide +kernel

/-! ### Words, field by field -/

/-- Slot A: ADD in layout SR, opcode, guard, sd, sa, sb, fn (R36, R44). -/
theorem test_word_add : okOf (decodeSlot .a none (0b0000001#7 ++ 0b0111#4 ++ 0b00011#5 ++ 0b00100#5 ++ 0b00101#5 ++ 0b000000#6).toNat) = some (.add .a 7 3 4 5) := by decide +kernel

/-- The worked word of `cmp.lt g6, s3, s4`, 0x440D_0C80 (R79). -/
theorem test_word_cmp : okOf (decodeSlot .a none 0x440D0C80) = some (.cmp .a 0 3 2 3 4) := by decide +kernel

/-- Slot A: BR in layout BR, opcode, guard, hint, displacement −1 (R45, R68). -/
theorem test_word_br : okOf (decodeSlot .a none (0b1010000#7 ++ 0b0011#4 ++ 0b01#2 ++ 0b1111111111111111111#19).toNat) = some (.br 3 1 0x7FFFF) := by decide +kernel

/-- Slot B: LDW in layout LS, opcode, guard, sd, h, sa, imm7 (R36, R44). -/
theorem test_word_ldw : okOf (decodeSlot .b none (0b1000010#7 ++ 0b0000#4 ++ 0b00111#5 ++ 0b0011#4 ++ 0b00100#5 ++ 0b0000010#7).toNat) = some (.ldw .b 0 7 3 4 2) := by decide +kernel

/-- Slot B: STL in layout LQ, opcode, guard, ss, h, sa, size, zero, scope (R37, R46). -/
theorem test_word_stl : okOf (decodeSlot .b none (0b1010111#7 ++ 0b0000#4 ++ 0b00011#5 ++ 0b0011#4 ++ 0b00000#5 ++ 0b10#2 ++ 0b00#2 ++ 0b100#3).toNat) = some (.stl 0 3 3 0 2 4) := by decide +kernel

/-- The worked word of `(p9) vfmas.bf16x2 v40, v41, s6`, 0x2934_5263 (R130). -/
theorem test_word_vfmas : okOf (decodeSlot .c none 0x29345263) = some (.vfmas 9 40 41 6 3) := by decide +kernel

/-- The worked word of `vcmp.lt.f32 p4, v2, v3`, 0x4009_041A (R134). -/
theorem test_word_vcmp : okOf (decodeSlot .c none 0x4009041A) = some (.vcmp 0 2 2 2 3 2) := by decide +kernel

/-- Slot D: XCOPY in layout ED, opcode, guard, kd, ka, kb, kc, x (R36, R48). -/
theorem test_word_xcopy : okOf (decodeSlot .d none (0b0000100#7 ++ 0b0000#4 ++ 0b1001#4 ++ 0b0001#4 ++ 0b1010#4 ++ 0b0011#4 ++ 0b00101#5).toNat) = some (.xcopy 0 9 1 10 3 5) := by decide +kernel

/-- An Ompen SHL in layout OR, opcode, d, a, b, fn 5 (R313, R314). -/
theorem test_word_ompen : okOf (decodeOmpen (0b000001#6 ++ 0b0011#4 ++ 0b0010#4 ++ 0b0001#4 ++ 0b00000000000101#14).toNat) = some (.ompenShl 3 2 1) := by decide +kernel

/-- A Wellhead BFXT, funct7, rs2, rs1, funct3, rd, custom-0 (R422). -/
theorem test_word_wellhead : decodeWell (0b0000000#7 ++ 0b00100#5 ++ 0b00011#5 ++ 0b001#3 ++ 0b00011#5 ++ 0b0001011#7).toNat = some (.bfxt 3 3 4) := by decide +kernel

/-- A micro-op MLOOP on counter L2 with target 7, and a MADV with a reserved source (R256). -/
theorem test_word_micro : decodeMicro (0b00101#5 ++ 0b00#2 ++ 0b10#2 ++ 0#45 ++ 7#10).toNat = some (.mloop false 2 7) ∧ decodeMicro (0b00110#5 ++ 0b000#3 ++ 0b11#2 ++ 0#54).toNat = none := by decide +kernel

/-- The worked bundle of R57, whose header extends the immediate of slot B to 74565. -/
theorem test_bundle_worked : (okOf (decodeBundle 0x000000000201821220052B45FC000024)).map (fun b => (b.a, b.b, b.c, b.d)) = some (.hdr 0 0 0x24, .addi .b 0 5 5 74565, .vadd 0 3 1 2 2, .nop) := by decide +kernel

/-- The bundle that crosses the broadcast port twice traps with detail 0x000A_4009 (R51, worked under R57). -/
theorem test_bundle_broadcast_twice : errOf (decodeBundle (0x22018242 * 2 ^ 64 + 0xA4038240 * 2 ^ 32)) = some ⟨0x07, 0x000A4009⟩ := by decide +kernel

/-! ### Results the manual works out -/

/-- A running context of core 0 that holds the given scalar registers. -/
def scalars (l : List (Nat × W64)) : State := setCtx State.reset 0 { Ctx.idle with running := true, uid := 7, s := l }

/-- The last result that instruction `i` puts under exposed latency on context 0 (R20), with its latency. -/
def lastResult (s : State) (i : Instr) : Option Result := (ctxOf (nextOf (exec i s)) 0).wq.getLast?.map (·.res)

/-- ADDI after LUI gives 0x1234_0567 (R74). -/
theorem test_lui_addi : lastResult (scalars []) (.lui .a 0 4 0x1234) = some (.scalar 4 0x12340000) ∧ lastResult (scalars [(4, 0x12340000)]) (.addi .a 0 4 4 0x567) = some (.scalar 4 0x12340567) := by decide +kernel

/-- DIV and REM of −7 by 2, and the unsigned forms on the same bits (R78). -/
theorem test_divisions : lastResult (scalars [(1, -7), (2, 2)]) (.div .a 0 3 1 2) = some (.scalar 3 (-3)) ∧ lastResult (scalars [(1, -7), (2, 2)]) (.rem .a 0 3 1 2) = some (.scalar 3 (-1))
    ∧ lastResult (scalars [(1, 0xFFFFFFFFFFFFFFF9), (2, 2)]) (.divn .a 0 3 1 2) = some (.scalar 3 0x7FFFFFFFFFFFFFFC) ∧ lastResult (scalars [(1, 0xFFFFFFFFFFFFFFF9), (2, 2)]) (.remn .a 0 3 1 2) = some (.scalar 3 1) := by decide +kernel

/-- bf16 1.0 plus 2^−8 rounds to even, and up under RUP (R82). -/
theorem test_fadd : lastResult (scalars [(6, 0x3F80), (7, 0x3B80)]) (.fadd .a 0 5 6 7 false 0 1) = some (.scalar 5 0x3F80) ∧ lastResult (scalars [(6, 0x3F80), (7, 0x3B80)]) (.fadd .a 0 5 6 7 false 2 1) = some (.scalar 5 0x3F81) := by decide +kernel

/-- VIDX on i8x4 counts the elements of the lanes modulo 256 (R137). -/
theorem test_vidx : (match lastResult (scalars []) (.vidx 0 1 0 6) with | some (.vec n _ v) => (n == 1 && v.toNat % 2 ^ 32 == 0x03020100 && v.toNat / 2 ^ (32 * 127) == 0xFFFEFDFC && v.toNat / 2 ^ (32 * 64) % 256 == 0) | _ => false) = true := by decide +kernel

/-- The t8 codes 0x30, 0x5A, 0xA6 and 0x80 (R108), and 3.3125 and 5000 rounded into t8 (R110). -/
theorem test_t8 : (NFmt.tap 8).decode .nar 0x80 = .nar ∧ ((NFmt.tap 8).round .rne false (.num false 53 (-4))).1 = 0x5A ∧ (NFmt.tap 8).round .rne false (.num false 5000 0) = (0x7F, true)
    ∧ ((NFmt.tap 8).round .rne false ((NFmt.tap 8).decode .nar 0xA6)).1 = 0xA6 := by decide +kernel

/-- 2.5, 0.25, −0.2 and 7.1 rounded into f4 by RNE, the last with a warning (R114). -/
theorem test_f4 : NFmt.f4.round .rne false (.num false 5 (-1)) = (0b0100, false) ∧ NFmt.f4.round .rne false (.num false 1 (-2)) = (0b0000, false) ∧ NFmt.f4.round .rne false (.num true 1 (-3)) = (0b0000, false)
    ∧ NFmt.f4.round .rne false (.num false 71 (-3)) = (0b0111, true) := by decide +kernel

/-! ### States for the witnesses -/


/-- Memory with bytes at an address of the first gigabyte of die 0's HBM4E, which partition 0 maps one to one. -/
def put (va : Nat) (l : List Byte) (s : State) : State := { s with mem := cellsSet s.mem (2 ^ 38 + va) l }
def withCtx (id : Nat) (f : Ctx → Ctx) (s : State) : State := modCtx s id f
def aTensor (id vbase extent : Nat) : Tensor := { Tensor.none with id := id, state := 1, vbase := vbase, extent := extent }
def aOperator : Operator :=
  { part := 0, stream := 3, phase := .running, bytes := [], kind := false, pchk := false, gvalid := 1, cores := false, prio := 1, tasks := 1, entry := 0, ktab := 2, affmask := 0, param := 0, fv := false, frame := 0, fstride := 0, group := [1, 0, 0, 0], useten := 0, useidx := 0, usecnt := 0, args := [(0, 5)], seq := 77, launch := 3, base := [], live := 2, handed := 0, admitted := none, fail := none, weir := none, replay := none, bounds := none }
def aPart : Partition := { Partition.none with live := true, slices := 1, root := some (0, 2 ^ 33), submission := 1, groupLo := 0, groupHi := 4, groupTensor := 4, recipeTensor := 8, migctl := 0, queueCap := [] }
def aCtx : Ctx := { Ctx.idle with running := true, uid := 7, op := 9, launch := 3, pc := 0x100, count := 10, s := [(3, 5), (4, 0x40), (5, 0x8000000000000000), (7, 70)], h := [(2, ⟨.tensor, 5, 0, 0, 0⟩), (3, ⟨.cluster, 0, 0, 0, 0⟩), (4, ⟨.tensor, 6, 0, 0, 0⟩)], wq := [⟨.scalar 11 77, 4, 10⟩, ⟨.scalar 12 78, 4, 13⟩] }
/-- Partition 0 on slice 0, its first gigabyte mapped, with a submission tensor, a kernel table, code, and data; an operator, and its task on context 0 of core 0. -/
def base : State :=
  put (2 ^ 33) (leBytes (2 ^ 33 + 65537) 8) <| put (2 ^ 33 + 65536) (leBytes 0x7C7 8) <| put (0x2000000 + 16 * 63) (leBytes 3 4 ++ leBytes 0 4 ++ leBytes 1 2) <|
  put 0x2000000 (leBytes 3 4 ++ leBytes 0 4 ++ leBytes 16 2) <| put 0x10040 (leBytes 0x8877665544332211 8) <|
  { State.reset with
    parts := [(0, aPart)], tensors := [(1, aTensor 1 0x1000000 0x803000), (2, aTensor 2 0x2000000 0x400), (3, aTensor 3 0x2100000 0x10000), (4, aTensor 4 0x2200000 0x4000), (5, aTensor 5 0x10000 0x20000), (6, aTensor 6 0x40000 0x20000)], ops := [(9, aOperator)], ctxs := [(0, aCtx)], fresh := 50, tlbs := [(0, [⟨0, 0, 2 ^ 30, 0x7C7⟩])] }
def inMode (s : State) : State := withCtx 0 (fun c => { c with mode := true, trapq := true, epc := 0x77, hq := [⟨.scalar 13 5, 1, 3⟩], hcount := 3, wq := [] }) s

/-! ### Witnesses of the statements over every state -/

/-- Core 0 at pc 0 of its first segment, whose one resident bundle is `w`, with a turn of the core next. -/
def fetching (w : Nat) : State :=
  let s := withCtx 0 (fun c => { c with pc := 0 }) base
  { modCore s 0 (fun k => { k with cur := 0, frames := [(0, ⟨ktabOf s 0, 0, [BitVec.ofNat 128 w], 1⟩)] }) with turn := ⟨.core 0, .none, 1⟩ }

/-- What `fetching w` has after the turn is taken, the context it picks, and what the fetch answers. -/
def fetched (w : Nat) : State × Nat × State × State × Nat :=
  let u := (takeTurn (fetching w)).2
  let p := (pickContext u 0).getD (0, u)
  let f := (wordOf (fetchBundle (landDue p.2 (ctxId 0 p.1)) (ctxId 0 p.1))).getD (u, 0)
  (u, p.1, p.2, f.1, f.2)

/-- The bundle a number decodes to. -/
def bundleOf (n : Nat) : Bundle := (okOf (decodeBundle n)).getD ⟨.nop, .nop, .nop, .nop, none, []⟩

/-- A bundle of one ADD in slot A, and an empty one, which the nullifier skips. -/
theorem wit_StepRunsWhatItDecodes_core :
  (let s := fetching 0x02032140
   let t := (takeTurn s).1
   let u := (fetched 0x02032140).1
   let x := (fetched 0x02032140).2.1
   let v := (fetched 0x02032140).2.2.1
   let w := (fetched 0x02032140).2.2.2.1
   let n := (fetched 0x02032140).2.2.2.2
   let b := bundleOf n
   takeTurn s = (t, u) ∧ u.stopped = false ∧ t.agent = .core 0 ∧ pickContext u 0 = some (x, v) ∧ (ctxOf v (ctxId 0 x)).returning = false ∧ (ctxOf v (ctxId 0 x)).ending = false ∧ (ctxOf v (ctxId 0 x)).boundary = none
    ∧ wordOf (fetchBundle (landDue v (ctxId 0 x)) (ctxId 0 x)) = some (w, n) ∧ okOf (decodeBundle n) = some b ∧ skippable w (ctxId 0 x) b = false
    ∧ isNext (execSlots b { w with stage := some ⟨0, x, []⟩ }) = true ∧ (nextOf (execSlots b { w with stage := some ⟨0, x, []⟩ })).stage.isSome = true
    ∧ s.stage = none ∧ slotOf (.add .a 0 3 4 5) = some .a ∧ b = loneBundle .a (.add .a 0 3 4 5) b.words)
  ∧ (let s := fetching 0
   let t := (takeTurn s).1
   let u := (fetched 0).1
   let x := (fetched 0).2.1
   let v := (fetched 0).2.2.1
   let w := (fetched 0).2.2.2.1
   let n := (fetched 0).2.2.2.2
   let b := bundleOf n
   takeTurn s = (t, u) ∧ u.stopped = false ∧ t.agent = .core 0 ∧ pickContext u 0 = some (x, v) ∧ (ctxOf v (ctxId 0 x)).returning = false ∧ (ctxOf v (ctxId 0 x)).ending = false ∧ (ctxOf v (ctxId 0 x)).boundary = none
    ∧ wordOf (fetchBundle (landDue v (ctxId 0 x)) (ctxId 0 x)) = some (w, n) ∧ okOf (decodeBundle n) = some b ∧ skippable w (ctxId 0 x) b = true) := by
  exact ⟨by decide +kernel, by decide +kernel⟩

/-- A micro-op of a running call, a word of a running kernel, a table word and a base word of a Wellhead, and an event. -/
theorem wit_StepRunsWhatItDecodes_others :
  (let s := State.reset.withFetchWord 64 0x1800000000000000
   let u := (takeTurn s).2
   let r := (coreOf u 0).mcall.getD (startRun u placedCall.op)
   let m : W64 := 0x1800000000000000
   (takeTurn s).1.agent = .array 0 ∧ u.stopped = false ∧ (coreOf u 0).mcall = some r ∧ r.ended = false ∧ r.steps < 2 ^ 32 ∧ badMicroWord u 0 r = none ∧ microWord u 0 r = some m ∧ decodeMicro m.toNat = some .mstep)
  ∧ (let s := State.reset.withFetchWord 32 0x04C84005
   let u := (takeTurn s).2
   let k := (lakeOf u 0).run.getD placedKernel
   (takeTurn s).1.agent = .lake 0 ∧ u.stopped = false ∧ (lakeOf u 0).run = some k ∧ mustYield u 0 k = false ∧ badLakeWord u 0 k = false ∧ k.fw = 0
    ∧ okOf (decodeOmpen (tget 0 (lakeOf u 0).istore k.pc.toNat).toNat) = some (.ompenShl 3 2 1))
  ∧ (let s := State.reset.withFetchWord 32 0x0041918B
   let u := (takeTurn s).2
   (takeTurn s).1.agent = .well 0 0 ∧ u.stopped = false ∧ u.recovery = false ∧ rvInterrupt (wellOf u 0 0) u.sel.word = none ∧ wellFetch u 0 (wellOf u 0 0).pc.toNat = some 0x0041918B
    ∧ decodeWell 0x0041918B = some (.bfxt 3 3 4))
  ∧ (let s := { wellStore State.reset 0 (wellOf State.reset 0 0).pc.toNat (leBytes 0x00500093 4) with turn := ⟨.well 0 0, .none, 1⟩ }
   let u := (takeTurn s).2
   (takeTurn s).1.agent = .well 0 0 ∧ u.stopped = false ∧ u.recovery = false ∧ rvInterrupt (wellOf u 0 0) u.sel.word = none ∧ wellFetch u 0 (wellOf u 0 0).pc.toNat = some 0x00500093
    ∧ 0x00500093 % 4 = 3 ∧ decodeWell 0x00500093 = none)
  ∧ (let s := { State.reset with turn := ⟨.event .taskPop, .none, 1⟩ }
   (takeTurn s).1.agent = .event .taskPop ∧ (takeTurn s).2.stopped = false ∧ isEvent .taskPop = true ∧ (takeTurn s).2.recovery = false) := by
  exact ⟨by decide +kernel, by decide +kernel, by decide +kernel, by decide +kernel, by decide +kernel⟩

theorem wit_DecodeReadsWhatIsEncoded : (Instr.add .a 7 3 4 5).wf = true ∧ (encode (.add .a 7 3 4 5)).isSome = true ∧ Instr.taskPop.wf = true ∧ encode .taskPop = none := by decide +kernel

theorem wit_StepKeepsMemoryCanonical : memWf (fetching 0x02032140) = true ∧ isNext (step (fetching 0x02032140)) = true := by decide +kernel

/-- An ADD and a DIV, in task mode and in the handler. -/
theorem wit_RegisterFormFrame :
  (let s := base
   let i : Instr := .add .a 0 3 4 5
   quiet s = true ∧ registerOnly i = true ∧ i.wf = true ∧ (divisorOf i).all (fun b => readS (actor s) b != 0) = true ∧ exec i s = .next (nextOf (exec i s)))
  ∧ (let s := inMode base
   let i : Instr := .div .a 0 3 4 5
   quiet s = true ∧ registerOnly i = true ∧ i.wf = true ∧ (divisorOf i).all (fun b => readS (actor s) b != 0) = true ∧ exec i s = .next (nextOf (exec i s))) := by
  exact ⟨⟨by decide +kernel, by decide +kernel, by decide +kernel, by decide +kernel, nextOf_eq (by decide +kernel)⟩, by decide +kernel, by decide +kernel, by decide +kernel, by decide +kernel, nextOf_eq (by decide +kernel)⟩

/-- A store of a word that ends where another byte begins: bytes of it, the byte below and above it, and one of another core. -/
theorem wit_LocalStoreFrame :
  let s := base
  let i : Instr := .stw .b 0 5 0 4 8
  let off := operandAt s 4 8 4
  let k := hereCore s
  quiet s = true ∧ readG (actor s) 0 = true ∧ localFits s off 4 4 = true ∧ off + 4 ≤ 0x200000 ∧ exec i s = .next (nextOf (exec i s))
    ∧ off - 1 < 0x200000 ∧ off + 4 < 0x200000 ∧ 1 ≠ k ∧ (∀ j, j < 4 → tagAllows (begun s) k (.scr k (off + j)) = true) := by
  exact ⟨by decide +kernel, by decide +kernel, by decide +kernel, by decide +kernel, nextOf_eq (by decide +kernel), by decide +kernel, by decide +kernel, by decide +kernel, by decide +kernel⟩

/-- A doubleword and a vector at 0x10000 of a kernel with no poisoned chunk, a misaligned offset, and one that ends past the SRAM. -/
theorem wit_OmpenLocalAccesses :
  let k : Kernel := { placedKernel with q := [(4, 0x10000), (5, 0x10001), (6, 0x80000)] }
  let s := setLake { base with sel := { base.sel with core := 0 } } 0 { lakeOf base 0 with run := some k }
  let off (a : QReg) (n : Nat) : Nat := ((readQ k a).toNat + 0 * n) % 2 ^ 64
  runsKernel s k ∧ sramFits (off 4 8) 8 8 = true ∧ sramFits (off 4 64) 64 64 = true ∧ (∀ n x, off 4 n ≤ x → x < off 4 n + n → x / 32 ∉ k.bad)
    ∧ off 5 8 % 8 ≠ 0 ∧ off 5 64 % 64 ≠ 0 ∧ off 6 8 % 8 = 0 ∧ 524288 < off 6 8 + 8 ∧ off 6 64 % 64 = 0 ∧ 524288 < off 6 64 + 64 := by
  exact ⟨rfl, by decide +kernel, by decide +kernel, fun _ _ _ _ => List.not_mem_nil, by decide +kernel, by decide +kernel, by decide +kernel, by decide +kernel, by decide +kernel, by decide +kernel⟩

/-- A load whose first byte lies in a poisoned chunk, and one whose second half does. -/
theorem wit_OmpenLocalAccesses_poison :
  let k : Kernel := { placedKernel with q := [(4, 0x10000)], bad := [0x800, 0x803] }
  let s := setLake { base with sel := { base.sel with core := 0 } } 0 { lakeOf base 0 with run := some k }
  let off (imm n : Nat) : Nat := ((readQ k 4).toNat + imm * n) % 2 ^ 64
  runsKernel s k ∧ sramFits (off 0 8) 8 8 = true ∧ (off 0 8 + 0) / 32 ∈ k.bad
    ∧ sramFits (off 1 64) 64 64 = true ∧ (off 1 64 + 32) / 32 ∈ k.bad ∧ (∀ y, y < 32 → (off 1 64 + y) / 32 ∉ k.bad) := by
  exact ⟨by dsimp only [runsKernel]; decide +kernel, by decide +kernel, by decide +kernel, by decide +kernel, by decide +kernel, by decide +kernel⟩

/-- A sector of rising bytes and one of zeros. -/
theorem wit_SectorCodecRoundTrip : ((List.range 32).map (BitVec.ofNat 8)).length = 32 ∧ (List.replicate 32 (0 : Byte)).length = 32 := by decide +kernel

/-- A kernel with extent e1 on the bytes from 0x10000 of tensor 5, and its state. -/
def extentKernel : Kernel := { placedKernel with q := [(1, 0x40)], e := [(1, ⟨true, 5, 0x10000, 0x20000, 2⟩)] }
def extentState : State := setLake { base with sel := { base.sel with core := 0 }, tlbs := [(64, [⟨0, 0, 2 ^ 30, 0x7C7⟩])] } 0 { lakeOf base 0 with run := some extentKernel }

/-- Where the kernel's access of `n` bytes at 0x40 is placed. -/
def extentPlace (n need : Nat) : LRes (List Seg) :=
  lakePlace extentState extentState.sel.core extentKernel 1 (tget Extent.unbound extentKernel.e 1).handle (tget Extent.unbound extentKernel.e 1).tid (tget Extent.unbound extentKernel.e 1).vbase 0x40 n need

/-- The segments of that place. -/
def extentSegs (n need : Nat) : List Seg := (okOf (extentPlace n need).2).getD []

theorem extent_reaches {n need : Nat} (hn : 0x40 % n = 0) (hx : 0x40 + n ≤ 0x20000) (h : (okOf (extentPlace n need).2).isSome = true) :
    ExtentReaches extentState (extentPlace n need).1 extentKernel 1 0x40 n need (extentSegs n need) := by
  obtain ⟨l, hl⟩ := Option.isSome_iff_exists.mp h
  exact ⟨rfl, hn, hx, okPair_eq rfl (hl.trans (by rw [extentSegs, hl, Option.getD_some]))⟩

/-- Loads and stores of a byte, a doubleword and a vector at 0x40, and a flag store there. -/
theorem wit_OmpenExtentAccesses : runsKernel extentState extentKernel
    ∧ (∀ imm : BitVec 13, imm = 0 → ∀ n, ((readQ extentKernel 1).toNat + imm.toNat * n) % 2 ^ 64 = 0x40)
    ∧ ExtentReaches extentState (extentPlace 1 1).1 extentKernel 1 0x40 1 1 (extentSegs 1 1) ∧ homeReadable (extentPlace 1 1).1 extentKernel (extentSegs 1 1) = true
    ∧ ExtentReaches extentState (extentPlace 8 1).1 extentKernel 1 0x40 8 1 (extentSegs 8 1) ∧ homeReadable (extentPlace 8 1).1 extentKernel (extentSegs 8 1) = true
    ∧ ExtentReaches extentState (extentPlace 64 1).1 extentKernel 1 0x40 64 1 (extentSegs 64 1) ∧ homeReadable (extentPlace 64 1).1 extentKernel (extentSegs 64 1) = true
    ∧ ExtentReaches extentState (extentPlace 8 2).1 extentKernel 1 0x40 8 2 (extentSegs 8 2) ∧ ExtentReaches extentState (extentPlace 64 2).1 extentKernel 1 0x40 64 2 (extentSegs 64 2)
    ∧ ExtentReaches extentState (extentPlace 4 2).1 extentKernel 1 (readQ extentKernel 1).toNat 4 2 (extentSegs 4 2) := by
  refine ⟨rfl, fun imm h n => ?_, ?_⟩
  · subst h
    have h : (readQ extentKernel 1).toNat = 0x40 := by decide +kernel
    rw [h, show ((0 : BitVec 13).toNat) = 0 from rfl, Nat.zero_mul]
    rfl
  · refine ⟨?_, ?_, ?_, ?_, ?_, ?_, ?_, ?_, ?_⟩ <;> first | exact extent_reaches (by decide) (by decide) (by decide +kernel) | decide +kernel

/-! ### States and operands that meet the hypotheses of each statement, clause by clause -/

def c1CtxA : Ctx := { Ctx.idle with running := true, uid := 7, pc := 0x100, count := 10, s := [(3, 5), (4, 0xFFFFFFFFFFFFFFFF), (5, 0x8000000000000000), (7, 70), (8, 0x3FC00000), (9, 0x1000), (10, 0x40490FDB)], g := 0b1000000000001001, lc := 5, ec := 1, vrb := 30, prb := 3, wq := [⟨.scalar 11 77, 4, 10⟩, ⟨.scalar 12 78, 4, 13⟩], h := [(2, ⟨.unbound, 0, 0, 0, 0⟩)], m := [(2, 9)], p := [(2, 5), (3, 0), (12, 0xFF00FF)], v := [(1, BitVec.ofNat 4096 (2^4095 + 12345678901234567890)), (2, BitVec.ofNat 4096 (7 * 2^4000 + 0x3F8000003F800000)), (40, BitVec.ofNat 4096 (0xABCDEF0123456789 * 2 ^ 100 + 3))] }
def c1SA : State := setCtx State.reset 0 c1CtxA
def c10Opx (m0 : Nat) (m1 : W64 := 0x0000000000002000) (m2 : W64 := 0x4000) : EngineOp := { placedCall.op with m := [(0, BitVec.ofNat 64 m0), (1, m1), (2, m2), (3, 6), (5, 3), (7, 0x500000009)], h := [], uid := 7, id := 77 }
def c10Run0 (m0 : Nat) (dn : Option Nat := none) : McallRun := { placedCall with op := c10Opx m0, aoff := 0x2000, boff := 0x4000, endk := 6, ea := 4, ic := 4, ilen := dn, word := 0, ctr := [(0, 3), (1, 1)], pc := 7 }
def c10Mem0 : State := base
def c10Ms (r : McallRun) : State := modCore c10Mem0 0 (fun k => { k with mcall := some r })
def c10GetB (r : McallRun) (i : Nat) : List Nat := match rowCodes (c10Ms r) r.op (wordH (r.op.param 2)) (r.boff.toNat + (r.ea + i) * wordStride (r.op.param 2)) (nfmtOf (bfmt r.op)).width 0 64 with | .ok l => l | _ => []
def c10GetBt (r : McallRun) (n : Nat) (i : Nat) : List Nat := match rowCodes (c10Ms r) r.op (wordH (r.op.param 2)) (r.boff.toNat + (i) * wordStride (r.op.param 2)) (nfmtOf (bfmt r.op)).width r.ea n with | .ok l => l | _ => []
def c10R0 := c10Run0 0x0
def c10R6 := c10Run0 0x66
def c10Stage (r : McallRun) : McallRun := { r with stagedA := some r.ea, stagedB := some r.ea, codesA := List.replicate (128 * stepSize r) 1, codesB := List.replicate (64 * stepSize r) 1 }
def c10Q6 := c10Stage c10R6
def c10Q6d := { c10Q6 with ilen := some (c10Q6.ic + stepSize c10Q6) }
def c10Q6e := { c10Q6d with word := 1 }
def c10Ri := c10Stage (c10Run0 0x00)
def c10Oq : EngineOp := { c10Opx 0x4000 with x := 0 }
def c10Qs (o : EngineOp) : State := modCore c10Mem0 0 (fun k => { k with queue := [o], pool := [⟨0, 0, [(3, 5)], [(3, true)], 0, true, []⟩, ⟨7, 0, [(3, 5)], [(3, true)], 0, false, []⟩] })
def c10E1 : PoolEntry := ⟨7, 0, [(3, 5)], [(3, true)], 0, false, []⟩
def c10Fl := mcallCheck (unqueue (c10Qs (c10Opx 0x40F0)) (c10Opx 0x40F0)) (c10Opx 0x40F0)
def c10RE := { c10R6 with ended := true, clamped := true, op := { c10R6.op with dbgctl := 0x4000 } }
def c10RT := { c10R6 with steps := 2^32 }
def c10bOpx (m0 : Nat) (m1 : W64 := 0x0000400000002000) (m2 : W64 := 0x0001000000004000) : EngineOp := { placedCall.op with m := [(0, BitVec.ofNat 64 m0), (1, m1), (2, m2), (3, 6), (5, 3), (7, 0x500000009)], h := [], uid := 7, id := 77, launch := 3 }
def c10bRun0 (m0 : Nat) (dn : Option Nat := none) : McallRun := { placedCall with op := c10bOpx m0, aoff := 0x2000, boff := 0x4000, endk := 6, ea := 4, ic := 4, ilen := dn, word := 0, ctr := [(0, 3), (1, 1)], pc := 7 }
def c10bMem0 : State := base
def c10bMs (r : McallRun) : State := modCore c10bMem0 0 (fun k => { k with mcall := some r })
def c10bR6 := c10bRun0 0x66
def c10bStage (r : McallRun) : McallRun := { r with stagedA := some r.ea, stagedB := some r.ea, codesA := List.replicate (128 * stepSize r) 1, codesB := List.replicate (64 * stepSize r) 1 }
def c10bQ6 := c10bStage c10bR6
def c10bQ6n : McallRun := { c10bQ6 with stagedA := none }
def c10bQ6w : McallRun := { c10bQ6 with word := 1, ic := 0 }
def c11Hk5 : Handle := ⟨.tensor, 5, 0, 0, 0⟩
def c11Rm (kind : RKind) (segs : List Seg) (id := 60) : Remote := { id := id, uid := 7, core := 0, part := 0, launch := 3, kind := kind, slot := 1, h := 2, hk := c11Hk5, off := 0x40, ranges := [(0x40, 8)], segs := segs, since := 5 }
def c11A : Nat := 2^38 + 0x10040
def c11Rs (l : List Remote) (i : Nat := 0) : State := { base with remotes := l, sel := { base.sel with idx := i, core := 0 }, cycle := 1000 }
def c11Rl := c11Rm (.load 0 9 3 0 true false 0) [⟨.mem c11A, 8⟩]
def c11Rv := c11Rm (.value [.scalar 5 5, .pred 1 3 3]) []
def c11Rh := c11Rm (.hbind 4) []
def c11Rx := c11Rm (.hsetxv 4 77) []
def c11Rst := c11Rm (.store [1,2,3,4]) [⟨.mem c11A, 4⟩]
def c11Rlk := c11Rm (.lake [1,2,3,4] true) [⟨.mem c11A, 4⟩]
def c11Rtl := c11Rm (.stl [1,2,3,4] 3) [⟨.mem c11A, 4⟩]
def c11Ra (fn : Nat) (sc : Nat) := c11Rm (.atomic fn 7 9 (some 11) sc) [⟨.mem c11A, 4⟩]
def c11Amo (fn : Nat) : Remote := { c11Ra fn 0 with segs := [⟨.mem c11A, atomicSize fn⟩] }
def c11Tg (c : Nat) : State := { base with tags := [(sectorOf (.mem c11A), some c)] }
def c11Far (r : Remote) : Remote := { r with hk := ⟨.tensor, 5, 3, 0, 0⟩, segs := [⟨.far 3 5 0x40, 4⟩] }
def c11Rr := c11Rm (.ring 12 true 5) []
def c11Gs (dm : BitVec 192) (dev : Nat) (die num : Nat) (c11Far : Tab (BitVec 256)) : State := setGroup { c11Rs [] 1 with devnum := dev, sel := { base.sel with idx := 1, die := die, num := num } } 1 { Group.none with members := 0xFF, gen := 5, loaded := true, dmask := dm, arrived := 0xFF, far := c11Far }
def c11Sp : State := { c11Rs [] 2 with splits := [⟨2, 16, 7, 0, 3, [99]⟩, ⟨3, 16, 7, 0, 3, [99]⟩] }
def c11Bl : List Byte := List.replicate 128 5
def c11Dl : State := { c11Rs [] 1 with dirty3 := [(5, c11Bl), (9, c11Bl)] }
def c12Eo (opc x : Nat) (m : Tab W64) : EngineOp := { placedCall.op with opc := opc, x := x, m := m, h := [(2, ⟨.tensor, 5, 0, 0, 0⟩), (3, ⟨.tensor, 6, 0, 0, 0⟩)], uid := 7, id := 77, launch := 3, op := 9, part := 0 }
def c12W (h off stride : Nat) : W64 := BitVec.ofNat 64 (off + h * 2^32 + stride * 2^44)
def c12Qs (o : EngineOp) : State := { modCore base 0 (fun k => { k with queue := [o] }) with sel := { base.sel with core := 0 } }
def c12C0 := c12Eo 4 0 [(1, c12W 2 0x40 64), (2, c12W 0 0x2000 32), (3, 32 + 2 * 2^32)]
def c12CI (o : EngineOp) := match copyCheck (unqueue (c12Qs o) o) o with | .ok l => l | _ => [99]
def c12CF (o : EngineOp) := match copyCheck (unqueue (c12Qs o) o) o with | .error l => l | _ => plainFault 0 0
def c12Cr (o : EngineOp) (left : List (Nat × Nat × Nat)) : CopyRun := ⟨o, [], left, none, 5, [], 0⟩
def c12C1 := { c12C0 with m := [(1, c12W 2 0x1FFF0 64), (2, c12W 0 0x2000 32), (3, 32 + 2 * 2^32)] }
def c12RunS (r : CopyRun) (keep : Bool) (t : Nat) : State := { modCore base 0 (fun k => { k with copies := [r] }) with sel := { base.sel with core := 0, keep := keep, num := 0 }, cycle := t }
def c12R1 := c12Cr c12C0 [(0,0,32), (1,0,32)]
def c12PU (r : CopyRun) := (prepareCopy (c12RunS r false 100) r).1
def c12PR (r : CopyRun) := match (prepareCopy (c12RunS r false 100) r).2 with | .ok r => r | _ => r
def c12MV (r : CopyRun) := (moveAll (c12PU r) (c12PR r) (c12PR r).left.length).1

def c12Cfill := c12Eo 9 0 [(2, c12W 0 0x2000 32), (3, 21 + 1 * 2^32), (5, 0x8877665544332211)]
def c12Rf := c12Cr c12Cfill [(0,0,21)]
def c12So := c12Eo 0x0D 0 [(1, c12W 2 0x400 0), (2, c12W 0 0x4000 0), (3, 2)]
def c12SS (flag keep : Bool) (s : State) : State := { s with sel := { s.sel with flag := flag, keep := keep, idx := 0, num := 0 } }
def c12Sr : StreamRun := ⟨c12So, 0, [], [0,1], [], none⟩
def c12Sst (r : StreamRun) (keep : Bool) : State := c12SS false keep { base with streams := [r], tlbs := [(32, [⟨0, 0, 2 ^ 30, 0x7C7⟩])] }
def c13Eo (opc x : Nat) (m : Tab W64) : EngineOp := { placedCall.op with opc := opc, x := x, m := m, h := [(2, ⟨.tensor, 5, 0, 0, 0⟩), (3, ⟨.tensor, 6, 0, 0, 0⟩)], uid := 7, id := 77, launch := 3, op := 9, part := 0 }
def c13W (h off stride : Nat) : W64 := BitVec.ofNat 64 (off + h * 2^32 + stride * 2^44)
def c13Qs (o : EngineOp) : State := { modCore base 0 (fun k => { k with queue := [o] }) with sel := { base.sel with core := 0 } }
def c13Co (id core rank : Nat) (c13M3 : Nat) : EngineOp := { c13Eo 0x0E 0 [(1, c13W 2 (0x40 + 0x40*rank) 0), (2, c13W 0 0x2000 0), (3, BitVec.ofNat 64 c13M3)] with id := id, core := core, groups := [1, 5, 2, rank] }
def c13G1 : Group := { Group.none with members := 3, gen := 5, loaded := true }
def c13M3 := 4 + 17 * 2^32 + 0 * 2^37 + 0 * 2^40
def c13Insts (a b : EngineOp) : CollInst := ⟨1, 5, [a, b], false, none, none, false⟩
def c13CS (i : CollInst) : State := setGroup { modCore (modCore base 0 (fun k => { k with queue := i.ops.filter (·.core = 0) })) 1 (fun k => { k with queue := i.ops.filter (·.core = 1) }) with colls := [i], sel := { base.sel with core := 0, idx := 0, keep := false } } 1 c13G1
def c13I1 := c13Insts (c13Co 70 0 0 c13M3) (c13Co 71 1 1 c13M3)
def c13I2 := c13Insts (c13Co 70 0 0 c13M3) (c13Co 71 1 1 (c13M3+1))
def c13I3 := { c13I1 with started := true }
def c13Cu := (collSources (c13CS c13I3) c13I3.ops).1
def c13Cown := match (collSources (c13CS c13I3) c13I3.ops).2 with | .ok l => l | _ => []
def c13I4 := { c13I3 with shares := some [], clamped := true }
def c13Lkc (opc x : Nat) (m : Tab W64) : EngineOp := c13Eo opc x m
def c13WithLake (s : State) (i : Nat) (l : Lake) : State := setLake s i l
def c13Lk0 : Lake := { Lake.fresh with ktable := [(3, 0x8000000000000010)] }
def c13C3 := c13Lkc 0x0F 3 [(1, 0), (2, 0), (3, 55), (4, 66)]
def c13Dm : Kernel := placedKernel
def c13C4 := c13Lkc 0x0F 4 [(1, 0), (2, 0), (3, 55), (4, 66)]
def c13C5 := c13Lkc 0x10 0 [(1, 0), (2, 2 * 2^32), (3, 55), (4, 66)]
def c13Lop : Operator := { aOperator with kind := true, tasks := 4, handed := 1, entry := 3, affmask := 0 }
def c13LS (o : Operator) : State := let s := c13WithLake (c13Qs c13C5) (taskLake base o o.handed) c13Lk0; { s with ops := [(9, o)], sel := { s.sel with num := 9 } }
def c13Bk : Kernel := { newKernel base 0 9 2 with entry := 3, start := 16 }
def c13Ks1 : State := let s := joinBuffer (c13WithLake (c13Qs c13C5) 0 c13Lk0) 0 c13Bk; s
def c13Ks2 : State := c13WithLake { c13Qs c13C5 with cycle := 10^15 } 0 { c13Lk0 with run := some { c13Bk with since := 4 } }
def c14RecB (w0 tasks entry ktab a0 : Nat) (n78 : Nat := 0) : List Byte := leBytes w0 4 ++ leBytes tasks 4 ++ leBytes entry 4 ++ leBytes ktab 4 ++ List.replicate 32 0 ++ leBytes a0 4 ++ List.replicate 60 0 ++ leBytes 77 8 ++ leBytes n78 8
def c14Rec0 := c14RecB (1 * 16 + 1 * 2) 2 0x100 2 (5 + 1 * 2^20)
def c14Sub (i tail : Nat) (hi : Nat := 0) : State := let s := put (0x1000000 + i * 131072 + 128 * 7) c14Rec0 { base with sel := { base.sel with part := 0, word := BitVec.ofNat 64 (tail + i * 2^48 + hi) } }
  modPart s 0 (fun p => { p with streams := [(i, { Stream.fresh with head := 7 })] })
def c14Adm (l : List Byte) : State × Operator := let o := parseOperator 0 3 l; ({ base with ops := [(9, aOperator), (11, o)], sel := { base.sel with num := 11 } }, o)
def c14AS := c14Adm c14Rec0
def c14AB := c14Adm (c14RecB (1 * 16 + 1 * 2) 2 0x100 2 (5 + 1 * 2^20) 1)
def c14Tk : TaskRec := { TaskRec.none with entry := 0x123, arg0 := 5, arg1 := 6, fv := true, ftid := 9, foff := 0x77, op := 9, cls := 2 }
def c14Pop (s : State) : State := { s with sel := { s.sel with core := 0, ctx := 1 } }
def c14Co : Operator := { aOperator with cores := true, tasks := 2, handed := 0 }
def c14Pr : State := c14Pop { base with ops := [(9, aOperator), (12, c14Co)] }
def c14Pq : State := c14Pop { base with queues := [(1, [{ c14Tk with cls := 3 }])] }
def c14Psv : Saved := { ctx := { aCtx with uid := 30 }, part := 0, core := 0, area := 4, cls := 3, tiles := [], pool := [], mcall := none, queued := [], blk := false }
def c14Pv : State := c14Pop { base with saved := [c14Psv] }
def c14Pl : State := { modCtx (modCtx c14Pr 1 (fun c => { c with reserved := some 12 })) 2 (fun c => { c with reserved := some 12 }) with sel := { c14Pr.sel with num := 12 } }
def c14Sy : SegCopy := ⟨2, 0, 5, 0, 7, none⟩
def c14Sc : State := modCore base 0 (fun k => { k with copying := [c14Sy] })
def c14Scr := readSegment c14Sc 0 c14Sy
def c14Sy2 : SegCopy := ⟨2, 3, 5, 0, 7, none⟩
def c14Sc2 : State := modCore base 0 (fun k => { k with copying := [c14Sy2] })
def c14Scr2 := readSegment c14Sc2 0 c14Sy2
def c14Oe : Operator := { aOperator with phase := .ending, admitted := some 5 }
def c14ES (o : Operator) : State := { base with ops := [(9, o)], sel := { base.sel with num := 9, part := 0 }, cycle := 10^9 }
def c14Od := { aOperator with admitted := some 5 }
def c14Hr : HostRing := { qp := 0, addr := 0, key := 0, count := 4, ctid := 5, coff := 0x80, written := 2, waiting := [[1,2,3], [4]] }
def c14RS (i : Nat) (win : Option (Nat × Nat × List Byte)) : State := let s := modPart base 0 (fun p => { p with rings := [c14Hr, c14Hr], window := win }); { s with sel := { s.sel with idx := i, part := 0 }, cycle := 10^9 }
def c14RSw := c14RS 0 (some (5, 3, [9, 9]))
def c15T7 : Tensor := { Tensor.none with id := 7, vbase := 0x4000000000, extent := 0x11000 }
def c15B0 : State := modPart { base with sel := { base.sel with part := 0, idx := 0, num := 0 } } 0 (fun p => { p with recordCap := 100 })
def c15Cr : State := { c15B0 with sel := { c15B0.sel with ten := c15T7, flag := false } }
def c15Cr0 : State := nextOf (exec .tensorCreate c15Cr)
def c15Il : State := { c15Cr0 with sel := { c15Cr0.sel with num := 7, data := [1,2,3,4,5] } }
def c15T70 := (tensorOf c15Il 0 7).getD c15T7
def c15Plc := placeTensor c15Il 0 c15T70
def c15M1 : State := nextOf (exec .tensorImageLoad c15Il)
def c15T71 := (tensorOf c15M1 0 7).getD c15T7
def c15Ws (need : Nat) (va : Nat) : State := { c15M1 with walks := [⟨3, 0, va, [⟨va / 65536, need, 0⟩]⟩] }
def c15Rp : Report := ⟨0, 5, 0x10000, 5, 0, 1, 7⟩
def c15RpS : State := modPart { c15M1 with reports := [c15Rp], cycle := 10^12, walks := [] } 0 (fun p => { p with flttmo := 5, migctl := 0, rings := [⟨0,0,0,4,0,0,0,[]⟩, ⟨0,0,0,4,0,0,0,[]⟩] })
def c15Mg (flag : Bool) : State := modPart { c15M1 with cycle := 10^12, sel := { c15M1.sel with flag := flag, idx := 12, num := 70, die := 0 }, pageCount := [(12, 65500)] } 0 (fun p => { p with migctl := BitVec.ofNat 32 (2^31 + 2^16 + 2^8 * 0 + 255) })
def c15Act (a : WeirAct) (t : Tensor) : State := setTensor { c15M1 with acts := [a] } 0 t
def c15Tb : Tensor := { c15T71 with busy := true }
def c15Fr2 := match takeFrames c15M1 (slicesOn c15M1 0 0) 2 2 with | some (fs, _) => fs | none => []
def c15LeafRO : Leaf := let l := ((leavesOf c15M1 0 c15T71)[0]?).getD ⟨0,0,0,0⟩; { l with word := l.word - 2 ^ 7 }
def c15WsRO : State := let s := c15Ws 3 0x4000000123; { s with mem := cellsSet s.mem c15LeafRO.key (leBytes c15LeafRO.word 8) }
def c16T7 : Tensor := { Tensor.none with id := 7, vbase := 0x4000000000, extent := 0x11000 }
def c16B0 : State := modPart { base with sel := { base.sel with part := 0, idx := 0, num := 0 } } 0 (fun p => { p with recordCap := 100 })
def c16Cr : State := { c16B0 with sel := { c16B0.sel with ten := c16T7, flag := false } }
def c16Cr0 : State := nextOf (exec .tensorCreate c16Cr)
def c16Il : State := { c16Cr0 with sel := { c16Cr0.sel with num := 7, data := [1,2,3,4,5] } }
def c16M1 : State := nextOf (exec .tensorImageLoad c16Il)
def c16T71 := (tensorOf c16M1 0 7).getD c16T7
def c16Act (a : WeirAct) (t : Tensor) : State := setTensor { c16M1 with acts := [a] } 0 t
def c16Tb : Tensor := { c16T71 with busy := true }
def c16Fr2 := match takeFrames c16M1 (slicesOn c16M1 0 0) 2 2 with | some (fs, _) => fs | none => []
def c16Hot2 : State := { c16B0 with migrations := [⟨0, 0x10000, 65536 * (2 ^ 22 + 7) + 0x80, 65536 * (2 ^ 22 + 5), 2 ^ 22 + 9, 1, 0, 0⟩] }
def c16Mm1 := (c16Hot2.migrations[0]?).getD ⟨0,0,0,0,0,0,0,0⟩
def c16Cz : State := nextOf (exec .weirActionSwitch (c16Act ⟨0, 7, 2, 4, c16Fr2⟩ c16Tb))
def c16Tz := (tensorOf c16Cz 0 7).getD c16T7
def c16Fz := ((leavesOf c16Cz 0 c16Tz).map frameOf).getD 0 0
def c16Rd : State := { c16Cz with reserve := [⟨0, 3, c16Fz * 512 + 5⟩], sel := { c16Cz.sel with die := 0 } }
def c16Tf := takeFrames c16Rd (slicesOn c16Rd 0 0) 1 2
def c16Rcm : Recompute := ⟨0, 7, 0, [], 0, some 40, 2, none, [33], 0, 0⟩
def c16Ro (f : Option (Nat × Nat)) : Operator := { aOperator with phase := .ending, fail := f }
def c16Rc (f : Option (Nat × Nat)) (r : Recompute) : State := withCtx 0 (fun c => { c with block := some (.suspended 0 7) }) { c16M1 with recomputes := [r, ⟨0, 6, 1, [7], 0, none, 2, none, [], 0, 0⟩], ops := [(9, aOperator), (40, c16Ro f)], sel := { c16M1.sel with idx := 0 } }
def c16Rcf : Recompute := { c16Rcm with op := none, failed := some (0x53, 6, 1), place := 0 }
def c17T (s : State) : State := { s with sel := { s.sel with core := 0, part := 0, idx := 0, num := 0, ctx := 0 } }
def c17Busy : State := c17T (modPart { base with ctxs := (List.range 4).map (fun i => (i, { aCtx with uid := 7 + i, tclass := 1, since := i })), queues := [(1, [{ TaskRec.none with op := 9, cls := 3 }])], cycle := 10^7 } 0 (fun p => { p with prectl := 0x80000005, saveAreas := [4, 3] }))
def c17C0 : Command := ⟨3, false, 0, 2, 0, 0, 5, 0, 0⟩
def c17Pc : State := { c17Busy with commands := [(0, [c17C0])] }
def c17Ps : State := withCtx 0 (fun c => { c with preq := some 0 }) c17Busy
def c17Rq : State := let s := modPart c17Busy 0 (fun p => { p with slices := 3, resize := some (2, 77) }); { s with sel := { s.sel with flag := true } }
def c17Ring (n : Nat) : HostRing := { qp := 6, addr := 0x1000, key := 7, count := n, ctid := 5, coff := 0, written := 0, waiting := [] }
def c17CfgP : Partition := { Partition.none with slices := 6, groupLo := 4, groupHi := 9, qps := [(6, ⟨1, true, false, 5, 0x100, 4, 0, 0, [], []⟩)], rings := [c17Ring 64, c17Ring 128, c17Ring 65536] }
def c17Pcr : State := let s := c17T base; { s with sel := { s.sel with part := 3, cfg := c17CfgP } }
def c17Prs : State := c17T { (setGroup base 1 Group.none) with remotes := [] }
def c17Rz : State := { c17Prs with sel := { c17Prs.sel with word := 3, flag := true, num := 5 } }
def c17Rz2 : State := modPart { c17Prs with ctxs := [] , cycle := 10^12, devnum := 3 } 0 (fun p => { p with slices := 3, resize := some (1, 77), resizetmo := 5 })
def c17CmdB (code a16 a32 a64 b64 seq : Nat) (bad : Nat := 0) : List Byte := leBytes code 1 ++ leBytes bad 1 ++ leBytes a16 2 ++ leBytes a32 4 ++ leBytes a64 8 ++ leBytes b64 8 ++ leBytes seq 8
def c17Cw (l : List Byte) : State := modPart (put (0x1000000 + 0x801000 + 32 * 7) l (c17T { base with sel := { base.sel with word := 8 } })) 0 (fun p => { p with cmdHead := 7 })
def c17C (code a16 a32 a64 b64 : Nat) (ph : Nat := 0) : Command := ⟨code, false, a16, a32, a64, b64, 5, ph, 0⟩
def c17Cs (c : Command) : State := c17T { base with commands := [(0, [c])] }
def c17DummyR : Report := ⟨0, 5, 0x10000, 5, 0, 1, 7⟩
def c17Q0 : QPair := ⟨3, true, true, 5, 0x100, 4, 0, 7, [(3, 4, 7)], [(9, 1, 7, [])]⟩
def c17Frs (k : Nat) : State := { c17Cs (c17C 5 5 k 0 0) with reports := [c17DummyR] }
def c17Qs : State := modPart (c17Cs (c17C 9 6 0 0 0)) 0 (fun p => { p with qps := [(6, c17Q0)] })
def c17Ckp : State := modPart { (c17Cs (c17C 6 1 0 0 0 1)) with ops := [], tensors := [] } 0 (fun p => {p with checkpoint := true })
def c17Rdat : List Byte := leBytes 1 8 ++ List.replicate 536 0
def c17Rst : State := let s := { (c17Cs (c17C 7 1 0 0 0 1)) with ops := [], tensors := [] }; { s with sel := { s.sel with data := c17Rdat } }
def c17RecB (w0 tasks entry ktab a0 : Nat) (n78 : Nat := 0) : List Byte := leBytes w0 4 ++ leBytes tasks 4 ++ leBytes entry 4 ++ leBytes ktab 4 ++ List.replicate 32 0 ++ leBytes a0 4 ++ List.replicate 60 0 ++ leBytes 77 8 ++ leBytes n78 8
def c17Rec0 := c17RecB (1 * 16 + 1 * 2) 2 0x100 2 (5 + 1 * 2^20)
def c17Gl (s : State) : State := put 0x40000 (leBytes 2 4 ++ List.replicate 60 0 ++ c17Rec0 ++ c17Rec0) s
def c17Ga : State := { c17Cs (c17C 12 0 0 9 0) with ops := [(9, aOperator), (40, { aOperator with replay := some (9, 3) })] }
def c2U1 (n need : Nat) : State := (checkAccesses (begun base) 0 ((accessOf (begun base) 0 2 need [(operandAt base 4 1 n, n)]).map (fun a => (1, a)))).1
def c20T (s : State) : State := { s with sel := { s.sel with core := 0, part := 0, idx := 0, num := 6, ctx := 0, flag := false, keep := false } }
def c20Q0 : QPair := ⟨3, true, false, 5, 0x100, 4, 0, 7, [(9, 3, 7)], []⟩
def c20Rs (q : QPair) : State := modPart { (c20T base) with cycle := 10^9 } 0 (fun p => { p with qps := [(6, q), (0, q)], keys := [(77, 6), (78, 1)] })
def c20Wq : List Byte := leBytes 1 4 ++ leBytes 6 4 ++ leBytes 0x40 8 ++ leBytes 16 4 ++ leBytes 9 4 ++ leBytes 0x1000 8 ++ leBytes 0 32
def c20Rq : State := put (0x10000 + 0x100 + 64 * 3) c20Wq (c20Rs c20Q0)
def c20Q1 : QPair := { c20Q0 with posted := [(9, 1, 7, [3]), (9, 2, 7, [])] }
def c20Rf : State := { c20Rs c20Q1 with sel := { (c20Rs c20Q1).sel with flag := true } }
def c20Iw (key off : Nat) (data : List Byte) : State := { c20Rs c20Q0 with sel := { (c20Rs c20Q0).sel with num := off, word := BitVec.ofNat 64 key, data := data } }
def c20Ps (x : Die) : State := let read (x : Die) : Die := { x with sampled := 10 ^ 12, minute := 17 }; let s := setDie ([0, 2, 3].foldl (fun s d => setDie s d (read Die.fresh)) { (c20T base) with cycle := 10^12 }) 1 (read x); { s with sel := { s.sel with die := 1 }, unsaved := [(64, 5)] }
def c20Bs : State := { c20T base with recovery := true, sel := { base.sel with num := 1, data := [1,2] }, flash := [(1, [5])] }
def c20Us : State := { c20T base with turn := ⟨.upset (.sector (.mem 99)), base.sel, 1⟩, sched := [] }
def c3Spw : State := put 0x10040 (leBytes 0x12345 4 ++ leBytes 0 28) base
def c3Spu : State := (checkAccesses (begun c3Spw) 0 ((accessOf (begun c3Spw) 0 2 1 [(operandAt c3Spw 4 0 32, 32)]).map (fun a => (0, a)))).1
def c3Spd : List Byte := leBytes 0x12345 4 ++ leBytes 0 28
def c3Spk : TaskRec := (parseTask c3Spd).1
def c3Spl : State := storeLocal base 0 0x40 3 c3Spd
def c4Pu (s : State) (h need : Nat) (elems : List (Nat × Nat)) : State := (checkAccesses (begun s) (selCtx s) ((accessOf (begun s) (selCtx s) h need elems).map (fun a => (1, a)))).1
def c4Vb : State := withCtx 0 (fun c => {c with v := [(33, BitVec.ofNat 4096 (0x123456789ABCDEF0 * 2 ^ 900 + 77)), (1, BitVec.ofNat 4096 (2^4095 + 3 * 2 ^ 64 + 9))], vrb := 1}) base
def c4Vbl : State := c4Vb
def c4RingS : State := setRing c4Vbl 5 ⟨9, 4, 0x8000000000000000, 0⟩
def c4Grp : State := modOp (setGroup c4Vbl 1 {Group.none with members := 0xFF, gen := 5, loaded := true}) 9 (fun o => {o with gvalid := 1, group := [1,0,0,0]})
def c5Vw (seed n : Nat) : VWord := BitVec.ofNat 4096 ((List.range 128).foldl (fun a i => a * 2^32 + ((seed * (i+3) * 2654435761 + i * i * 40503 * seed) % 2^32)) n)
def c5Fw (seed : Nat) : VWord := BitVec.ofNat 4096 ((List.range 128).foldl (fun a i => a * 2^32 + (0x3C000000 + (seed * (i+1) * 2654435761) % 0x08000000 + (i % 3 / 2) * 2^31)) 0)
def c5V : State := withCtx 0 (fun c => {c with v := [(1, c5Fw 3), (2, c5Fw 7), (3, c5Vw 5 0), (4, c5Vw 9 1), (40, c5Vw 11 2)], vrb := 30, prb := 3, p := [(2, BitVec.ofNat 128 0xF0F0FF000000000000000000000AAAA5), (3, 0), (5, 0xFFFF0000)], s := [(3, 5), (4, 0x40), (5, 0x3FC00000)]}) base
def c5Pe : PoolEntry := ⟨7, 5, [(0, 17), (64, 18), (7*64+1, 0xFFFFFFFF)], [(64, true)], BitVec.allOnes 64 ^^^ 2, true, []⟩
def c5P : State := modCore c5V 0 (fun k => {k with pool := [c5Pe]})
def c5Peb : PoolEntry := { c5Pe with bad := [(7*64+1)/8] }
def c5Pb : State := modCore c5P 0 (fun k => { k with pool := [c5Peb] })
def c6Eb : State := withCtx 0 (fun c => {c with k := [(4, ⟨.done, ⟨0,0,0,.unbound,0,0,0⟩, 3⟩), (5, ⟨.fault, ⟨0x40,1,2,.tensor,5,6,7⟩, 3⟩), (6, ⟨.pend, ⟨0,0,0,.unbound,0,0,0⟩, 33⟩)], m := [(1, 0x2000), (2, 0x4000)]}) base
def c6Efull : State := modCore c6Eb 0 (fun k => {k with queue := (List.range 32).map fun i => {placedCall.op with id := 100 + i}})
def c6Grp : State := setGroup c6Eb 1 {Group.none with members := 0xFF, gen := 5, loaded := true}
def c6Tx : State := withCtx 0 (fun c => { c with m := [(1, 0x2000 + 64 * 2 ^ 44), (2, 0x4000)] }) base
def c6Tc (m3 : W64) : State := withCtx 0 (fun c => {c with m := [(1, 0x2000), (2, 0x4000), (3, m3), (4, 0x2200)]}) c6Tx
def c7Kk : Kernel := { placedKernel with pc := 0x3FFF, q := [(1, 5), (2, 0xFFFFFFFFFFFFFFF9), (3, 70), (4, 0x10000), (5, 0x20000), (15, 0x12345)], w := [(1, BitVec.ofNat 512 (0x3F80000040000000 * 2 ^ 70 + 12345678901)), (3, BitVec.ofNat 512 (0xC0A0000041200000BF800000 * 2 ^ 300 + 987654321))], z := [(1, 0xFF0F), (2, 0x0F)], start := 3, cls := 2, ran := 100, e := [(1, ⟨true, 5, 0x10000, 0x20000, 2⟩)], sram := [] }
def c7Lk (k : Kernel) : State := setLake { base with sel := { base.sel with core := 0 }, cycle := 5000 } 0 { lakeOf base 0 with run := some k }
def c7Ks : Kernel := sramStore c7Kk 0x10000 ((List.range 700).map fun i => BitVec.ofNat 8 (i * 37 + i / 9))
def c8Kk : Kernel := { placedKernel with pc := 0x3FFF, q := [(1, 0x40), (2, 0x30000), (3, 0x80000), (4, 0x10000), (5, 5 * 2^32 + 5), (6, 0xFFF7), (7, 8), (8, 16), (15, 0x12345)], w := [(1, BitVec.ofNat 512 (0x3F80000040000000 * 2 ^ 70 + 12345678901))], start := 3, cls := 2, ran := 100, e := [(1, ⟨true, 5, 0x10000, 0x20000, 2⟩)] }
def c8Lk (k : Kernel) : State := setLake { base with sel := { base.sel with core := 0 }, cycle := 5000 } 0 { lakeOf base 0 with run := some k }
def c8Lkt (k : Kernel) : State := let s := c8Lk k; { s with tlbs := [(64, [⟨0, 0, 2 ^ 30, 0x7C7⟩])] }
def c8Ext (s : State) (k : Kernel) (e off n need : Nat) : State × List Seg := match lakePlace s s.sel.core k e 2 5 0x10000 off n need with
  | (u, .ok segs) => (u, segs) | (u, _) => (u, [])
def c8X1 := c8Ext (c8Lkt c8Kk) c8Kk 1 0x40 4 1
def c8X2 := c8Ext (c8Lkt c8Kk) c8Kk 1 0x40 64 1
def c8Ks2 : Kernel := sramStore c8Kk 0x10000 ((List.range 512).map fun i => BitVec.ofNat 8 (i * 37 + i / 9))
def c8Kb : Kernel := sramStore (writeQ (writeQ (writeQ c8Kk 5 4) 6 0x20) 7 0x20) 0x10000 (leBytes 1 4 ++ leBytes 1 4)
def c8Xb := c8Ext (c8Lkt c8Kb) c8Kb 1 0x40 16 1
def c8Lkp : State := let s := c8Lk c8Kk; { s with remotes := [{ mkRemote s 0 0 0 0 [] (.lake [1] false) with uid := 1 }] }
def c8bKk : Kernel := { placedKernel with pc := 0x3FFF, q := [(1, 0x40), (2, 0x30000), (3, 0x80000), (4, 0x10000), (5, 5 * 2^32 + 5), (6, 0xFFF7), (7, 8), (8, 16), (15, 0x12345)], w := [(1, BitVec.ofNat 512 (0x3F80000040000000 * 2 ^ 70 + 12345678901))], start := 3, cls := 2, ran := 100, e := [(1, ⟨true, 5, 0x10000, 0x20000, 2⟩)] }
def c8bLk (k : Kernel) : State := setLake { base with sel := { base.sel with core := 0 }, cycle := 5000 } 0 { lakeOf base 0 with run := some k }
def c8bKs : Kernel := sramStore c8bKk 0x10000 ((leBytes 3 4 ++ leBytes 9 4 ++ leBytes 3 4 ++ leBytes 0xFFFFFFFF 4 ++ leBytes 9 4))
def c8bKw : State := joinBuffer (c8bLk c8bKk) 0 { c8bKk with id := 99, cls := 2 }
def c8bKz : State := setLake (c8bLk c8bKk) 0 { lakeOf (c8bLk c8bKk) 0 with istore := [(0x3FFF, 0xFF000000)] }
def c9Ws (l : Tab W64) (die : Nat := 2) (cp : Nat := 1) : State := setWell { base with sel := { base.sel with die := die, num := cp, idx := 9 }, cycle := 10^12 } die cp { Well.fresh with x := l, pc := 0x8000, lastSignal := 5 }
def c9Wput (a : Nat) (l : List Byte) (s : State) : State := wellStore s 2 a l
def c9Ring : State := c9Wput 0x400 (leBytes 0x1000 8 ++ [4, 5] ++ leBytes 0 6 ++ leBytes 0x13 8 ++ leBytes 0x15 8) (c9Ws [(1, 0x400), (2, 0x1234), (3, 0x3C7)])
def c9Dx (b : Nat) : State := c9Wput 0x400 (leBytes 0x100 4 ++ leBytes 0 28) (c9Ws [(1, 0x400), (3, BitVec.ofNat 64 b)])
def c9Ev : State := { base with sel := {base.sel with core := 0, ctx := 1} }
def c9bWs (l : Tab W64) (die : Nat := 2) (cp : Nat := 1) : State := setWell { base with sel := { base.sel with die := die, num := cp, idx := 9 }, cycle := 10^12 } die cp { Well.fresh with x := l, pc := 0x8000, lastSignal := 5 }
def c9bWput (a : Nat) (l : List Byte) (s : State) : State := wellStore s 2 a l
def c9bSgw : State := let s := c9bWput 0x8000 (match encode (.sgwait 6 1 3) with | some e => leBytes e.word 4 | none => []) (c9bWs [(1, 0x400), (3, 0x500000013)]); setWell s 2 1 { wellOf s 2 1 with waitSince := some ⟨0x400, 0x13, 5 + 940 * 5, some false⟩ }
def c9bIb (w : BitVec 128) : State := modCore base 0 (fun k => { k with frames := [(0, { ktab := 2, seg := 0, order := 1, code := List.replicate 0x200 w })] })
def c9bW1 : BitVec 128 := 2^128-1

theorem wit_IntegerRegisterForms :
  (
    let s : State := c1SA
    let g : GReg := 3
    quiet s = true
    ∧ readG (actor s) g = true) := by decide +kernel

theorem wit_ImmediateBitAndFieldForms :
  (
    let s : State := c1SA
    let g : GReg := 3
    quiet s = true
    ∧ readG (actor s) g = true)
  ∧ (
    let s : State := c1SA
    let g : GReg := 3
    let wm1 : BitVec 5 := 31
    let pos : BitVec 6 := 32
    quiet s = true
    ∧ readG (actor s) g = true
    ∧ pos.toNat + wm1.toNat + 1 ≤ 64) :=
  ⟨by decide +kernel, by decide +kernel⟩

theorem wit_DivisionForms :
  (
    let s : State := c1SA
    let g : GReg := 3
    let sb : SReg := 4
    quiet s = true
    ∧ readG (actor s) g = true
    ∧ readS (actor s) sb ≠ 0)
  ∧ (
    let s : State := c1SA
    let g : GReg := 3
    let sb : SReg := 6
    quiet s = true
    ∧ (actor s).storeFail = none
    ∧ readS (actor s) sb = 0
    ∧ (actor s).mode = false
    ∧ hasHandler (begun s) (selCtx s) = true
    ∧ readG (actor s) g = true)
  ∧ (
    let s : State := base
    let g : GReg := 2
    let sb : SReg := 9
    quiet s = true
    ∧ (actor s).storeFail = none
    ∧ readS (actor s) sb = 0
    ∧ (actor s).mode = false
    ∧ hasHandler (begun s) (selCtx s) = true
    ∧ readG (actor s) g = false) :=
  ⟨by decide +kernel, by decide +kernel, by decide +kernel⟩

theorem wit_ComparesAndGuards :
  (
    let s : State := c1SA
    let g : GReg := 3
    quiet s = true
    ∧ readG (actor s) g = true) := by decide +kernel

theorem wit_ScalarFloatForms :
  (
    let s : State := c1SA
    let g : GReg := 3
    let conv : BitVec 5 := 3
    quiet s = true
    ∧ readG (actor s) g = true
    ∧ conv.toNat < 14) := by decide +kernel

/-- Codes of f32: NaNs, infinities, zeros and finite numbers, an exact cancellation, an exact product of sign minus, an exact sum, and an inexact product under every mode. -/
theorem wit_ScalarFloatForms_values :
  let f := FFmt.f32
  let w := 1 + f.eb + f.fb
  let top := 2 ^ f.eb - 1
  let field (x : Nat) : Nat := x / 2 ^ f.fb % 2 ^ f.eb
  let nan (x : Nat) : Prop := field x = top ∧ x % 2 ^ f.fb ≠ 0
  let inf (x : Nat) : Prop := field x = top ∧ x % 2 ^ f.fb = 0
  let zero (x : Nat) : Prop := x % 2 ^ (w - 1) = 0
  let fin (x : Nat) : Prop := x < 2 ^ w ∧ field x ≠ top
  let neg (x : Nat) : Bool := x.testBit (w - 1)
  let val (x : Nat) : ℚ := (f.decode x).rat
  ((f, 0x7FC00000) ∈ [(FFmt.f32, 0x7FC00000), (FFmt.bf16, 0x7FC0), (FFmt.f16, 0x7E00)])
  ∧ (nan 0x7F800001 ∧ ¬nan 0x3F800000)
  ∧ (inf 0x7F800000 ∧ inf 0xFF800000 ∧ neg 0x7F800000 ≠ neg 0xFF800000 ∧ zero 0x80000000)
  ∧ (fin 0x3F800000 ∧ fin 0xBF800000 ∧ fin 0x80000000 ∧ val 0x3F800000 + val 0xBF800000 = 0 ∧ val 0x3F800000 * val 0x80000000 = 0)
  ∧ (fin 0x40000000 ∧ val 0x40000000 = val 0x3F800000 + val 0x3F800000 ∧ val 0x3F800000 + val 0x3F800000 ≠ 0)
  ∧ ([Rm.rne, .rtz, .rup, .rdn].all (fun rm => decide (fin (f.arith .mul rm false 0x3F800001 0x3FC00000 0).code)) = true) := by
  decide +kernel

theorem wit_ScalarLoads :
  (
    let s : State := base
    let g : GReg := 0
    let sa : SReg := 4
    let imm : BitVec 15 := 0x10
    let fits (n : Nat) : Prop := localFits s (operandAt s sa imm.toNat n) n n = true ∧ localClean s (operandAt s sa imm.toNat n) n = true
    quiet s = true
    ∧ readG (actor s) g = true
    ∧ fits 1
    ∧ fits 2
    ∧ fits 4
    ∧ fits 8)
  ∧ (
    let s : State := base
    let u : State := (c2U1 1 1)
    let sl : AB := .b
    let g : GReg := 0
    let sa : SReg := 4
    let h : HReg := 2
    let imm : BitVec 15 := 1
    let slot := Slot.num sl.slot
    let off (n : Nat) : Nat := operandAt s sa imm.toNat n
    let reaches (n : Nat) : Prop := Reaches s u slot h.toNat 1 n 0x25 false [(off n, n)]
    quiet s = true
    ∧ readG (actor s) g = true
    ∧ h ≠ 0
    ∧ reaches 1
    ∧ reaches 2
    ∧ reaches 4
    ∧ reaches 8) := by
  refine ⟨?_, ?_⟩
  · decide +kernel
  · dsimp only [runsKernel, Reaches, sramFits]; decide +kernel

theorem wit_ScalarStores :
  (
    let s : State := base
    let g : GReg := 0
    let sa : SReg := 4
    let imm : BitVec 15 := 0x10
    let off (n : Nat) : Nat := operandAt s sa imm.toNat n
    let fits (n : Nat) : Prop := localFits s (off n) n n = true
    quiet s = true
    ∧ readG (actor s) g = true
    ∧ fits 1
    ∧ fits 2
    ∧ fits 4
    ∧ fits 8)
  ∧ (
    let s : State := base
    let u : State := (c2U1 2 2)
    let sl : AB := .b
    let g : GReg := 0
    let sa : SReg := 4
    let h : HReg := 2
    let imm : BitVec 15 := 1
    let slot := Slot.num sl.slot
    let off (n : Nat) : Nat := operandAt s sa imm.toNat n
    let reaches (n : Nat) : Prop := Reaches s u slot h.toNat 2 n 0x25 false [(off n, n)]
    quiet s = true
    ∧ readG (actor s) g = true
    ∧ h ≠ 0
    ∧ reaches 1
    ∧ reaches 2
    ∧ reaches 4
    ∧ reaches 8) := by
  refine ⟨?_, ?_⟩
  · decide +kernel
  · dsimp only [runsKernel, Reaches, sramFits]; decide +kernel

theorem wit_TakenBranches :
  (
    let s : State := c1SA
    let g : GReg := 3
    quiet s = true
    ∧ readG (actor s) g = true) := by decide +kernel

theorem wit_Loops :
  (
    let s : State := c1SA
    let g : GReg := 3
    quiet s = true
    ∧ readG (actor s) g = true)
  ∧ (
    let s : State := c1SA
    let g : GReg := 3
    let c := actor s
    quiet s = true
    ∧ readG (actor s) g = true
    ∧ c.lc ≠ 0)
  ∧ (
    let s : State := (modCtx c1SA 0 (fun c => {c with lc := 0}))
    let g : GReg := 3
    let c := actor s
    quiet s = true
    ∧ readG (actor s) g = true
    ∧ c.lc = 0) :=
  ⟨by decide +kernel, by decide +kernel, by decide +kernel⟩

theorem wit_TrapsAndTheirEntry :
  (
    let s : State := base
    let g : GReg := 0
    quiet s = true
    ∧ (actor s).storeFail = none
    ∧ readG (actor s) g = true
    ∧ (actor s).mode = false
    ∧ hasHandler (begun s) (selCtx s) = true)
  ∧ (
    let cause : Nat := 0x10
    let detail : Nat := 0xFFFFFF
    cause < 128
    ∧ detail < 2 ^ 24)
  ∧ (
    let s : State := (inMode base)
    let g : GReg := 0
    quiet s = true
    ∧ (actor s).storeFail = none
    ∧ readG (actor s) g = true
    ∧ ((actor s).mode = true ∨ hasHandler (begun s) (selCtx s) = false)) :=
  ⟨by decide +kernel, by decide +kernel, by decide +kernel⟩

theorem wit_EretReturns :
  (
    let s : State := (inMode base)
    let g : GReg := 0
    quiet s = true
    ∧ readG (actor s) g = true
    ∧ (actor s).mode = true
    ∧ awaiting (begun s) (actor s).uid = false) := by decide +kernel

theorem wit_SystemRegisters :
  (
    let s : State := base
    let g : GReg := 0
    let n : BitVec 16 := 0x10
    quiet s = true
    ∧ readG (actor s) g = true
    ∧ ((actor s).mode = true ∨ supervisorOnly n.toNat = false))
  ∧ (
    let s : State := base
    let g : GReg := 0
    let n : BitVec 16 := 0
    quiet s = true
    ∧ readG (actor s) g = true
    ∧ ((actor s).mode = true ∨ n = 0)
    ∧ (actor s).mode = false)
  ∧ (
    let s : State := (inMode base)
    let g : GReg := 0
    let ring := ringOf (begun s) (hereCore s / 8 * 64 + (coreOf (begun s) (hereCore s)).ringsel.toNat)
    let masks : List (Nat × Nat) := [(0x01, 0xFFFFFFFF), (0x02, 0x3FFFF), (0x03, 0x3FFFF), (0x04, 0xC0FFFFFF), (0x05, 2 ^ 64 - 1), (0x08, 2 ^ 64 - 1), (0x09, 2 ^ 64 - 1), (0x0A, 2 ^ 64 - 1), (0x0B, 2 ^ 64 - 1),
      (0x10, 0xFFFFFFFF), (0x11, 0xFF), (0x12, 0x1F), (0x13, 7), (0x130, 0x7FF), (0x140, 0x3F), (0x150, 0x00FEFFFE), (0x151, 2 ^ 64 - 1), (0x152, 2 ^ 64 - 1)]
    let other (n : Nat) : Bool := decide (0x20 ≤ n ∧ n ≤ 0x23) || n == 0x30 || decide (0x100 ≤ n ∧ n ≤ 0x11A) || decide (0x120 ≤ n ∧ n ≤ 0x123) || n == 0x153 || n == 0x154
      || decide (0x160 ≤ n ∧ n ≤ 0x163) || decide (0x170 ≤ n ∧ n ≤ 0x172) || decide (0x180 ≤ n ∧ n ≤ 0x183)
    quiet s = true
    ∧ readG (actor s) g = true
    ∧ (actor s).mode = true
    ∧ ((0x13#16).toNat, 7) ∈ masks ∧ (0x152, 2 ^ 64 - 1) ∈ masks
    ∧ ((0x142#16).toNat, 0x000FFFFFFFFFFFFF) ∈ [(0x142, 0x000FFFFFFFFFFFFF), (0x143, 2 ^ 64 - 1)]
    ∧ ring.cfg.getLsbD 63 = false
    ∧ other (0x20#16).toNat = true ∧ other (0x11A#16).toNat = true ∧ other (0x183#16).toNat = true)
  ∧ (
    let s : State := (setTensor (inMode base) 0 {aTensor 5 0x10000 0x20000 with pin := 3})
    let g : GReg := 0
    let ss : SReg := 3
    let t : Tensor := {aTensor 5 0x10000 0x20000 with pin := 3}
    let v := readS (actor s) ss
    let c := hereCore s
    let k := coreOf (begun s) c
    let part := partOfCore (begun s) c
    quiet s = true
    ∧ readG (actor s) g = true
    ∧ (actor s).mode = true
    ∧ (actor s).storeFail = none
    ∧ k.queue.any (fun q => q.opc = 1) = false
    ∧ k.mcall = none
    ∧ tensorOf (begun s) part (v.toNat % 2 ^ 20) = some t
    ∧ updating (begun s) (actor s).uid = false
    ∧ pinCount (begun s) part t < 65535
    ∧ pinCount (begun s) part t ≠ 0)
  ∧ (
    let s : State := base
    let g : GReg := 0
    let r : SReg := 3
    let n : BitVec 16 := 0x10
    let m : BitVec 16 := 0x131
    let i : Instr := (.eret 0)
    let opc : Nat := 0x5C
    quiet s = true
    ∧ readG (actor s) g = true
    ∧ (actor s).mode = false
    ∧ hasHandler (begun s) (selCtx s) = true
    ∧ n ≠ 0
    ∧ m.toNat ∈ [0x03, 0x08, 0x09, 0x0A, 0x0B, 0x130, 0x131, 0x140, 0x141, 0x142, 0x143, 0x164, 0x165]
    ∧ (i, opc) ∈ [(Instr.eret g, 0x5C), (Instr.idle g, 0x62), (Instr.syswr g r n, 0x5E), (Instr.mpdataWrite g r, 0x5E), (Instr.ringcfgWrite g r, 0x5E), (Instr.wpinWrite g r, 0x5E),
      (Instr.wunpinWrite g r, 0x5E), (Instr.sysrd g r m, 0x5D)]) :=
  ⟨by decide +kernel, by decide +kernel, by decide +kernel, by decide +kernel, by decide +kernel⟩

theorem wit_IdleHintsAndEnd :
  (
    let s : State := (inMode base)
    let g : GReg := 0
    quiet s = true
    ∧ readG (actor s) g = true
    ∧ (actor s).mode = true)
  ∧ (
    let s : State := base
    let g : GReg := 0
    let n : BitVec 6 := 0
    let e : Nat × Nat × Nat := (3, 0, 16)
    let known := segmentKnown (coreOf (begun s) (hereCore s)) (ktabOf (begun s) (selCtx s)) n.toNat
    quiet s = true
    ∧ readG (actor s) g = true
    ∧ known = false
    ∧ segEntry (begun s) (partOfCore (begun s) (hereCore s)) (ktabOf (begun s) (selCtx s)) n.toNat = .ok e)
  ∧ (
    let s : State := (modCore base 0 (fun k => {k with frames := [(0, ⟨2, 0, [0], 1⟩)]}))
    let g : GReg := 0
    let n : BitVec 6 := 0
    let known := segmentKnown (coreOf (begun s) (hereCore s)) (ktabOf (begun s) (selCtx s)) n.toNat
    quiet s = true
    ∧ readG (actor s) g = true
    ∧ known = true)
  ∧ (
    let s : State := { base with colls := [⟨1, 5, [{ placedCall.op with uid := 8 }], false, none, none, false⟩] }
    let g : GReg := 0
    let o : Operator := aOperator
    quiet s = true
    ∧ readG (actor s) g = true
    ∧ (actor s).storeFail = none
    ∧ (actor s).task.jv = false
    ∧ (∀ e ∈ (actor s).k, e.2.st ≠ .pend ∧ e.2.st ≠ .fault)
    ∧ releaseReady (begun s) (actor s).uid 4 (begun s).fresh = true
    ∧ spawning (begun s) (actor s).uid = false
    ∧ (∀ i, i ∈ (begun s).colls → ∀ o, o ∈ i.ops → o.uid ≠ (actor s).uid)
    ∧ opOf (begun s) (actor s).op = some o
    ∧ o.phase = .running) :=
  ⟨by decide +kernel, by decide +kernel, by decide +kernel, by decide +kernel⟩

theorem wit_SpawnAndTokens :
  (
    let s : State := c3Spw
    let u : State := c3Spu
    let g : GReg := 0
    let h : HReg := 2
    let sa : SReg := 4
    let imm : BitVec 7 := 0
    let off := operandAt s sa imm.toNat 32
    quiet s = true
    ∧ readG (actor s) g = true
    ∧ (actor s).storeFail = none
    ∧ h ≠ 0
    ∧ Reaches s u 0 h.toNat 1 32 0x25 false [(off, 32)]
    ∧ (actor s).spawned = none)
  ∧ (
    let s : State := c3Spl
    let g : GReg := 0
    let sa : SReg := 4
    let imm : BitVec 7 := 0
    let o : Operator := aOperator
    let k : TaskRec := c3Spk
    let off := operandAt s sa imm.toNat 32
    quiet s = true
    ∧ readG (actor s) g = true
    ∧ (actor s).storeFail = none
    ∧ localFits s off 32 32 = true
    ∧ localClean s off 32 = true
    ∧ opOf (begun s) (actor s).op = some o
    ∧ o.live < 2 ^ 32 - 1
    ∧ parseTask (localBytes (begun s) (selCtx s) off 32) = (k, none))
  ∧ (
    let s : State := (withCtx 0 (fun c => { c with spawned := some (0, 0x10040, c3Spd) }) c3Spw)
    let g : GReg := 0
    let h : HReg := 2
    let sa : SReg := 4
    let imm : BitVec 7 := 0
    let o : Operator := aOperator
    let k : TaskRec := c3Spk
    let off := operandAt s sa imm.toNat 32
    quiet s = true
    ∧ readG (actor s) g = true
    ∧ (actor s).storeFail = none
    ∧ h ≠ 0
    ∧ checkOperand (begun s) (selCtx s) 0 h.toNat false 32 0x25 [(off, 32)] = none
    ∧ (actor s).spawned = some (0, 0x10040, c3Spd)
    ∧ opOf (begun s) (actor s).op = some o
    ∧ o.live < 2 ^ 32 - 1
    ∧ parseTask c3Spd = (k, none))
  ∧ (
    let s : State := base
    let g : GReg := 0
    let k : KReg := 4
    let t := readK (actor s) k.toNat
    quiet s = true
    ∧ readG (actor s) g = true
    ∧ (t.st = .free ∨ t.st = .done)
    ∧ t.st ≠ .pend)
  ∧ (
    let s : State := (withCtx 0 (fun c => {c with k := [(4, ⟨.pend, ⟨0,0,0,.unbound,0,0,0⟩, 3⟩)]}) base)
    let g : GReg := 0
    let k : KReg := 4
    let t := readK (actor s) k.toNat
    quiet s = true
    ∧ readG (actor s) g = true
    ∧ t.st = .pend)
  ∧ (
    let s : State := (withCtx 0 (fun c => {c with k := [(4, ⟨.fault, ⟨0x40,5,2,.tensor,5,64,0⟩, 3⟩)]}) base)
    let g : GReg := 0
    let k : KReg := 4
    let t := readK (actor s) k.toNat
    quiet s = true
    ∧ readG (actor s) g = true
    ∧ t.st = .fault
    ∧ (actor s).storeFail = none
    ∧ (actor s).mode = false
    ∧ hasHandler (begun s) (selCtx s) = true) := by
  and_intros <;> (try dsimp only [Reaches]) <;> decide +kernel

theorem wit_VectorAccesses :
  (
    let s : State := c4Vbl
    let g : GReg := 0
    let sa : SReg := 4
    let mode : BitVec 3 := 0
    let imm : BitVec 11 := 0
    let block := blockElems (actor s) sa imm.toNat mode
    let strided := strideElems (actor s) sa imm.toNat mode
    quiet s = true
    ∧ readG (actor s) g = true
    ∧ mode.toNat < 4
    ∧ vectorFits s block 32 = true
    ∧ vectorClean s block = true
    ∧ mode.toNat < 3
    ∧ vectorFits s strided (strideBytes mode) = true
    ∧ vectorClean s strided = true)
  ∧ (
    let s : State := c4Vbl
    let g : GReg := 0
    let sa : SReg := 4
    let mode : BitVec 3 := 4
    let imm : BitVec 11 := 0
    let block := blockElems (actor s) sa imm.toNat mode
    quiet s = true
    ∧ readG (actor s) g = true
    ∧ mode = 4
    ∧ vectorFits s block 4 = true
    ∧ vectorClean s block = true)
  ∧ (
    let s : State := c4Vbl
    let g : GReg := 0
    let sa : SReg := 4
    let mode : BitVec 3 := 0
    let imm : BitVec 11 := 0
    let block := blockElems (actor s) sa imm.toNat mode
    let strided := strideElems (actor s) sa imm.toNat mode
    quiet s = true
    ∧ readG (actor s) g = true
    ∧ mode.toNat < 4
    ∧ vectorFits s block 32 = true
    ∧ mode.toNat < 3
    ∧ vectorFits s strided (strideBytes mode) = true)
  ∧ (
    let s : State := c4Vbl
    let u : State := (c4Pu c4Vbl 2 1 (blockElems (actor c4Vbl) 4 0 0))
    let g : GReg := 0
    let sa : SReg := 4
    let h : HReg := 2
    let mode : BitVec 3 := 0
    let imm : BitVec 11 := 0
    let imm15 : BitVec 15 := 3
    let block := blockElems (actor s) sa imm.toNat mode
    let strided := strideElems (actor s) sa imm.toNat mode
    let off := operandAt s sa imm15.toNat 4
    quiet s = true
    ∧ readG (actor s) g = true
    ∧ h ≠ 0
    ∧ mode.toNat ≤ 4
    ∧ Reaches s u 1 h.toNat 1 (blockAlign mode) 0x25 false block
    ∧ Reaches s u 1 h.toNat 1 (blockAlign mode) 0x25 true block
    ∧ mode.toNat < 4
    ∧ Reaches s u 1 h.toNat 2 32 0x25 false block
    ∧ mode.toNat < 3
    ∧ Reaches s u 1 h.toNat 1 (strideBytes mode) 0x25 false strided
    ∧ Reaches s u 1 h.toNat 2 (strideBytes mode) 0x25 false strided
    ∧ Reaches s u 1 h.toNat 1 4 0x25 true [(off, 4)]) := by
  refine ⟨?_, ?_, ?_, ?_⟩
  · decide +kernel
  · decide +kernel
  · decide +kernel
  · dsimp only [runsKernel, Reaches, sramFits]; decide +kernel

theorem wit_AcquireReleaseAndAtomics :
  (
    let s : State := c4Vbl
    let u : State := (c4Pu c4Vbl 2 2 [(64,8)])
    let g : GReg := 0
    let sa : SReg := 4
    let h : HReg := 2
    let size : BitVec 2 := 3
    let scope : BitVec 3 := 7
    let n := 2 ^ size.toNat
    let off := operandAt s sa 0 0
    let sc := if scope.toNat = 7 then 6 else scope.toNat
    quiet s = true
    ∧ readG (actor s) g = true
    ∧ (actor s).storeFail = none
    ∧ localFits s off n n = true
    ∧ localClean s off n = true
    ∧ h ≠ 0
    ∧ Reaches s u 1 h.toNat 1 n 0x25 false [(off, n)]
    ∧ releaseReady (begun s) (actor s).uid sc (begun s).fresh = true
    ∧ Reaches s u 1 h.toNat 2 n 0x25 false [(off, n)])
  ∧ (
    let s : State := c4Vbl
    let g : GReg := 0
    let sa : SReg := 4
    let fn : BitVec 4 := 0
    let scope : BitVec 3 := 4
    let off := operandAt s sa 0 0
    let sc := if scope.toNat = 7 then 6 else scope.toNat
    let fits (n : Nat) : Prop := localFits s off n n = true ∧ localClean s off n = true ∧ (sc ≠ 0 → releaseReady (begun s) (actor s).uid sc (begun s).fresh = true)
    quiet s = true
    ∧ readG (actor s) g = true
    ∧ (actor s).storeFail = none
    ∧ fn.toNat ≤ 8
    ∧ fits 8
    ∧ fits 4)
  ∧ (
    let s : State := c4Vbl
    let u : State := (c4Pu c4Vbl 2 3 [(64,8)])
    let g : GReg := 0
    let sa : SReg := 4
    let h : HReg := 2
    let fn : BitVec 4 := 3
    let off := operandAt s sa 0 0
    let reaches (n : Nat) : Prop := Reaches s u 1 h.toNat 3 n 0x26 false [(off, n)]
    quiet s = true
    ∧ readG (actor s) g = true
    ∧ (actor s).storeFail = none
    ∧ h ≠ 0
    ∧ fn.toNat ≤ 8
    ∧ reaches 8
    ∧ reaches 4) := by
  refine ⟨?_, ?_, ?_⟩
  · dsimp only [runsKernel, Reaches, sramFits]; decide +kernel
  · decide +kernel
  · dsimp only [runsKernel, Reaches, sramFits]; decide +kernel

theorem wit_FencesHandlesAndParameters :
  (
    let s : State := c4Vbl
    let g : GReg := 0
    let scope : BitVec 3 := 0
    let sc := if scope.toNat = 7 then 6 else scope.toNat
    quiet s = true
    ∧ readG (actor s) g = true
    ∧ (actor s).storeFail = none
    ∧ loadsDone (begun s) (actor s).uid (begun s).fresh = true
    ∧ acquiring (begun s) (actor s).uid = false
    ∧ sc = 0
    ∧ drained (begun s) (actor s).uid sc (begun s).fresh = true)
  ∧ (
    let s : State := c4Vbl
    let g : GReg := 0
    let scope : BitVec 3 := 7
    let sc := if scope.toNat = 7 then 6 else scope.toNat
    let part := partOfCore (begun s) (hereCore s)
    quiet s = true
    ∧ readG (actor s) g = true
    ∧ (actor s).storeFail = none
    ∧ sc ≠ 0
    ∧ releaseReady (begun s) (actor s).uid sc (begun s).fresh = true
    ∧ (sc = 6 → doorsQuiet (begun s) part (actor s).uid = true))
  ∧ (
    let s : State := (withCtx 0 (fun c => {c with s := tset c.s 4 99}) c4Vbl)
    let g : GReg := 0
    let h : HReg := 3
    let sa : SReg := 4
    quiet s = true
    ∧ readG (actor s) g = true
    ∧ (actor s).storeFail = none
    ∧ bindTarget (begun s) (partOfCore (begun s) (hereCore s)) h.toNat (readS (actor s) sa) = .error (idTrap 0x58 99)
    ∧ (readH (actor s) h.toNat).kind ≠ .tensor)
  ∧ (
    let s : State := (withCtx 0 (fun c => {c with s := tset c.s 4 5}) c4Vbl)
    let g : GReg := 0
    let h : HReg := 2
    let sa : SReg := 4
    let hk : Handle := ⟨.tensor, 5, 0, 0, 0⟩
    let c := actor s
    let part := partOfCore (begun s) (hereCore s)
    let bound := readH c h.toNat
    quiet s = true
    ∧ readG (actor s) g = true
    ∧ c.storeFail = none
    ∧ bindTarget (begun s) part h.toNat (readS c sa) = .ok hk
    ∧ bindRefers (begun s) part hk = false
    ∧ checkAccesses (begun s) (selCtx s) [] = (begun s, .ok)
    ∧ bound.kind = .tensor
    ∧ recordAccess c h.toNat = []) := by
  and_intros <;> decide +kernel

theorem wit_RingBarrierAndSplit :
  (
    let s : State := c4RingS
    let g : GReg := 0
    let ring : BitVec 6 := 5
    let th : BitVec 18 := 5
    let i := hereCore s / 8 * 64 + ring.toNat
    let r := ringOf (begun s) i
    quiet s = true
    ∧ readG (actor s) g = true
    ∧ (actor s).storeFail = none
    ∧ r.cfg.getLsbD 63 = true
    ∧ th.toNat ≤ (r.write - r.read).toNat)
  ∧ (
    let s : State := c4RingS
    let g : GReg := 0
    let ring : BitVec 6 := 5
    let th : BitVec 18 := 6
    let i := hereCore s / 8 * 64 + ring.toNat
    let r := ringOf (begun s) i
    quiet s = true
    ∧ readG (actor s) g = true
    ∧ (actor s).storeFail = none
    ∧ r.cfg.getLsbD 63 = true
    ∧ (r.write - r.read).toNat < th.toNat)
  ∧ (
    let s : State := c4Grp
    let g : GReg := 0
    let gs : BitVec 2 := 0
    let sa : SReg := 3
    let n : Nat := 1
    let x := groupOf (begun s) n
    let sc := groupScope x
    let target := (readS (actor s) sa).toNat % 65536
    let there : Bool := decide ((x.gen - BitVec.ofNat 16 target).toNat < 2 ^ 15)
    quiet s = true
    ∧ readG (actor s) g = true
    ∧ (actor s).storeFail = none
    ∧ barrierGroup (begun s) (selCtx s) gs = .ok n
    ∧ x.arrived.getLsbD (hereCore s) = false
    ∧ releaseReady (begun s) (actor s).uid sc (begun s).fresh = true
    ∧ there = true)
  ∧ (
    let s : State := c4Grp
    let g : GReg := 0
    let gs : BitVec 2 := 0
    let sa : SReg := 4
    let n : Nat := 1
    let x := groupOf (begun s) n
    let target := (readS (actor s) sa).toNat % 65536
    let there : Bool := decide ((x.gen - BitVec.ofNat 16 target).toNat < 2 ^ 15)
    quiet s = true
    ∧ readG (actor s) g = true
    ∧ (actor s).storeFail = none
    ∧ barrierGroup (begun s) (selCtx s) gs = .ok n
    ∧ there = false)
  ∧ (
    let s : State := c4Grp
    let g : GReg := 0
    let code : BitVec 3 := 2
    let cluster := hereCore s / 8
    let idle := (begun s).splits.any (fun r => r.cluster = cluster) = false
    quiet s = true
    ∧ readG (actor s) g = true
    ∧ (actor s).splitDone = false
    ∧ code.toNat = splitOf (begun s) cluster
    ∧ idle)
  ∧ (
    let s : State := c4Grp
    let g : GReg := 0
    let code : BitVec 3 := 3
    let cluster := hereCore s / 8
    let idle := (begun s).splits.any (fun r => r.cluster = cluster) = false
    quiet s = true
    ∧ readG (actor s) g = true
    ∧ (actor s).splitDone = false
    ∧ ¬(code.toNat = splitOf (begun s) cluster ∧ idle))
  ∧ (
    let s : State := (withCtx 0 (fun c => {c with splitDone := true}) c4Grp)
    let g : GReg := 0
    quiet s = true
    ∧ readG (actor s) g = true
    ∧ (actor s).splitDone = true) := by
  refine ⟨?_, ?_, ?_, ?_, ?_, ?_, ?_⟩ <;> decide +kernel

theorem wit_VectorArithmetic :
  (
    let s : State := c5V
    let p : PReg := 2
    let vd : VReg := 10
    let va : VReg := 1
    let vb : VReg := 2
    let sb : SReg := 5
    let ty : BitVec 3 := 2
    let i : Instr := (.vadd 2 10 1 2 2)
    let j : Instr := (.vadds 2 10 1 5 2)
    let op : VOp := .add
    quiet s = true
    ∧ p ≠ 1
    ∧ readP (actor s) p ≠ 0
    ∧ (i, j, op) ∈ [(Instr.vadd p vd va vb ty, Instr.vadds p vd va sb ty, VOp.add), (.vsub p vd va vb ty, .vsubs p vd va sb ty, .sub), (.vmul p vd va vb ty, .vmuls p vd va sb ty, .mul),
      (.vfma p vd va vb ty, .vfmas p vd va sb ty, .fma), (.vmin p vd va vb ty, .vmins p vd va sb ty, .min), (.vmax p vd va vb ty, .vmaxs p vd va sb ty, .max),
      (.vand p vd va vb ty, .vands p vd va sb ty, .and), (.vor p vd va vb ty, .vors p vd va sb ty, .or), (.vxor p vd va vb ty, .vxors p vd va sb ty, .xor),
      (.vshl p vd va vb ty, .vshls p vd va sb ty, .shl), (.vshr p vd va vb ty, .vshrs p vd va sb ty, .shr), (.vsra p vd va vb ty, .vsras p vd va sb ty, .sra),
      (.vmulh p vd va vb ty, .vmulhs p vd va sb ty, .mulh)]) := by decide +kernel

theorem wit_VectorIntegersAndSums :
  (
    let w : Nat := 8
    let a : Nat := 128
    let b : Nat := 255
    let d : Nat := 3
    (w = 8 ∨ w = 16 ∨ w = 32)
    ∧ a < 2 ^ w
    ∧ b < 2 ^ w
    ∧ d < 2 ^ w)
  ∧ (
    let w : Nat := 16
    let j : Nat := 1
    let l : Nat := 77
    (w = 8 ∨ w = 16 ∨ w = 32)
    ∧ j < 32 / w
    ∧ l < 128) :=
  ⟨by decide +kernel, by decide +kernel⟩

theorem wit_VectorMovesAndFunctions :
  (
    let s : State := c5V
    let p : PReg := 2
    let c := actor s
    quiet s = true
    ∧ p ≠ 1
    ∧ readP c p ≠ 0)
  ∧ (
    let s : State := c5V
    let p : PReg := 2
    let vd : VReg := 10
    let va : VReg := 1
    let ty : BitVec 3 := 2
    let fmt : BitVec 4 := 6
    let i : Instr := (.vexp2 2 10 1 2)
    let fn : TFn := .exp2
    quiet s = true
    ∧ p ≠ 1
    ∧ readP (actor s) p ≠ 0
    ∧ fmt.toNat ≤ 14
    ∧ (i, fn) ∈ [(Instr.vexp2 p vd va ty, TFn.exp2), (.vlog2 p vd va ty, .log2), (.vrcp p vd va ty, .rcp), (.vrsq p vd va ty, .rsq), (.vtanh p vd va ty, .tanh)]) :=
  ⟨by decide +kernel, by decide +kernel⟩

theorem wit_PredicatesAndNoLane :
  (
    let s : State := c5V
    let p : PReg := 2
    let pd : PReg := 9
    let pa : PReg := 2
    let pb : PReg := 5
    let i : Instr := (.pand 2 9 2 5)
    let v : PWord := (readP (actor c5V) 2 &&& readP (actor c5V) 5)
    let c := actor s
    quiet s = true
    ∧ p ≠ 1
    ∧ readP (actor s) p ≠ 0
    ∧ (i, v) ∈ [(Instr.pand p pd pa pb, readP c pa &&& readP c pb), (.por p pd pa pb, readP c pa ||| readP c pb), (.pxor p pd pa pb, readP c pa ^^^ readP c pb),
        (.pnot p pd pa, ~~~(readP c pa)), (.pmov p pd pa, readP c pa)])
  ∧ (
    let s : State := c5V
    let p : PReg := 3
    let pd : PReg := 2
    let pa : PReg := 5
    let pb : PReg := 9
    let vd : VReg := 10
    let va : VReg := 1
    let vb : VReg := 2
    let sb : SReg := 5
    let sd : SReg := 3
    let pair : BitVec 3 := 3
    let cc : BitVec 3 := 2
    let ty : BitVec 3 := 1
    let fn : BitVec 3 := 0
    let rm : BitVec 3 := 2
    let ln : BitVec 7 := 7
    let fmt : BitVec 4 := 6
    let imm : BitVec 14 := 100
    let dst : BitVec 5 := 4
    let up : Bool := true
    let sat : Bool := false
    let i : Instr := (.vred 3 true 4 1 0 1)
    quiet s = true
    ∧ readP (actor s) p = 0
    ∧ i ∈ [Instr.vadd p vd va vb ty, .vsub p vd va vb ty, .vmul p vd va vb ty, .vfma p vd va vb ty, .vmin p vd va vb ty, .vmax p vd va vb ty, .vand p vd va vb ty, .vor p vd va vb ty, .vxor p vd va vb ty,
        .vshl p vd va vb ty, .vshr p vd va vb ty, .vsra p vd va vb ty, .vmulh p vd va vb ty, .vadds p vd va sb ty, .vsubs p vd va sb ty, .vmuls p vd va sb ty, .vfmas p vd va sb ty, .vmins p vd va sb ty,
        .vmaxs p vd va sb ty, .vands p vd va sb ty, .vors p vd va sb ty, .vxors p vd va sb ty, .vshls p vd va sb ty, .vshrs p vd va sb ty, .vsras p vd va sb ty, .vmulhs p vd va sb ty,
        .vabs p vd va ty, .vneg p vd va ty, .vclamp p vd va vb ty, .vmov p vd va ty, .vbcast p vd sb ty, .vidx p vd imm ty, .vperm p vd va vb ty, .vrot p vd va sb ty, .vcmp p pair cc va vb ty,
        .vcmps p pair cc va sb ty, .vcvt p vd va fmt up sat ty, .vpack p vd va vb ty, .vunpk p vd va up ty, .vrnd p vd va rm ty, .vscac p vd va vb ty, .vexp2 p vd va ty, .vlog2 p vd va ty, .vrcp p vd va ty,
        .vrsq p vd va ty, .vtanh p vd va ty, .vred p up dst va fn ty, .vscan p vd va fn ty, .pand p pd pa pb, .por p pd pa pb, .pxor p pd pa pb, .pnot p pd pa, .pmov p pd pa, .pcnt p sd pa, .vget p sd va ln, .vset p vd ln sb])
  ∧ (
    let s : State := c5V
    let vd : VReg := 10
    let va : VReg := 1
    let vb : VReg := 2
    let sb : SReg := 5
    let ty : BitVec 3 := 1
    let part : BitVec 6 := 3
    let i : Instr := (.vtopk 1 10 1 2 1)
    quiet s = true
    ∧ i ∈ [Instr.vsel 1 vd va vb ty, .vtopk 1 vd va vb ty, .vmaxi 1 vd va vb ty, .pcommit 1 vd part sb ty]) :=
  ⟨by decide +kernel, by decide +kernel, by decide +kernel⟩

theorem wit_ReductionsAndLaneMoves :
  (
    let s : State := c5V
    let p : PReg := 2
    let ln : BitVec 7 := 0
    let c := actor s
    let on := (readP c p).getLsbD ln.toNat
    quiet s = true
    ∧ p ≠ 1
    ∧ readP (actor s) p ≠ 0
    ∧ on = true)
  ∧ (
    let s : State := c5V
    let p : PReg := 2
    let ln : BitVec 7 := 1
    let c := actor s
    let on := (readP c p).getLsbD ln.toNat
    quiet s = true
    ∧ p ≠ 1
    ∧ readP (actor s) p ≠ 0
    ∧ on = false) :=
  ⟨by decide +kernel, by decide +kernel⟩

theorem wit_RankingAndCommit :
  (
    let s : State := c5V
    let p : PReg := 2
    let sb : SReg := 3
    let c := actor s
    let k := coreOf (begun s) (hereCore s)
    let xfer := (readS c sb).toNat % 2 ^ 16
    quiet s = true
    ∧ p ≠ 1
    ∧ landedEntry k.pool c.uid xfer = none
    ∧ transferDue k c.uid xfer = false)
  ∧ (
    let s : State := c5P
    let p : PReg := 0
    let part : BitVec 6 := 0
    let sb : SReg := 3
    let e : PoolEntry := c5Pe
    let n : Nat := 0
    let c := actor s
    let k := coreOf (begun s) (hereCore s)
    let xfer := (readS c sb).toNat % 2 ^ 16
    let cell (l : Nat) : Nat := l * 64 + part.toNat
    quiet s = true
    ∧ p ≠ 1
    ∧ landedEntry k.pool c.uid xfer = some (n, e)
    ∧ (lanesOn s p).any (fun l => e.bad.contains (cell l / 8)) = false)
  ∧ (
    let s : State := c5Pb
    let p : PReg := 2
    let part : BitVec 6 := 1
    let sb : SReg := 3
    let e : PoolEntry := c5Peb
    let n : Nat := 0
    let c := actor s
    let k := coreOf (begun s) (hereCore s)
    let xfer := (readS c sb).toNat % 2 ^ 16
    let cell (l : Nat) : Nat := l * 64 + part.toNat
    quiet s = true
    ∧ p ≠ 1
    ∧ landedEntry k.pool c.uid xfer = some (n, e)
    ∧ (lanesOn s p).any (fun l => e.bad.contains (cell l / 8)) = true) :=
  ⟨by decide +kernel, by decide +kernel, by decide +kernel⟩

theorem wit_EngineIssue :
  (
    let s : State := c6Eb
    let g : GReg := 0
    let kd : KReg := 1
    let ka : KReg := 4
    let kb : KReg := 0
    let kc : KReg := 0
    let r : BitVec 7 := 5
    let tile : BitVec 2 := 1
    let x : BitVec 4 := 2
    let n : BitVec 8 := 3
    let i : Instr := (.mcall 0 1 4 0 0 5)
    let opc : Nat := 1
    let v : Nat := 5
    let join := opc == 3
    quiet s = true
    ∧ readG (actor s) g = true
    ∧ (readK (actor s) kd.toNat).st ≠ .pend
    ∧ (i, opc, v) ∈ [(Instr.mcall g kd ka kb kc r, 0x01, r.toNat), (.mzero g kd ka kb kc tile, 0x02, tile.toNat), (.kjoin g kd ka kb kc, 0x03, 0),
      (.xcopy g kd ka kb kc x, 0x04, x.toNat), (.xload g kd ka kb kc x, 0x05, x.toNat), (.xstore g kd ka kb kc x, 0x06, x.toNat), (.xgather g kd ka kb kc x, 0x07, x.toNat),
      (.xscatter g kd ka kb kc x, 0x08, x.toNat), (.xfill g kd ka kb kc x, 0x09, x.toNat), (.tstream g kd ka kb kc x, 0x0D, x.toNat),
      (.nmcall g kd ka kb kc n, 0x0F, n.toNat), (.nmred g kd ka kb kc, 0x10, 0), (.nmired g kd ka kb kc, 0x11, 0)]
    ∧ (join = true ∨ (coreOf (begun s) (hereCore s)).queue.length < 32))
  ∧ (
    let s : State := c6Eb
    let g : GReg := 0
    let kd : KReg := 6
    let ka : KReg := 5
    let kb : KReg := 6
    let kc : KReg := 0
    let r : BitVec 7 := 5
    let tile : BitVec 2 := 1
    let x : BitVec 4 := 2
    let n : BitVec 8 := 3
    let i : Instr := (.nmred 0 6 5 6 0)
    quiet s = true
    ∧ readG (actor s) g = true
    ∧ (actor s).storeFail = none
    ∧ i ∈ [Instr.mcall g kd ka kb kc r, .mzero g kd ka kb kc tile, .xcopy g kd ka kb kc x, .xload g kd ka kb kc x, .xstore g kd ka kb kc x, .xgather g kd ka kb kc x,
      .xscatter g kd ka kb kc x, .xfill g kd ka kb kc x, .tstream g kd ka kb kc x, .nmcall g kd ka kb kc n, .nmred g kd ka kb kc, .nmired g kd ka kb kc]
    ∧ (readK (actor s) kd.toNat).st = .pend)
  ∧ (
    let s : State := c6Efull
    let g : GReg := 0
    let kd : KReg := 2
    let ka : KReg := 6
    let kb : KReg := 6
    let kc : KReg := 0
    let r : BitVec 7 := 5
    let tile : BitVec 2 := 1
    let x : BitVec 4 := 2
    let n : BitVec 8 := 3
    let i : Instr := (.nmred 0 2 6 6 0)
    quiet s = true
    ∧ readG (actor s) g = true
    ∧ (actor s).storeFail = none
    ∧ i ∈ [Instr.mcall g kd ka kb kc r, .mzero g kd ka kb kc tile, .xcopy g kd ka kb kc x, .xload g kd ka kb kc x, .xstore g kd ka kb kc x, .xgather g kd ka kb kc x,
      .xscatter g kd ka kb kc x, .xfill g kd ka kb kc x, .tstream g kd ka kb kc x, .nmcall g kd ka kb kc n, .nmred g kd ka kb kc, .nmired g kd ka kb kc]
    ∧ (readK (actor s) kd.toNat).st ≠ .pend
    ∧ 32 ≤ (coreOf (begun s) (hereCore s)).queue.length)
  ∧ (
    let s : State := c6Grp
    let g : GReg := 0
    let kd : KReg := 2
    let ka : KReg := 4
    let kb : KReg := 0
    let kc : KReg := 0
    let op : BitVec 2 := 1
    let gs : BitVec 2 := 0
    let n : Nat := 1
    let u := begun s
    let o := captureOp u (selCtx s) 0x0E (op.toNat * 4 + gs.toNat) kd ka kb kc
    let count := tget 0 (groupOf u n).issued (hereCore s)
    let t := queued u (selCtx s) { o with groups := collPlace u n (hereCore s) } false
    quiet s = true
    ∧ readG (actor s) g = true
    ∧ (readK (actor s) kd.toNat).st ≠ .pend
    ∧ (coreOf (begun s) (hereCore s)).queue.length < 32
    ∧ barrierGroup (begun s) (selCtx s) gs = .ok n
    ∧ settle1 t = none
    ∧ u.colls.find? (fun i => i.group = n && i.number = count) = none) :=
  ⟨by decide +kernel, by decide +kernel, by decide +kernel, by decide +kernel⟩

theorem wit_Transforms :
  (
    let s : State := c6Tx
    let g : GReg := 0
    let v : BitVec 5 := 2
    let c := actor s
    let e := txposeSize v
    let n := 32 / e
    let at' (m i : Nat) : Nat := wordOff (readM c m) + i * wordStride (readM c m)
    let fits (m : Nat) : Prop := bitsOf (readM c m).toNat 32 8 = 0 ∧ wordOff (readM c m) % 32 = 0 ∧ wordStride (readM c m) % 32 = 0 ∧ ∀ i, i < n → at' m i + 32 ≤ shareOf (begun s) (hereCore s)
    quiet s = true
    ∧ readG (actor s) g = true
    ∧ v.toNat ≤ 2
    ∧ fits 1
    ∧ fits 2
    ∧ acquiring (begun s) c.uid = false
    ∧ (∀ i, i < n → localClean s (at' 1 i) 32 = true))
  ∧ (
    let s : State := (c6Tc 0x0D06)
    let g : GReg := 0
    let x : BitVec 5 := 7
    let c := actor s
    let wa := (nfmtOf (convFormats c).1).width
    let wb := (nfmtOf (convFormats c).2.1).width
    let a := wordOff (readM c 1)
    let b := wordOff (readM c 2)
    let share := shareOf (begun s) (hereCore s)
    quiet s = true
    ∧ readG (actor s) g = true
    ∧ x.toNat < 8
    ∧ convReserved (actor s) = false
    ∧ a + packedBytes wa 128 ≤ share
    ∧ b + packedBytes wb 128 ≤ share
    ∧ acquiring (begun s) c.uid = false
    ∧ localClean s a (packedBytes wa 128) = true)
  ∧ (
    let s : State := (c6Tc 0x0D06)
    let g : GReg := 0
    let n : BitVec 2 := 0
    let c := actor s
    let wa := (nfmtOf (convFormats c).1).width
    let wb := (nfmtOf (convFormats c).2.1).width
    let k := texpandN n
    let a := wordOff (readM c 1)
    let b := wordOff (readM c 2)
    let m := wordOff (readM c 4)
    let share := shareOf (begun s) (hereCore s)
    quiet s = true
    ∧ readG (actor s) g = true
    ∧ convReserved (actor s) = false
    ∧ bitsOf (readM (actor s) 4).toNat 32 32 = 0
    ∧ a + packedBytes wa (8 * k) ≤ share
    ∧ m + 32 ≤ share
    ∧ b + packedBytes wb 192 ≤ share
    ∧ acquiring (begun s) c.uid = false
    ∧ localClean s a (packedBytes wa (8 * k)) = true
    ∧ localClean s m 32 = true)
  ∧ (
    let s : State := withCtx 0 (fun c => { c with g := 0b1001 }) c6Tx
    quiet s = true
    ∧ readG (actor s) 4 = false
    ∧ readG (actor s) 3 = true
    ∧ (actor s).storeFail = none
    ∧ 3 ≤ (31#5).toNat ∧ 8 ≤ (8#5).toNat) :=
  ⟨by decide +kernel, by decide +kernel, by decide +kernel, by decide +kernel⟩

theorem wit_OmpenScalarResults :
  (
    let s : State := (c7Lk c7Kk)
    let k : Kernel := c7Kk
    runsKernel s k) := by dsimp only [runsKernel, Reaches, sramFits]; decide +kernel

theorem wit_OmpenControl :
  (
    let s : State := (c7Lk c7Kk)
    let k : Kernel := c7Kk
    let a : QReg := 1
    let code : BitVec 4 := 3
    runsKernel s k
    ∧ a ≠ 0
    ∧ code.toNat < 4)
  ∧ (
    let s : State := (c7Lk c7Kk)
    let k : Kernel := c7Kk
    let code : BitVec 4 := 9
    runsKernel s k
    ∧ 4 ≤ code.toNat)
  ∧ (
    let s : State := c8bKz
    let k : Kernel := c8bKk
    let i := s.sel.core
    runsKernel s k
    ∧ pendingStores s k = false
    ∧ classWaits s i k.cls true = false
    ∧ decodeOmpen (tget 0 (lakeOf s i).istore k.pc.toNat).toNat = .error .illegalOpcode)
  ∧ (
    let s : State := c8Lkp
    let k : Kernel := c8Kk
    runsKernel s k
    ∧ pendingStores s k = true)
  ∧ (
    let s : State := c8bKw
    let k : Kernel := c8bKk
    let i := s.sel.core
    runsKernel s k
    ∧ classWaits s i k.cls true = true
    ∧ pendingStores s k = false) := by
  and_intros <;> (try dsimp only [runsKernel, Reaches, ExtentReaches, sramFits]) <;> decide +kernel

theorem wit_OmpenVectorsAndSectors :
  (
    let s : State := (c7Lk c7Kk)
    let k : Kernel := c7Kk
    let d : QReg := 2
    let ty : BitVec 3 := 2
    let cc : BitVec 3 := 3
    let fn : BitVec 4 := 2
    let f : NFmt := (.ieee .f32)
    runsKernel s k
    ∧ tyOmpen ty = some f
    ∧ fn.toNat < 4
    ∧ 0 < d.toNat
    ∧ d.toNat < 4
    ∧ cc.toNat < 6
    ∧ fn.toNat < 3)
  ∧ (
    let s : State := (c7Lk c7Kk)
    let k : Kernel := c7Kk
    let ty : BitVec 3 := 7
    let d : QReg := 4
    let cc : BitVec 3 := 6
    let fn : BitVec 4 := 4
    runsKernel s k
    ∧ tyOmpen ty = none
    ∧ (d = 0 ∨ 4 ≤ d.toNat ∨ 6 ≤ cc.toNat)
    ∧ 3 ≤ fn.toNat
    ∧ 4 ≤ fn.toNat)
  ∧ (
    let s : State := (c8bLk c8bKs)
    let k : Kernel := c8bKs
    let d : QReg := 2
    let a : QReg := 4
    let b : QReg := 5
    let ty : BitVec 3 := 0
    let f : NFmt := (.int 32 true)
    let src := (readQ k a).toNat
    let dst := (readQ k d).toNat
    let apart (m n : Nat) : Prop := src + m ≤ dst ∨ dst + n ≤ src
    let n := (readQ k b).toNat % 2 ^ 32
    let m := (readQ k b).toNat / 2 ^ 32
    let block := sramBytes k src 512
    let t := parseTail (sramBytes k src 32)
    let on := (List.range 16).filter (fun j => (readQ k b).getLsbD j)
    let codes := ((encodeBlock (sramBytes c8bKs 0x10000 512)).getD (0, [])).1
    let data := ((encodeBlock (sramBytes c8bKs 0x10000 512)).getD (0, [])).2
    runsKernel s k
    ∧ k.bad = []
    ∧ tyOmpen ty = some f
    ∧ 0 < n
    ∧ n ≤ 131072
    ∧ 0 < m
    ∧ m ≤ 65536
    ∧ sramFits src (4 * n) 4 = true
    ∧ sramFits dst (4 * m) 4 = true
    ∧ apart (4 * n) (4 * m)
    ∧ encodeBlock block = some (codes, data)
    ∧ sramFits src 512 32 = true
    ∧ sramFits dst (32 + 32 * chunkCount data) 32 = true
    ∧ apart 512 (32 + 32 * chunkCount data)
    ∧ payloadStart t.codes 16 ≤ 32 * t.chunks
    ∧ t.chunks ≤ 15
    ∧ sramFits src (32 + 32 * t.chunks) 32 = true
    ∧ (∀ j, j ∈ on → sramFits (dst + 32 * j) 32 1 = true)
    ∧ apart (32 + 32 * t.chunks) 512)
  ∧ (
    let s : State := (c8Lk c8Ks2)
    let k : Kernel := c8Ks2
    let d : QReg := 2
    let a : QReg := 4
    let src := (readQ k a).toNat
    let dst := (readQ k d).toNat
    let apart (m n : Nat) : Prop := src + m ≤ dst ∨ dst + n ≤ src
    let block := sramBytes k src 512
    runsKernel s k
    ∧ k.bad = []
    ∧ encodeBlock block = none
    ∧ sramFits src 512 32 = true
    ∧ sramFits dst 512 32 = true
    ∧ apart 512 512)
  ∧ (
    let s : State := (c8Lkt c8Kb)
    let u : State := c8Xb.1
    let k : Kernel := c8Kb
    let d : QReg := 2
    let a : QReg := 4
    let b : QReg := 5
    let e : EReg := 1
    let segs : List Seg := c8Xb.2
    let src := (readQ k a).toNat
    let dst := (readQ k d).toNat
    let n := (readQ k b).toNat % 2 ^ 32
    let bf16 := (readQ k b).toNat / 2 ^ 32 = 1
    let size := if bf16 then 2 else 4
    let hd := leNat (sramBytes k src 4)
    let len := 4 + 4 * (if hd = 2 ^ 16 + 1 then 2 else 1)
    let row := leNat (sramBytes k (src + 4) 4)
    let off := ((readQ k (b + 1)).toNat + row * (readQ k (b + 2)).toNat) % 2 ^ 64
    let x := tget Extent.unbound k.e e.toNat
    runsKernel s k
    ∧ k.bad = []
    ∧ k.reads = []
    ∧ b.toNat ≤ 13
    ∧ (readQ k b).toNat / 2 ^ 32 ≤ 1
    ∧ 0 < n
    ∧ n ≤ 4096
    ∧ (hd = 1 ∨ hd = 2 ^ 16 + 1)
    ∧ sramFits src len 4 = true
    ∧ sramFits dst (4 * n) 1 = true
    ∧ (src + len ≤ dst ∨ dst + 4 * n ≤ src)
    ∧ x.valid = true
    ∧ off % size = 0
    ∧ off + n * size ≤ x.extent
    ∧ lakePlace s s.sel.core k e.toNat x.handle x.tid x.vbase off (n * size) 1 = (u, .ok segs)
    ∧ homeReadable u k segs = true) := by
  and_intros <;> (try dsimp only [runsKernel, Reaches, ExtentReaches, sramFits]) <;> first | decide +kernel | exact okPair_eq (by decide +kernel) (by decide +kernel)

theorem wit_Wellhead :
  (
    let s : State := c9Ring
    let s1 : XReg := 1
    let s2 : XReg := 0
    let die := s.sel.die
    let cp := s.sel.num
    let w := wellOf s die cp
    let a := (readX w s1).toNat
    let b := (readX w s2).toNat
    let word (o n : Nat) : Nat := leNat (wellBytes s die (a + o) n)
    s2 = 0
    ∧ a % 32 = 0
    ∧ wellHas a 32 = true
    ∧ word 8 1 ≤ 16
    ∧ 3 ≤ word 9 1
    ∧ word 9 1 ≤ 7
    ∧ word 10 6 = 0
    ∧ (word 24 8 + 2 ^ 64 - word 16 8) % 2 ^ 64 ≤ 2 ^ word 8 1
    ∧ b < 2 ^ 12
    ∧ b % 64 + b / 64 + 1 ≤ 64
    ∧ a % 8 = 0
    ∧ wellHas a 8 = true
    ∧ w.waitSince.bind SgWait.met = none
    ∧ (word 0 8 + 2 ^ 32 - b % 2 ^ 32) % 2 ^ 32 < 2 ^ 31)
  ∧ (
    let s : State := (c9Wput 0x400 (leBytes 3 8 ++ leBytes 4 8 ++ leBytes 5 8) (c9Ws [(1, 0x400), (3, 0x700000018)]))
    let s1 : XReg := 1
    let s2 : XReg := 3
    let die := s.sel.die
    let cp := s.sel.num
    let w := wellOf s die cp
    let a := (readX w s1).toNat
    let b := (readX w s2).toNat
    let word (o n : Nat) : Nat := leNat (wellBytes s die (a + o) n)
    let x := wellDie s die
    let txn := b / 2 ^ 32
    let len := b % 2 ^ 16
    a % 8 = 0
    ∧ wellHas a 8 = true
    ∧ w.waitSince.bind SgWait.met = none
    ∧ ¬(word 0 8 + 2 ^ 32 - b % 2 ^ 32) % 2 ^ 32 < 2 ^ 31
    ∧ len % 24 = 0
    ∧ 24 ≤ len
    ∧ len ≤ 4080
    ∧ txn ≠ 0
    ∧ b / 2 ^ 16 % 2 ^ 16 = 0
    ∧ logUsed x + len + 16 ≤ 2 ^ 24
    ∧ wellHas a len = true
    ∧ tfind x.openTxns txn = none)
  ∧ (
    let s : State := (c9Dx 0x100000000)
    let s1 : XReg := 1
    let s2 : XReg := 3
    let die := s.sel.die
    let cp := s.sel.num
    let w := wellOf s die cp
    let a := (readX w s1).toNat
    let b := (readX w s2).toNat
    let t := (parseTask (wellBytes (c9Dx 0x100000000) 2 0x400 32)).1
    let o := aOperator
    let q := b / 16 % 4 * 16 + b % 16
    a % 32 = 0
    ∧ b / 2 ^ 6 % 2 ^ 26 = 0
    ∧ wellHas a 32 = true
    ∧ parseTask (wellBytes s die a 32) = (t, none)
    ∧ t.joff % 64 = 0
    ∧ opOf s s.sel.idx = some o
    ∧ queueOwned (partOf s o.part) q = true
    ∧ b / 2 ^ 32 = (tget 0 s.dispatched q).toNat + 1
    ∧ queueRoom s (partOf s o.part) q = true)
  ∧ (
    let s : State := (c9Dx 0x000000000)
    let s1 : XReg := 1
    let s2 : XReg := 3
    let die := s.sel.die
    let cp := s.sel.num
    let w := wellOf s die cp
    let a := (readX w s1).toNat
    let b := (readX w s2).toNat
    let t := (parseTask (wellBytes (c9Dx 0x000000000) 2 0x400 32)).1
    let o := aOperator
    let q := b / 16 % 4 * 16 + b % 16
    a % 32 = 0
    ∧ b / 2 ^ 6 % 2 ^ 26 = 0
    ∧ wellHas a 32 = true
    ∧ parseTask (wellBytes s die a 32) = (t, none)
    ∧ t.joff % 64 = 0
    ∧ opOf s s.sel.idx = some o
    ∧ queueOwned (partOf s o.part) q = true
    ∧ b / 2 ^ 32 ≤ (tget 0 s.dispatched q).toNat)
  ∧ (
    let s : State := (setWellDie (c9Ws [(1, 7)]) 2 { WellDie.fresh with openTxns := [(7, (1, 1))], lsn := 8 })
    let s1 : XReg := 1
    let s2 : XReg := 0
    let die := s.sel.die
    let cp := s.sel.num
    let w := wellOf s die cp
    let a := (readX w s1).toNat
    let x := wellDie s die
    let ours := tfind x.openTxns (a % 2 ^ 32)
    s2 = 0
    ∧ ours.map (·.1) = some cp
    ∧ logUsed x + 16 ≤ 2 ^ 24)
  ∧ (
    let s : State := c9bSgw
    let s1 : XReg := 1
    let s2 : XReg := 3
    let die := s.sel.die
    let w := wellOf s die s.sel.num
    let a := (readX w s1).toNat
    let b := (readX w s2).toNat
    2 ^ 12 ≤ b
    ∧ a % 8 = 0
    ∧ wellHas a 8 = true
    ∧ w.waitSince.bind SgWait.met = some false
    ∧ (SgWait.mk a (b % 2 ^ 32) 4705 (some true)).met = some true)
  ∧ (
    let x : SgWait := ⟨0x400, 0x13, 4705, none⟩
    let w : Well := { Well.fresh with waitSince := some x }
    w.waitSince = some x ∧ x.met = none ∧ x.deadline ≠ 0 ∧ x.deadline ≤ 4705)
  ∧ (
    let x : Sent := .record 0 1 2 3 0x100 7 none [5]
    let s : State := { base with sel := { base.sel with lostOps := [9] } }
    let v : State := { base with sent := [x], sel := { base.sel with lostOps := [], dueRecords := [0] } }
    s.sel.lostOps = [9] ∧ opOf s 9 = some aOperator ∧ aOperator.phase ≠ .retired ∧ aOperator.fail = none
    ∧ v.sel.lostOps = [] ∧ v.sel.dueRecords = [0] ∧ nth v.sent 0 = some x ∧ replayReaches s s.sel.die = true ∧ replayReaches v v.sel.die = true)
  ∧ (
    let s : State := { c9bSgw with sel := { c9bSgw.sel with flag := true } }
    let die := s.sel.die
    let w := wellOf s die s.sel.num
    s.sel.flag = true
    ∧ w.lastSignal + 94000000 ≤ s.cycle
    ∧ replayReaches s die = true)
  ∧ (
    let s : State := (c9Ws [(1, 7), (2, 0x1FFF), (3, 0x03FF)])
    let s2 : XReg := 3
    let die := s.sel.die
    let cp := s.sel.num
    let w := wellOf s die cp
    let b := (readX w s2).toNat
    b < 2 ^ 12
    ∧ 64 < b % 64 + b / 64 + 1) := by
  and_intros <;> decide +kernel

theorem wit_EmptyNullifiedAndIllegal :
  (
    let s : State := base
    quiet s = true)
  ∧ (
    let s : State := base
    let sl : AB := .a
    let g : GReg := 2
    let sd : SReg := 3
    let sa : SReg := 4
    let sb : SReg := 5
    let h : HReg := 0
    let imm : BitVec 15 := 4
    let hint : BitVec 2 := 1
    let disp : BitVec 19 := 7
    let n : BitVec 16 := 9
    let size : BitVec 2 := 2
    let scope : BitVec 3 := 3
    let kd : KReg := 1
    let ka : KReg := 2
    let kb : KReg := 3
    let kc : KReg := 4
    let x : BitVec 4 := 5
    let i : Instr := (.add .a 2 3 4 5)
    quiet s = true
    ∧ readG (actor s) g = false
    ∧ i ∈ [Instr.add sl g sd sa sb, .div sl g sd sa sb, .ldw sl g sd h sa imm, .stw sl g sd h sa imm, .br g hint disp, .endTask g, .trap g n, .syswr g sd n, .eret g, .idle g,
      .stl g sd h sa size scope, .fence g scope, .xcopy g kd ka kb kc x, .kjoin g kd ka kb kc])
  ∧ (
    let s : State := (c9bIb c9bW1)
    let u : State := (c9bIb c9bW1)
    let w : Nat := c9bW1.toNat
    let cause : Nat := 1
    let detail : Nat := 1040384
    mayIssue (ctxOf s (selCtx s)) = true
    ∧ fetchBundle s (selCtx s) = .word u w
    ∧ decodeBundle w = .error ⟨cause, detail⟩) := by
  and_intros <;> (try dsimp only [runsKernel, Reaches, ExtentReaches, sramFits]) <;> first | decide +kernel | exact wordOf_eq (by decide +kernel) | exact errOf_eq (by decide +kernel)

theorem wit_BundleEvents :
  (
    let s : State := (withCtx 0 (fun c => {c with boundary := some (trapOf 0x0C 0), tvec := 0x300}) c9Ev)
    let id := selCtx s
    let c := ctxOf s id
    let other := ctxId s.sel.core (s.sel.ctx % 4)
    (ctxOf s other).running = false
    ∧ c.mode = false
    ∧ hasHandler s id = true
    ∧ c.boundary = some (trapOf 0x0C 0))
  ∧ (
    let s : State := (modCtx c9Ev 1 (fun c => { c with running := true, uid := 3, block := some .wake }))
    let other := ctxId s.sel.core (s.sel.ctx % 4)
    (ctxOf s other).running = true)
  ∧ (
    let s : State := (withCtx 0 (fun c => {c with boundary := some (trapOf 0x0E 0x412), tvec := 0x300}) c9Ev)
    let id := selCtx s
    let c := ctxOf s id
    c.mode = false
    ∧ hasHandler s id = true
    ∧ c.boundary = some (trapOf 0x0E 0x412)) :=
  ⟨by decide +kernel, by decide +kernel, by decide +kernel⟩

/-- A result due in the task's queue and in a handler's, bytes due for the scratchpad, and two results due of which one names another register. -/
theorem wit_ExposedLatency :
  (
    let s : State := base
    let c := ctxOf s (selCtx s)
    let due := c.wq.filter (fun e => decide (e.due ≤ c.count))
    c.mode = false ∧ due = [⟨.scalar 11 77, 4, 10⟩] ∧ (∀ e, e ∈ due → e.res ≠ .bytes 0x40 [1, 2])
    ∧ due = [] ++ [⟨.scalar (11 : SReg).toNat 77, 4, 10⟩] ∧ (11 : SReg) ≠ 0 ∧ (∀ e, e ∈ due → e.res ≠ .scalar (12 : SReg).toNat 78))
  ∧ (
    let s : State := inMode base
    let c := ctxOf s (selCtx s)
    c.mode = true ∧ c.hq.filter (fun e => decide (e.due ≤ c.hcount)) = [⟨.scalar 13 5, 1, 3⟩])
  ∧ (
    let s : State := withCtx 0 (fun c => { c with wq := [⟨.bytes 0x40 [1, 2], 4, 10⟩] }) base
    let c := ctxOf s (selCtx s)
    c.mode = false ∧ c.wq.filter (fun e => decide (e.due ≤ c.count)) = [⟨.bytes 0x40 [1, 2], 4, 10⟩])
  ∧ (
    let g : GReg := 0
    let sd : SReg := 3
    let sb : SReg := 4
    quiet base = true ∧ readG (actor base) g = true ∧ sd ≠ 0 ∧ readS (actor base) sb ≠ 0 ∧ (actor base).mode = false
    ∧ quiet (inMode base) = true ∧ readG (actor (inMode base)) g = true ∧ readS (actor (inMode base)) sb ≠ 0 ∧ (actor (inMode base)).mode = true) :=
  ⟨by decide +kernel, by decide +kernel, by decide +kernel, by decide +kernel⟩

theorem wit_MicroOps :
  (
    let s : State := (c10Ms { c10R0 with word := 1 })
    let r : McallRun := { c10R0 with word := 1 }
    let rows : Nat → List Nat := (c10GetBt c10R0 (stepSize c10R0))
    let metas : Nat → List Nat := (fun _ => [])
    let src : BitVec 2 := 2
    let set : Bool := true
    let imm : BitVec 32 := 30
    let core := s.sel.core
    let o := r.op
    let n := stepSize r
    let p := (neededK r n).1
    let m := (neededK r n).2
    let b := wordH (o.param 2)
    let stride := wordStride (o.param 2)
    let w := (nfmtOf (bfmt o)).width
    let v : W32 := if src = 0 then imm else if src = 1 then (o.param 7).extractLsb' 0 32 else (o.param 7).extractLsb' 32 32
    let ea : Int := if set then (if src = 0 then (v.toNat : Int) else v.toInt) else (r.ea : Int) + v.toInt
    (coreOf s core).mcall = some r
    ∧ r.ended = false
    ∧ 0 < n
    ∧ (∀ i, i < 128 → rowCodes s o (wordH (o.param 1)) (r.aoff.toNat + i * wordStride (o.param 1)) (nfmtOf (afmt o)).width r.ea n = .ok (rows i))
    ∧ (∀ i, i < 128 → (if spen o then metaRow s r (groupSpan r n).1 (groupSpan r n).2 i else .ok []) = .ok (metas i))
    ∧ r.word.getLsbD 0 = true
    ∧ (∀ c, c < 64 → rowCodes s o b (r.boff.toNat + c * stride) w p m = .ok (rows c))
    ∧ 0 ≤ ea
    ∧ ea ≤ r.endk
    ∧ drainsLanded s core o.uid = true)
  ∧ (
    let s : State := (c10Ms c10R0)
    let r : McallRun := c10R0
    let rows : Nat → List Nat := (c10GetB c10R0)
    let src : BitVec 2 := 1
    let set : Bool := false
    let imm : BitVec 32 := 30
    let core := s.sel.core
    let o := r.op
    let n := stepSize r
    let p := (neededK r n).1
    let m := (neededK r n).2
    let b := wordH (o.param 2)
    let stride := wordStride (o.param 2)
    let w := (nfmtOf (bfmt o)).width
    let v : W32 := if src = 0 then imm else if src = 1 then (o.param 7).extractLsb' 0 32 else (o.param 7).extractLsb' 32 32
    let ea : Int := if set then (if src = 0 then (v.toNat : Int) else v.toInt) else (r.ea : Int) + v.toInt
    (coreOf s core).mcall = some r
    ∧ r.ended = false
    ∧ 0 < n
    ∧ r.word.getLsbD 0 = false
    ∧ (∀ j, j < m → rowCodes s o b (r.boff.toNat + (p + j) * stride) w 0 64 = .ok (rows j))
    ∧ (ea < 0 ∨ (r.endk : Int) < ea))
  ∧ (
    let s : State := (c10Ms c10Q6)
    let r : McallRun := c10Q6
    let core := s.sel.core
    let k := coreOf s core
    let n := stepSize r
    let t := tget Tile.free k.tiles (accTile r.op)
    let staged : Prop := r.draining = false ∧ 0 < n ∧ r.stagedA = some r.ea ∧ r.stagedB = some r.ea ∧ r.codesA.length = 128 * n ∧ r.codesB.length = 64 * (neededK r n).2
    let drains : Prop := (r.word.getLsbD 0 = true → 0 < r.ic ∧ dint r.op ≠ 0xFFFF)
    k.mcall = some r
    ∧ r.ended = false
    ∧ staged
    ∧ t.bad = []
    ∧ r.ilen ≠ some (r.ic + n)
    ∧ drains
    ∧ k.pool.length < 4)
  ∧ (
    let s : State := (modCore (c10Ms c10Q6e) 0 (fun k => {k with pool := List.replicate 4 ⟨0, 0, [], [], 0, true, []⟩}))
    let r : McallRun := c10Q6e
    let core := s.sel.core
    let k := coreOf s core
    let n := stepSize r
    let staged : Prop := r.draining = false ∧ 0 < n ∧ r.stagedA = some r.ea ∧ r.stagedB = some r.ea ∧ r.codesA.length = 128 * n ∧ r.codesB.length = 64 * (neededK r n).2
    let drains : Prop := (r.word.getLsbD 0 = true → 0 < r.ic ∧ dint r.op ≠ 0xFFFF)
    k.mcall = some r
    ∧ r.ended = false
    ∧ staged
    ∧ (tget Tile.free k.tiles (accTile r.op)).bad = []
    ∧ r.ilen = some (r.ic + n)
    ∧ 4 ≤ k.pool.length
    ∧ drains)
  ∧ (
    let s : State := (modCore (c10Ms { c10Q6e with draining := true }) 0 (fun k => {k with pool := List.replicate 4 ⟨0, 0, [], [], 0, true, []⟩}))
    let k := coreOf s s.sel.core
    k.mcall = some { c10Q6e with draining := true }
    ∧ ({ c10Q6e with draining := true } : McallRun).ended = false
    ∧ 4 ≤ k.pool.length)
  ∧ (
    let s : State := (c10Ms { c10Q6e with draining := true })
    let k := coreOf s s.sel.core
    k.mcall = some { c10Q6e with draining := true }
    ∧ k.pool.length < 4)
  ∧ (
    let s : State := (c10Ms c10Q6d)
    let r : McallRun := c10Q6d
    let core := s.sel.core
    let k := coreOf s core
    let n := stepSize r
    let t := tget Tile.free k.tiles (accTile r.op)
    let staged : Prop := r.draining = false ∧ 0 < n ∧ r.stagedA = some r.ea ∧ r.stagedB = some r.ea ∧ r.codesA.length = 128 * n ∧ r.codesB.length = 64 * (neededK r n).2
    k.mcall = some r
    ∧ r.ended = false
    ∧ staged
    ∧ t.bad = []
    ∧ r.ilen = some (r.ic + n)
    ∧ k.pool.length < 4)
  ∧ (
    let s : State := (c10bMs c10bQ6n)
    let r : McallRun := c10bQ6n
    let core := s.sel.core
    let k := coreOf s core
    k.mcall = some r
    ∧ r.ended = false
    ∧ r.draining = false
    ∧ ¬(r.stagedA = some r.ea ∧ r.stagedB = some r.ea))
  ∧ (
    let s : State := (c10bMs c10bQ6w)
    let r : McallRun := c10bQ6w
    let core := s.sel.core
    let k := coreOf s core
    let drains : Prop := (r.word.getLsbD 0 = true → 0 < r.ic ∧ dint r.op ≠ 0xFFFF)
    k.mcall = some r
    ∧ r.ended = false
    ∧ ¬drains)
  ∧ (
    let s : State := (setTile (c10bMs c10bQ6) 0 (accTile c10bQ6.op) { tget Tile.free (coreOf (c10bMs c10bQ6) 0).tiles (accTile c10bQ6.op) with bad := [5] })
    let r : McallRun := c10bQ6
    let core := s.sel.core
    let k := coreOf s core
    let n := stepSize r
    let t := tget Tile.free k.tiles (accTile r.op)
    let staged : Prop := r.draining = false ∧ 0 < n ∧ r.stagedA = some r.ea ∧ r.stagedB = some r.ea ∧ r.codesA.length = 128 * n ∧ r.codesB.length = 64 * (neededK r n).2
    k.mcall = some r
    ∧ r.ended = false
    ∧ staged
    ∧ t.bad ≠ []) := by
  refine ⟨?_, ?_, ?_, ?_, ?_, ?_, ?_, ?_, ?_, ?_⟩ <;> decide +kernel

theorem wit_IntegerStepValues :
  (
    let r : McallRun := c10Ri
    let k : Nat := 65
    floatPair (afmt r.op) (bfmt r.op) = false
    ∧ k < 8192) := by decide +kernel

theorem wit_MatrixArrayRows :
  (
    let s : State := (c10Qs c10Oq)
    let o : EngineOp := c10Oq
    let i : Nat := 1
    let e : PoolEntry := c10E1
    let core := s.sel.core
    let k := coreOf s core
    let u := unqueue s o
    k.mcall = none
    ∧ nextQueued s core (mayStart s) = some o
    ∧ k.resumed = []
    ∧ unitOffline s core o.opc = false
    ∧ o.opc = 1
    ∧ mcallCheck u o = none
    ∧ xvRepresentable (xvOf u o (afmt o) 1) = true
    ∧ xvRepresentable (xvOf u o (bfmt o) 2) = true
    ∧ k.pool[i]? = some e
    ∧ e.landed = false
    ∧ (∀ j, j < i → (k.pool[j]?).all (·.landed) = true))
  ∧ (
    let s : State := (c10Qs {c10Oq with opc := 2, x := 1})
    let o : EngineOp := {c10Oq with opc := 2, x := 1}
    let core := s.sel.core
    let k := coreOf s core
    k.mcall = none
    ∧ nextQueued s core (mayStart s) = some o
    ∧ k.resumed = []
    ∧ unitOffline s core o.opc = false
    ∧ o.opc = 2)
  ∧ (
    let s : State := (c10Qs (c10Opx 0x40F0))
    let o : EngineOp := (c10Opx 0x40F0)
    let core := s.sel.core
    let k := coreOf s core
    let u := unqueue s o
    let f := (c10Fl).getD (plainFault 0 0)
    k.mcall = none
    ∧ nextQueued s core (mayStart s) = some o
    ∧ k.resumed = []
    ∧ unitOffline s core o.opc = false
    ∧ o.opc = 1
    ∧ mcallCheck u o = some f)
  ∧ (
    let s : State := (c10Ms c10RE)
    let r : McallRun := c10RE
    let core := s.sel.core
    let k := coreOf s core
    k.mcall = some r
    ∧ r.ended = true
    ∧ drainsLanded s core r.op.uid = true)
  ∧ (
    let s : State := (c10Ms c10RT)
    let r : McallRun := c10RT
    let core := s.sel.core
    let k := coreOf s core
    k.mcall = some r
    ∧ r.ended = false
    ∧ 2 ^ 32 ≤ r.steps) := by
  refine ⟨?_, ?_, ?_, ?_, ?_⟩ <;> decide +kernel

theorem wit_AccessesAtTheirHomes :
  (
    let s : State := (c11Rs [c11Rl])
    let r : Remote := c11Rl
    let local' : Prop := ¬(r.hk.kind = .tensor ∧ r.hk.dev ≠ 0) ∧ r.segs.any (·.loc.isFar) = false
    let cls := 0
    let num := 9
    let size := 3
    let lane := 0
    let signed := true
    let splat := false
    let acq := 0
    nth s.remotes s.sel.idx = some r
    ∧ r.kind = .load cls num size lane signed splat acq
    ∧ r.fixed = none
    ∧ s.sel.flag = false
    ∧ mustFollow s r = false
    ∧ heldFill s r.segs = false
    ∧ local'
    ∧ firstPoison s r.segs = none)
  ∧ (
    let s : State := (c11Rs [c11Rv])
    let r : Remote := c11Rv
    let rs := [.scalar 5 5, .pred 1 3 3]
    nth s.remotes s.sel.idx = some r
    ∧ r.kind = .value rs)
  ∧ (
    let s : State := (c11Rs [c11Rh])
    let r : Remote := c11Rh
    let h := 4
    nth s.remotes s.sel.idx = some r
    ∧ r.kind = .hbind h)
  ∧ (
    let s : State := (c11Rs [c11Rx])
    let r : Remote := c11Rx
    let h := 4
    let xv := 77
    let t := aTensor 5 0x10000 0x20000
    nth s.remotes s.sel.idx = some r
    ∧ r.kind = .hsetxv h xv
    ∧ afterUpdate s r = false
    ∧ afterAcquire s r = false
    ∧ r.hk.dev = 0
    ∧ tensorOf s r.part r.hk.tid = some t)
  ∧ (
    let s : State := (c11Rs [c11Rm (.tuse 9) []])
    let r : Remote := c11Rm (.tuse 9) []
    nth s.remotes s.sel.idx = some r
    ∧ r.kind = .tuse 9
    ∧ afterUpdate s r = false
    ∧ r.hk.dev = 0
    ∧ tensorOf s r.part r.hk.tid = some (aTensor 5 0x10000 0x20000))
  ∧ (
    let s : State := (c11Rs [c11Rm (.spawn 1 c14Tk) []])
    let r : Remote := c11Rm (.spawn 1 c14Tk) []
    nth s.remotes s.sel.idx = some r
    ∧ r.kind = .spawn 1 c14Tk
    ∧ releaseReady s r.uid 4 r.id = true)
  ∧ (
    let s : State := (c11Rs [c11Rst])
    let r : Remote := c11Rst
    let free : Prop := mustFollow s r = false ∧ heldWrite s r.id r.segs = false
    let local' : Prop := ¬(r.hk.kind = .tensor ∧ r.hk.dev ≠ 0) ∧ r.segs.any (·.loc.isFar) = false
    let data := [1,2,3,4]
    nth s.remotes s.sel.idx = some r
    ∧ r.kind = .store data
    ∧ free
    ∧ local')
  ∧ (
    let s : State := (c11Rs [c11Rlk])
    let r : Remote := c11Rlk
    let data := [1,2,3,4]
    let flag := true
    nth s.remotes s.sel.idx = some r
    ∧ r.kind = .lake data flag
    ∧ s.remotes.any (fun e => e.uid = r.uid && decide (e.id < r.id) && (flag || segsMeet e.segs r.segs)) = false
    ∧ heldPage s r.id r.segs = false
    ∧ dirtyFull s r.segs = false)
  ∧ (
    let s : State := (c11Rs [c11Rtl])
    let r : Remote := c11Rtl
    let free : Prop := mustFollow s r = false ∧ heldWrite s r.id r.segs = false
    let data := [1,2,3,4]
    let scope := 3
    nth s.remotes s.sel.idx = some r
    ∧ r.kind = .stl data scope
    ∧ free
    ∧ releaseReady s r.uid scope r.id = true)
  ∧ (
    let s : State := (c11Rs [c11Ra 0 0])
    let r : Remote := (c11Ra 0 0)
    let free : Prop := mustFollow s r = false ∧ heldWrite s r.id r.segs = false
    let fn := 0
    let v := 7
    let w := 9
    let dest := some 11
    let scope := 0
    nth s.remotes s.sel.idx = some r
    ∧ r.kind = .atomic fn v w dest scope
    ∧ free
    ∧ (scope = 0 ∨ releaseReady s r.uid scope r.id = true))
  ∧ (
    let s : State := (c11Rs [c11Far c11Rst])
    let r : Remote := (c11Far c11Rst)
    nth s.remotes s.sel.idx = some r
    ∧ r.far = true
    ∧ r.kind.isStore = true
    ∧ r.kind.isUpdate = false
    ∧ s.sel.flag = false)
  ∧ (
    let s : State := { c11Rs [c11Far c11Rst] with sel := { (c11Rs [c11Far c11Rst]).sel with flag := true } }
    let r : Remote := (c11Far c11Rst)
    nth s.remotes s.sel.idx = some r
    ∧ r.far = true
    ∧ r.kind.isStore = true
    ∧ r.kind.isUpdate = false
    ∧ r.since + 940 * (partOf s r.part).domtmo.toNat ≤ s.cycle
    ∧ s.sel.flag = true)
  ∧ (
    let s : State := (c11Rs [c11Far c11Rl])
    let r : Remote := (c11Far c11Rl)
    nth s.remotes s.sel.idx = some r
    ∧ r.far = true
    ∧ r.since + 940 * (partOf s r.part).domtmo.toNat ≤ s.cycle
    ∧ r.kind.isLoad = true
    ∧ r.kind ≠ .record)
  ∧ (
    let s : State := (c11Rs [c11Far (c11Rm (.tuse 9) [])])
    let r : Remote := c11Far (c11Rm (.tuse 9) [])
    nth s.remotes s.sel.idx = some r
    ∧ r.far = true
    ∧ r.kind.isUpdate = true
    ∧ r.since + 940 * (partOf s r.part).domtmo.toNat ≤ s.cycle)
  ∧ (
    let s : State := (c11Rs [c11Far (c11Rm .record [])])
    let r : Remote := c11Far (c11Rm .record [])
    nth s.remotes s.sel.idx = some r
    ∧ r.far = true
    ∧ r.kind = .record
    ∧ r.since + 940 * (partOf s r.part).domtmo.toNat ≤ s.cycle)
  ∧ (
    let s : State := (setRing (c11Rs [c11Rr]) 12 ⟨7, 3, 2^39 * 0 + 3 * 2^51, 0⟩)
    let r := c11Rr
    let ring := 12
    let push := true
    let n := 5
    nth s.remotes s.sel.idx = some r
    ∧ r.kind = .ring ring push n
    ∧ releaseReady s r.uid 4 r.id = true
    ∧ ringBefore s r.uid ring r.id = false)
  ∧ (
    let s : State := (c11Gs 0x6 1 2 3 [(2, 0xF7)])
    let g := groupOf s s.sel.idx
    keepsGroup s g = true
    ∧ s.sel.die ≠ s.devnum
    ∧ g.dmask.getLsbD s.sel.die = true
    ∧ g.members.getLsbD s.sel.num = true)
  ∧ (
    let s : State := (c11Gs 0x6 2 2 3 [])
    let g := groupOf s s.sel.idx
    g.dmask ≠ 0
    ∧ keepsGroup s g = false)
  ∧ (
    let s : State := c11Sp
    let r := ⟨2, 16, 7, 0, 3, [99]⟩
    s.splits.find? (fun r => r.cluster = s.sel.idx) = some r
    ∧ r.waits.any (fun i => (liveOps s).any (fun o => o.id = i)) = false)
  ∧ (
    let s : State := c11Dl
    let line := 9
    let bytes := c11Bl
    nth s.dirty3 s.sel.idx = some (line, bytes)
    ∧ (∀ b, tfind s.dirty3 line = some b → b = bytes)) := by
  and_intros <;> (try dsimp only [runsKernel, Reaches, ExtentReaches, sramFits]) <;> decide +kernel

theorem wit_AtomicsAndWriterTags :
  (
    let s : State := base
    let r : Remote := (c11Amo 0)
    let fn : Nat := 0
    let id : Nat := 0
    let k : Nat := c11A
    let v : W64 := 7
    let w : W64 := 9
    let old : W64 := BitVec.ofNat 64 (leNat (cellsGet s.mem k (atomicSize fn)))
    let x := (atomicNew 0 (BitVec.ofNat 64 (leNat (cellsGet base.mem c11A (atomicSize 0)))) 7 9).getD 0
    let a := c11A + 8
    r.hk.dev = 0
    ∧ r.segs = [⟨.mem k, atomicSize fn⟩]
    ∧ atomicSize fn ≤ 8
    ∧ firstPoison s r.segs = none
    ∧ (partOf s r.part).qps = []
    ∧ (ctxOf s id).running = true
    ∧ (ctxOf s id).uid = r.uid
    ∧ atomicNew fn old v w = some x
    ∧ (a < k ∨ k + atomicSize fn ≤ a))
  ∧ (
    let s : State := base
    let r : Remote := (c11Amo 9)
    let fn : Nat := 9
    let id : Nat := 0
    let k : Nat := c11A
    let v : W64 := 7
    let w : W64 := 9
    let old : W64 := BitVec.ofNat 64 (leNat (cellsGet s.mem k (atomicSize fn)))
    r.hk.dev = 0
    ∧ r.segs = [⟨.mem k, atomicSize fn⟩]
    ∧ atomicSize fn ≤ 8
    ∧ firstPoison s r.segs = none
    ∧ (partOf s r.part).qps = []
    ∧ (ctxOf s id).running = true
    ∧ (ctxOf s id).uid = r.uid
    ∧ atomicNew fn old v w = none)
  ∧ (
    let s : State := base
    let core : Nat := 3
    let k : Nat := c11A
    let n : Nat := 4
    let data : List Byte := [1,2,3,4]
    let l := Loc.mem k
    let a := c11A + 4
    0 < n
    ∧ data.length = n
    ∧ k % 32 + n ≤ 32
    ∧ (∀ c, tget none s.tags (sectorOf l) = some c → c ≤ core)
    ∧ (a < k ∨ k + n ≤ a))
  ∧ (
    let s : State := (c11Tg 5)
    let core : Nat := 3
    let k : Nat := c11A
    let n : Nat := 4
    let data : List Byte := [1,2,3,4]
    let l := Loc.mem k
    let c := 5
    0 < n
    ∧ data.length = n
    ∧ k % 32 + n ≤ 32
    ∧ tget none s.tags (sectorOf l) = some c
    ∧ core < c) :=
  ⟨by decide +kernel, by decide +kernel, by decide +kernel, by decide +kernel⟩

theorem wit_EngineRows :
  (
    let s : State := (c12RunS c12R1 true (10^12))
    let r : CopyRun := c12R1
    let core := s.sel.core
    let k := coreOf s core
    let here := nth k.copies s.sel.idx = some r
    here
    ∧ s.sel.keep = true
    ∧ s.sel.flag = false
    ∧ r.since + 2 ^ 32 ≤ arithAt s (dieOfCore core))
  ∧ (
    let s : State := (c12Qs c12C0)
    let o : EngineOp := c12C0
    let idx : List Nat := (c12CI c12C0)
    let core := s.sel.core
    let k := coreOf s core
    k.copies.length < 8
    ∧ nextQueued s core (fun o => unitOf o.opc = 1 && decide (4 ≤ o.opc)) = some o
    ∧ unitOffline s core o.opc = false
    ∧ copyCheck (unqueue s o) o = .ok idx)
  ∧ (
    let s : State := (c12Qs c12C1)
    let o : EngineOp := c12C1
    let f : FaultRec := (c12CF c12C1)
    let core := s.sel.core
    let k := coreOf s core
    k.copies.length < 8
    ∧ nextQueued s core (fun o => unitOf o.opc = 1 && decide (4 ≤ o.opc)) = some o
    ∧ unitOffline s core o.opc = false
    ∧ copyCheck (unqueue s o) o = .error f)
  ∧ (
    let s : State := (c12RunS c12R1 false 100)
    let u : State := (c12PU c12R1)
    let v : State := (c12MV c12R1)
    let r : CopyRun := c12R1
    let r' : CopyRun := (c12PR c12R1)
    let core := s.sel.core
    let k := coreOf s core
    let here := nth k.copies s.sel.idx = some r
    here
    ∧ s.sel.keep = false
    ∧ prepareCopy s r = (u, .ok r')
    ∧ moveAll u r' r'.left.length = (v, .done))
  ∧ (
    let s : State := withCtx 0 (fun c => { c with k := [(4, ⟨.pend, FaultRec.none, 77⟩)] }) (c12RunS c12Rf false 100)
    let r : CopyRun := c12Rf
    let len : Nat := 21
    let o := r.op
    let dst := wordOff (o.param 2)
    s.sel.keep = false
    ∧ nth (coreOf s s.sel.core).copies s.sel.idx = some r
    ∧ o.opc = 9
    ∧ o.x = 0
    ∧ dstH o = 0
    ∧ r.snap = none
    ∧ r.left = [(0, 0, len)]
    ∧ 0 < len
    ∧ dst + len ≤ 0x200000
    ∧ (∀ j, j < len → tagAllows s o.core (.scr o.core (dst + j)) = true)
    ∧ heldWrite s s.fresh [⟨.scr o.core dst, len⟩] = false
    ∧ readK (ctxOf s 0) 4 = ⟨.pend, FaultRec.none, o.id⟩)
  ∧ (
    let s : State := (c12SS true false (c12Qs c12So))
    let o : EngineOp := c12So
    let masks : List Nat := []
    let core := s.sel.core
    s.sel.flag = true
    ∧ nextQueued s core (fun o => unitOf o.opc = 2) = some o
    ∧ unitOffline s core o.opc = false
    ∧ streamFields o = none
    ∧ streamBounds (unqueue s o) o = none
    ∧ readMasks (unqueue s o) o = .ok masks)
  ∧ (
    let s : State := (c12Sst c12Sr true)
    let u : State := (doChunk (c12Sst c12Sr true) c12Sr 0).1
    let v : State := (match (doChunk (c12Sst c12Sr true) c12Sr 0).2 with | .written v => v | _ => base)
    let r : StreamRun := c12Sr
    let here := nth s.streams s.sel.idx = some r ∧ r.parked = none
    s.sel.flag = false
    ∧ here
    ∧ s.sel.keep = true
    ∧ r.left.contains s.sel.num = true
    ∧ doChunk s r s.sel.num = (u, .written v))
  ∧ (
    let s : State := (c12Sst {c12Sr with left := []} false)
    let r : StreamRun := {c12Sr with left := []}
    let here := nth s.streams s.sel.idx = some r ∧ r.parked = none
    s.sel.flag = false
    ∧ here
    ∧ s.sel.keep = false
    ∧ s.streams.find? (fun x => x.op.id = r.op.id) = some r
    ∧ r.left = [])
  ∧ (
    let s : State := (c13CS c13I1)
    let i : CollInst := c13I1
    nth s.colls s.sel.idx = some i
    ∧ (groupOf s i.group).dmask = 0
    ∧ instanceReady s i = true
    ∧ membersAgree s i = true
    ∧ (∀ o, o ∈ i.ops → unitOffline s o.core o.opc = false ∧ collCheck s o = none))
  ∧ (
    let s : State := (c13CS c13I2)
    let i : CollInst := c13I2
    nth s.colls s.sel.idx = some i
    ∧ (groupOf s i.group).dmask = 0
    ∧ instanceReady s i = true
    ∧ membersAgree s i = false)
  ∧ (
    let s : State := (c13CS c13I3)
    let u : State := c13Cu
    let i : CollInst := c13I3
    let own : List (Nat × List Byte) := c13Cown
    nth s.colls s.sel.idx = some i
    ∧ (groupOf s i.group).dmask = 0
    ∧ i.started = true
    ∧ i.shares = none
    ∧ collSources s i.ops = (u, .ok own))
  ∧ (
    let i : CollInst := { c13I4 with ops := [{ c13Co 70 0 0 c13M3 with dbgctl := 0x8000 }, c13Co 71 1 1 c13M3] }
    let s : State := (c13CS i)
    nth s.colls s.sel.idx = some i
    ∧ (groupOf s i.group).dmask = 0
    ∧ i.started = true
    ∧ i.shares = some []
    ∧ i.clamped = true
    ∧ i.ops.any (fun o => o.dbgctl.getLsbD 15) = true
    ∧ s.sel.keep = false
    ∧ s.colls.find? (fun x => x.group = i.group && x.number = i.number) = some i) := by
  and_intros <;> (try dsimp only [runsKernel, Reaches, ExtentReaches, sramFits]) <;> first | decide +kernel | exact writtenPair_eq (by decide +kernel) (by decide +kernel)

theorem wit_LakebedKernels :
  (
    let s : State := (c13LS c13Lop)
    let c : EngineOp := c13C5
    let o : Operator := c13Lop
    let w : Nat := 16
    let here := s.sel.core
    let j := taskLake s o o.handed
    let n := o.entry.toNat % 256
    let u := unqueue s c
    nextCommand s here s.sel.idx = some c
    ∧ unitOffline u c.core c.opc = false
    ∧ commandCheck u c = none
    ∧ opOf s s.sel.num = some o
    ∧ o.kind = true
    ∧ o.phase = .running
    ∧ o.handed < o.tasks
    ∧ lakeRoom s j = true
    ∧ kernelEntry s j n = some w)
  ∧ (
    let s : State := (c13WithLake (c13Qs c13C4) 0 c13Lk0)
    let c : EngineOp := c13C4
    let f : FaultRec := (plainFault 0x04 0x10)
    let here := s.sel.core
    let u := unqueue s c
    nextCommand s here s.sel.idx = some c
    ∧ unitOffline u c.core c.opc = false
    ∧ commandCheck u c = some f)
  ∧ (
    let s : State := (c13LS {c13Lop with entry := 7})
    let o : Operator := {c13Lop with entry := 7}
    let j := taskLake s o o.handed
    let n := o.entry.toNat % 256
    opOf s s.sel.num = some o
    ∧ o.kind = true
    ∧ o.phase = .running
    ∧ o.handed < o.tasks
    ∧ lakeRoom s j = true
    ∧ kernelEntry s j n = none)
  ∧ (
    let s : State := c13Ks1
    let k : Kernel := ((nextKernel c13Ks1 0).getD c13Dm)
    let here := s.sel.core
    (lakeOf s here).run = none
    ∧ nextKernel s here = some k)
  ∧ (
    let s : State := c13Ks2
    let k : Kernel := { c13Bk with since := 4 }
    let here := s.sel.core
    (lakeOf s here).run = some k
    ∧ 2 ^ 34 ≤ cyclesRun s k)
  ∧ (
    let k : Kernel := { c13Bk with cmd := some c13C3, q := [(1, 5)], sram := [(3, [3])] }
    let o : EngineOp := c13C3
    k.dispatched = false
    ∧ k.cmd = some o
    ∧ k.fw = 0
    ∧ k.start < 2 ^ 14) := by
  refine ⟨?_, ?_, ?_, ?_, ?_, ?_⟩ <;> decide +kernel

theorem wit_SubmissionAndAdmission :
  (
    let s : State := (c14Sub 3 8)
    let l : List Byte := c14Rec0
    let part := s.sel.part
    let v := s.sel.word.toNat
    let i := v / 2 ^ 48 % 256
    let u := tensorStore s part (partOf s part).submission 0x800000 (leBytes v 8)
    let st := tget Stream.fresh (partOf u part).streams i
    (partOf s part).live = true
    ∧ heldTensor s part (partOf s part).submission 0x800000 8 = false
    ∧ i < 64
    ∧ v / 2 ^ 32 % 2 ^ 16 = 0
    ∧ v / 2 ^ 56 = 0
    ∧ st.head + 1 = BitVec.ofNat 32 v
    ∧ tensorBytes u part (partOf u part).submission (i * 131072 + 128 * (st.head.toNat % 1024)) 128 = some l)
  ∧ (
    let s : State := (c14Sub 64 8)
    let part := s.sel.part
    let v := s.sel.word.toNat
    let i := v / 2 ^ 48 % 256
    (partOf s part).live = true
    ∧ heldTensor s part (partOf s part).submission 0x800000 8 = false
    ∧ 64 ≤ i)
  ∧ (
    let s : State := c14AS.1
    let u : State := (admitArgs c14AS.1 11 0 c14AS.2.args).1
    let o : Operator := c14AS.2
    let id := s.sel.num
    let p := partOf s o.part
    opOf s id = some o
    ∧ o.phase = .waiting
    ∧ p.live = true
    ∧ p.checkpoint = false
    ∧ (tget Stream.fresh p.streams o.stream).stopped = false
    ∧ namesLeaving s o = false
    ∧ operatorBad p o = none
    ∧ heldBack s id o = false
    ∧ (∀ n, n ∈ opGroups o → groupUsed s o.part n = true ∨ (groupRecord s o.part n).isSome = true)
    ∧ (∀ a, a ∈ o.args → a.1 = 0 ∨ (tensorOf s o.part a.2).any (fun t => decide (pinCount s o.part t < 65535)) = true)
    ∧ useListBad s o = none
    ∧ admitArgs s id o.part o.args = (u, .ok))
  ∧ (
    let s : State := c14AB.1
    let o : Operator := c14AB.2
    let f : Nat := 0x78
    let id := s.sel.num
    let p := partOf s o.part
    opOf s id = some o
    ∧ o.phase = .waiting
    ∧ p.live = true
    ∧ p.checkpoint = false
    ∧ (tget Stream.fresh p.streams o.stream).stopped = false
    ∧ namesLeaving s o = false
    ∧ operatorBad p o = some f) :=
  ⟨by decide +kernel, by decide +kernel, by decide +kernel, by decide +kernel⟩

theorem wit_Tasks :
  (
    let r : SReg := 0
    let n := 3
    (r = 0 ∨ 6 < r.toNat)
    ∧ 1 < n)
  ∧ (
    let s : State := c14Pr
    let slot : Nat := (nextServed s (s.sel.die % 4)).getD 0
    let at_ := s.sel.die % 4 * 64 + slot / 4
    let lane := slot % 4
    let v := { s with served := tset s.served (s.sel.die % 4) slot }
    let aged := applyAging v (s.sel.die % 4)
    let takes := (taking (partOf v (partOfCore v at_))).getLsbD (at_ / 8)
    let n : Nat := 12
    nextServed s (s.sel.die % 4) = some slot
    ∧ takes = true
    ∧ wantsContext v at_ = some n)
  ∧ (
    let s : State := c14Pq
    let slot : Nat := (nextServed s (s.sel.die % 4)).getD 0
    let at_ := s.sel.die % 4 * 64 + slot / 4
    let lane := slot % 4
    let v := { s with served := tset s.served (s.sel.die % 4) slot }
    let aged := applyAging v (s.sel.die % 4)
    let takes := (taking (partOf v (partOfCore v at_))).getLsbD (at_ / 8)
    let u : State := (takeRecord aged at_ lane 3).getD base
    nextServed s (s.sel.die % 4) = some slot
    ∧ takes = true
    ∧ wantsContext v at_ = none
    ∧ takeSaved aged at_ lane 3 = none
    ∧ takeRecord aged at_ lane 3 = some u)
  ∧ (
    let s : State := c14Pv
    let slot : Nat := (nextServed s (s.sel.die % 4)).getD 0
    let at_ := s.sel.die % 4 * 64 + slot / 4
    let lane := slot % 4
    let v := { s with served := tset s.served (s.sel.die % 4) slot }
    let aged := applyAging v (s.sel.die % 4)
    let takes := (taking (partOf v (partOfCore v at_))).getLsbD (at_ / 8)
    let u : State := (takeSaved aged at_ lane 3).getD base
    nextServed s (s.sel.die % 4) = some slot
    ∧ (takes = true → wantsContext v at_ = none)
    ∧ takeSaved aged at_ lane 3 = some u)
  ∧ (
    let s : State := c14Pl
    let o : Operator := c14Co
    let ids := reservedFor s s.sel.num
    opOf s s.sel.num = some o
    ∧ unstarted o = true
    ∧ ids.length = o.tasks)
  ∧ (
    let s : State := c14Sc
    let u : State := c14Scr.1
    let y : SegCopy := c14Sy
    let l : List (BitVec 128) := (match c14Scr.2 with | .code l => l | _ => [])
    let core := s.sel.core
    nth (coreOf s core).copying s.sel.idx = some y
    ∧ y.wait = none
    ∧ readSegment s core y = (u, .code l))
  ∧ (
    let s : State := c14Sc2
    let u : State := c14Scr2.1
    let y : SegCopy := c14Sy2
    let cause : Nat := (match c14Scr2.2 with | .fail a b => a | _ => 0)
    let inner : Nat := (match c14Scr2.2 with | .fail a b => b | _ => 0)
    let core := s.sel.core
    nth (coreOf s core).copying s.sel.idx = some y
    ∧ y.wait = none
    ∧ readSegment s core y = (u, .fail cause inner)) := by
  and_intros <;> (try dsimp only [runsKernel, Reaches, ExtentReaches, sramFits]) <;> first | decide +kernel | exact codePair_eq (by decide +kernel) (by decide +kernel) | exact failPair_eq (by decide +kernel) (by decide +kernel)

theorem wit_OperatorEndAndRecords :
  (
    let s : State := (c14ES c14Oe)
    let o : Operator := c14Oe
    opOf s s.sel.num = some o
    ∧ o.phase = .ending
    ∧ o.weir = none
    ∧ storesOut s o = false
    ∧ sendsOut s s.sel.num o = false)
  ∧ (
    let s : State := (modPart (c14ES c14Od) 0 (fun p => { p with deadline := 1000 }))
    let o : Operator := c14Od
    let t := 5
    opOf s s.sel.num = some o
    ∧ o.admitted = some t
    ∧ o.phase = .running
    ∧ (partOf s o.part).deadline ≠ 0
    ∧ t + 940 * (partOf s o.part).deadline < s.cycle)
  ∧ (
    let s : State := (c14RS 1 none)
    let r : HostRing := c14Hr
    let data : List Byte := [1,2,3]
    let rest : List (List Byte) := [[4]]
    let p := partOf s s.sel.part
    nth p.rings s.sel.idx = some r
    ∧ r.waiting = data :: rest
    ∧ ringRoom s s.sel.part r = true
    ∧ (s.sel.idx ≠ 0 ∨ windowOver s p = false))
  ∧ (
    let s : State := c14RSw
    let r : HostRing := c14Hr
    let data : List Byte := [9,9]
    let t : Nat := 5
    let n : Nat := 3
    let p := partOf s s.sel.part
    p.window = some (t, n, data)
    ∧ nth p.rings 0 = some r
    ∧ t + 940 * p.wincoal.toNat ≤ s.cycle) :=
  ⟨by decide +kernel, by decide +kernel, by decide +kernel, by decide +kernel⟩

theorem wit_TranslationAndMigration :
  (
    let s : State := (c15Ws 1 0x4000000123)
    let j : WalkJoin := ⟨0x4000000123 / 65536, 1, 0⟩
    let w : Walk := ⟨3, 0, 0x4000000123, [j]⟩
    let l : Leaf := (((leavesOf c15M1 0 c15T71)[0]?).getD ⟨0,0,0,0⟩)
    let u : State := { s with walks := dropNth s.walks s.sel.idx }
    nth s.walks s.sel.idx = some w
    ∧ walkRuns s s.sel.idx w = true
    ∧ walk u w.part (missVa w j) = .ok l
    ∧ leafAllows l j.need = true)
  ∧ (
    let s : State := (c15Ws 3 0x5000000123)
    let j : WalkJoin := ⟨0x5000000123 / 65536, 3, 0⟩
    let w : Walk := ⟨3, 0, 0x5000000123, [j]⟩
    let e : WalkFail := (match walk c15M1 0 0x5000000123 with | .error e => e | _ => ⟨0,0⟩)
    let u : State := { s with walks := dropNth s.walks s.sel.idx }
    nth s.walks s.sel.idx = some w
    ∧ walkRuns s s.sel.idx w = true
    ∧ walk u w.part (missVa w j) = .error e)
  ∧ (
    let s : State := c15RpS
    let r : Report := c15Rp
    nth s.reports s.sel.idx = some r
    ∧ serviced s r.part = true
    ∧ r.since + 940 * (partOf s r.part).flttmo.toNat ≤ s.cycle)
  ∧ (
    let s : State := c15WsRO
    let j : WalkJoin := ⟨0x4000000123 / 65536, 3, 0⟩
    let w : Walk := ⟨3, 0, 0x4000000123, [j]⟩
    let l : Leaf := c15LeafRO
    let u : State := { s with walks := dropNth s.walks s.sel.idx }
    nth s.walks s.sel.idx = some w
    ∧ walkRuns s s.sel.idx w = true
    ∧ walk u w.part (missVa w j) = .ok l
    ∧ leafAllows l j.need = false)
  ∧ (
    let s : State := c15M1
    let part : Nat := 0
    let va : Nat := 0x4000000123
    let l : Leaf := (((leavesOf c15M1 0 c15T71)[0]?).getD ⟨0,0,0,0⟩)
    walk s part va = .ok l)
  ∧ (
    let s : State := (c15Mg true)
    s.sel.flag = true)
  ∧ (
    let s : State := (c15Mg false)
    let part := s.sel.part
    let die := s.sel.die
    let p := partOf s part
    s.sel.flag = false
    ∧ p.live = true
    ∧ p.migctl.getLsbD 31 = true
    ∧ bitsOf p.migctl.toNat 16 8 ≠ 0
    ∧ p.checkpoint = false
    ∧ tget 0 p.epochAt die + bitsOf p.migctl.toNat 16 8 * 65536 ≤ arithAt s die)
  ∧ (
    let s : State := c16Hot2
    let m : Migration := c16Mm1
    nth s.migrations s.sel.idx = some m
    ∧ writesAhead s m = false
    ∧ s.migrations.any (fun x => x != m && x.oldKey / 65536 = m.newFrame) = false
    ∧ memWf s = true
    ∧ m.oldKey / 65536 ≠ m.newFrame
    ∧ keySpace (m.oldKey / 65536 * 65536) ≠ 3
    ∧ keySpace (m.newFrame * 65536) ≠ 3
    ∧ m.leaf % 8 = 0
    ∧ m.leaf / 65536 ≠ m.oldKey / 65536
    ∧ m.leaf / 65536 ≠ m.newFrame) := by
  refine ⟨?_, ?_, ?_, ?_, ?_, ?_, ?_, ?_⟩ <;> decide +kernel

theorem wit_WeirAndRecomputes :
  (
    let s : State := c15Cr
    let part := s.sel.part
    let new : Tensor := { s.sel.ten with id := s.sel.ten.id % 0x100000, state := 0, nextuse := 0xFFFFFFFF, pin := 0, depth := 0, busy := false, incomp := false }
    (partOf s part).live = true
    ∧ tensorOf s part new.id = none
    ∧ (s.tensors.filter (fun e => e.1 / 0x100000 = part)).length < (partOf s part).recordCap
    ∧ s.sel.flag = false)
  ∧ (
    let s : State := c15Il
    let t : Tensor := c15T70
    let part := s.sel.part
    let u := c15Plc.1
    let place := (match c15Plc.2 with | .ok n => n | _ => 99)
    tensorOf s part s.sel.num = some t
    ∧ t.state = 0
    ∧ t.busy = false
    ∧ placeTensor s part t = (u, .ok place))
  ∧ (
    let s : State := (c15Act ⟨0, 7, 3, 5, []⟩ c15Tb)
    let a : WeirAct := ⟨0, 7, 3, 5, []⟩
    let t : Tensor := c15Tb
    nth s.acts s.sel.idx = some a
    ∧ tensorOf s a.part a.tid = some t
    ∧ sealedPage s a.part t = false
    ∧ accessesAhead s a.part t = false
    ∧ victimAhead s s.sel.idx a = false
    ∧ a.act = 3)
  ∧ (
    let s : State := (c15Act ⟨0, 7, 1, 3, c15Fr2⟩ c15Tb)
    let a : WeirAct := ⟨0, 7, 1, 3, c15Fr2⟩
    let t : Tensor := c15Tb
    let leaves := leavesOf s a.part t
    nth s.acts s.sel.idx = some a
    ∧ tensorOf s a.part a.tid = some t
    ∧ sealedPage s a.part t = false
    ∧ accessesAhead s a.part t = false
    ∧ victimAhead s s.sel.idx a = false
    ∧ a.act ≠ 3
    ∧ leaves.any (fun l => l.tier = 3 && !pageDecodes s (frameOf l)) = false)
  ∧ (
    let s : State := { c15M1 with sel := { c15M1.sel with num := 7 } }
    let t : Tensor := c15T71
    let part := s.sel.part
    tensorOf s part s.sel.num = some t
    ∧ t.id = s.sel.num
    ∧ s.sel.num < 0x100000
    ∧ t.busy = false
    ∧ sealedPage s part t = false
    ∧ accessesAhead s part t = false
    ∧ s.recomputes.any (fun r => r.part = part && r.tid = t.id) = false)
  ∧ (
    let s : State := c16Rd
    let t : Tensor := c16Tz
    let r := ⟨0, 3, c16Fz * 512 + 5⟩
    let k := 7
    let fs := (c16Tf.getD ([], c16Rd)).1
    let u := (c16Tf.getD ([], c16Rd)).2 -- recompute
    s.reserve.find? (fun r => r.slice / 8 = s.sel.die) = some r
    ∧ s.tensors.find? (fun e => e.1 / 0x100000 = partOfSlice s r.slice && (leavesOf s (partOfSlice s r.slice) e.2).any (fun l => frameOf l = r.line / 512)) = some (k, t)
    ∧ t.busy = false
    ∧ managed s (partOfSlice s r.slice) t = true
    ∧ (partOf s (partOfSlice s r.slice)).checkpoint = false
    ∧ t.pages ≤ freeOn s (partOfSlice s r.slice) t.home 1
    ∧ takeFrames s (slicesOn s (partOfSlice s r.slice) t.home) 1 t.pages = some (fs, u))
  ∧ (
    let s : State := (c16Rc none c16Rcm)
    let r : Recompute := c16Rcm
    let o : Operator := (c16Ro none)
    let t : Tensor := c16T71
    let id : Nat := 40
    nth s.recomputes s.sel.idx = some r
    ∧ tensorOf s r.part r.tid = some t
    ∧ r.op = some id
    ∧ opOf s id = some o
    ∧ o.phase = .ending
    ∧ storesOut s o = false
    ∧ sendsOut s id o = false
    ∧ o.fail = none)
  ∧ (
    let s : State := (c16Rc (some (0x24, 3)) c16Rcm)
    let r : Recompute := c16Rcm
    let o : Operator := (c16Ro (some (0x24, 3)))
    let t : Tensor := c16T71
    let id : Nat := 40
    let c := 0x24
    let d := 3
    nth s.recomputes s.sel.idx = some r
    ∧ tensorOf s r.part r.tid = some t
    ∧ r.op = some id
    ∧ opOf s id = some o
    ∧ o.phase = .ending
    ∧ storesOut s o = false
    ∧ sendsOut s id o = false
    ∧ o.fail = some (c, d)
    ∧ sealedPage s r.part t = false)
  ∧ (
    let s : State := (c16Rc none c16Rcf)
    let r : Recompute := c16Rcf
    let t : Tensor := c16T71
    let cause := 0x53
    let failed := 6
    let inner := 1
    nth s.recomputes s.sel.idx = some r
    ∧ tensorOf s r.part r.tid = some t
    ∧ r.op = none
    ∧ r.failed = some (cause, failed, inner)
    ∧ r.place = 0) := by
  refine ⟨?_, ?_, ?_, ?_, ?_, ?_, ?_, ?_, ?_⟩ <;> decide +kernel

theorem wit_Preemption :
  (
    let s : State := c17Pc
    let c : Command := c17C0
    let x : Nat := 3
    let core := s.sel.core
    let part := partOfCore s core
    let p := partOf s part
    let aged := applyAging s (dieOfCore core)
    let named := ctxId c.a16 (c.a32 % 4)
    s.sel.flag = false
    ∧ part < 8
    ∧ p.prectl.getLsbD 31 = true
    ∧ (∀ y, y < 4 → (ctxOf s (ctxId core y)).running = true ∧ (ctxOf s (ctxId core y)).preq = none)
    ∧ preemptVictim aged core = some x
    ∧ bitsOf p.prectl.toNat 0 16 * 1024 ≤ arithAt aged (dieOfCore core) - (ctxOf aged (ctxId core x)).since
    ∧ (tget [] s.commands s.sel.part).head? = some c
    ∧ c.code = 3
    ∧ c.unknown = false
    ∧ c.a16 < 256
    ∧ partOfCore s c.a16 = s.sel.part
    ∧ (ctxOf s named).running = true
    ∧ (ctxOf s named).halted = false)
  ∧ (
    let s : State := c17Ps
    let why : Nat := 0
    let area : Nat := 4
    let rest : List Nat := [3]
    let core := s.sel.core
    let part := partOfCore s core
    let p := partOf s part
    let id := ctxId core (s.sel.ctx % 4)
    (ctxOf s id).preq = some why
    ∧ p.saveAreas = area :: rest
    ∧ (ctxOf s id).running = true
    ∧ (ctxOf s id).halted = false
    ∧ entering (ctxOf s id) = false
    ∧ saveDemand s id ≤ 10
    ∧ settled s id = true
    ∧ areaHeld s part area (saveImage s id why (saveSet s id)) = false)
  ∧ (
    let s : State := c17Rq
    let core := s.sel.core
    let id := ctxId core (s.sel.ctx % 4)
    s.sel.flag = true
    ∧ s.sel.keep = false
    ∧ (leaving (partOf s (partOfSlice s (core / 8)))).getLsbD (core / 8) = true
    ∧ (ctxOf s id).running = true
    ∧ (ctxOf s id).halted = false) := by
  refine ⟨?_, ?_, ?_⟩ <;> decide +kernel

theorem wit_PartitionRows :
  (
    let s : State := c17Rz2
    let t : Nat := 77
    let w : W32 := 1
    let part := s.sel.part
    let p := partOf s part
    let c := s.sel.cfg
    p.live = true
    ∧ p.resize = some (w, t)
    ∧ quiesced s (leaving p) = true
    ∧ drainedCores s part (leaving p) = true
    ∧ t + 940 * p.resizetmo.toNat ≤ s.cycle
    ∧ s.sel.flag = false
    ∧ s.devnum < 192
    ∧ (∀ d, d ∈ p.map → (tfind c.map d.1).isSome = true))
  ∧ (
    let s : State := c17Rz
    let part := s.sel.part
    let p := partOf s part
    let new : W32 := BitVec.ofNat 32 s.sel.word.toNat
    p.live = true
    ∧ p.resize = none
    ∧ new &&& p.slices ≠ 0
    ∧ (∀ i, i < 32 → inSlices (new &&& ~~~p.slices) i = true → partOfSlice s i = 8)
    ∧ s.sel.flag = true
    ∧ s.sel.num < 192)
  ∧ (
    let s : State := { c17Rz with sel := { c17Rz.sel with num := 200 } }
    s.sel.flag = true
    ∧ 192 ≤ s.sel.num
    ∧ (partOf s 0).live = true)
  ∧ (
    let s : State := c17Prs
    let part := s.sel.part
    (partOf s part).live = true
    ∧ opOf s 9 = some aOperator
    ∧ aOperator.part = part
    ∧ aOperator.phase ≠ .retired
    ∧ inSlices (partOf s part).slices (3 / 32) = true
    ∧ inSlices (partOf s part).slices (7 / 8) = true
    ∧ inSlices (partOf s part).slices (lakeSlice 0) = true
    ∧ inSlices (newPartition s s.sel.cfg).slices 0 = false
    ∧ inSlices (partOf (nextOf (exec .partitionReset s)) part).slices (keySlice (2 ^ 38)) = true)
  ∧ (
    let s : State := c17Pcr
    let part := s.sel.part
    let c := s.sel.cfg
    part < 8
    ∧ c.slices ≠ 0
    ∧ c.groupHi ≤ 256
    ∧ attachmentGood c = true
    ∧ (∀ e, e ∈ s.parts → e.2.live = true → e.1 ≠ part ∧ e.2.slices &&& c.slices = 0 ∧ meets c.groupLo c.groupHi e.2.groupLo e.2.groupHi = false)) := by
  refine ⟨?_, ?_, ?_, ?_, ?_⟩ <;> decide +kernel

theorem wit_Commands :
  (
    let s : State := (c17Cw (c17CmdB 2 0 0 77 0 5))
    let l : List Byte := (c17CmdB 2 0 0 77 0 5)
    let part := s.sel.part
    let v := s.sel.word.toNat
    let u := tensorStore s part (partOf s part).submission 0x800008 (leBytes v 8)
    let p := partOf u part
    let c := parseCommand l
    (partOf s part).live = true
    ∧ heldTensor s part (partOf s part).submission 0x800008 8 = false
    ∧ v / 2 ^ 32 % 2 ^ 16 = 0
    ∧ v / 2 ^ 56 = 0
    ∧ p.cmdHead + 1 = BitVec.ofNat 32 v
    ∧ tensorBytes u part p.submission (0x801000 + 32 * (p.cmdHead.toNat % 256)) 32 = some l
    ∧ tget [] u.commands part = []
    ∧ c.unknown = false)
  ∧ (
    let s : State := modPart (c17Cw (c17CmdB 2 0 0 77 0 5 1)) 0 (fun p => { p with rings := [c14Hr] })
    let l : List Byte := (c17CmdB 2 0 0 77 0 5 1)
    let part := s.sel.part
    let v := s.sel.word.toNat
    let u := tensorStore s part (partOf s part).submission 0x800008 (leBytes v 8)
    let p := partOf u part
    let c := parseCommand l
    (partOf s part).live = true
    ∧ heldTensor s part (partOf s part).submission 0x800008 8 = false
    ∧ v / 2 ^ 32 % 2 ^ 16 = 0
    ∧ v / 2 ^ 56 = 0
    ∧ p.cmdHead + 1 = BitVec.ofNat 32 v
    ∧ tensorBytes u part p.submission (0x801000 + 32 * (p.cmdHead.toNat % 256)) 32 = some l
    ∧ tget [] u.commands part = []
    ∧ c.unknown = true
    ∧ nth p.rings 0 = some c14Hr)
  ∧ (
    let s : State := { c17Cw (c17CmdB 2 0 0 77 0 5) with commands := [(0, [c17C 1 3 0 0 0])] }
    let part := s.sel.part
    let u := tensorStore s part (partOf s part).submission 0x800008 (leBytes s.sel.word.toNat 8)
    heldTensor s part (partOf s part).submission 0x800008 8 = false
    ∧ tget [] u.commands part = [c17C 1 3 0 0 0]
    ∧ (∀ d, (tget [] u.commands part ++ [parseCommand (c17CmdB 2 0 0 77 0 5)]).head? = some d → d.unknown = false))
  ∧ (
    let s : State := (c17Cw [])
    let s : State := { s with sel := { s.sel with word := 264 } }
    let part := s.sel.part
    let v := s.sel.word.toNat
    let u := tensorStore s part (partOf s part).submission 0x800008 (leBytes v 8)
    (partOf s part).live = true
    ∧ heldTensor s part (partOf s part).submission 0x800008 8 = false
    ∧ 256 < (BitVec.ofNat 32 v - (partOf u part).cmdHead).toNat)
  ∧ (
    let c := c17C 2 0 0 77 0
    let d := c17C 1 3 0 0 0
    let e := { d with bad := true }
    let s : State := modPart (c17T { base with commands := [(0, [c, d]), (1, [c, e, d])] }) 1 (fun p => { p with rings := [c14Hr] })
    let posted := postCompletion { s with commands := tset s.commands 1 [e, d] } 1 c.seq 0xFE none
    tget [] s.commands 0 = [c, d] ∧ d.unknown = false
    ∧ tget [] s.commands 1 = [c, e, d] ∧ e.unknown = true ∧ (∀ x, [d].head? = some x → x.unknown = false)
    ∧ (nth (partOf posted 1).rings 0).isSome = true)
  ∧ (
    let s : State := (c17Cs (c17C 1 3 0 0 0))
    let c : Command := (c17C 1 3 0 0 0)
    let part := s.sel.part
    (tget [] s.commands part).head? = some c
    ∧ c.unknown = false
    ∧ c.code = 1
    ∧ c.a16 < 64)
  ∧ (
    let s : State := (c17Cs (c17C 1 64 0 0 0))
    let c : Command := (c17C 1 64 0 0 0)
    let part := s.sel.part
    (tget [] s.commands part).head? = some c
    ∧ c.unknown = false
    ∧ c.code = 1
    ∧ 64 ≤ c.a16)
  ∧ (
    let s : State := (c17Cs (c17C 2 3 0 77 0))
    let c : Command := (c17C 2 3 0 77 0)
    let part := s.sel.part
    (tget [] s.commands part).head? = some c
    ∧ c.unknown = false
    ∧ c.code = 2)
  ∧ (
    let s : State := (c17Cs (c17C 4 3 0 0x1000 0x2000))
    let c : Command := (c17C 4 3 0 0x1000 0x2000)
    let part := s.sel.part
    (tget [] s.commands part).head? = some c
    ∧ c.unknown = false
    ∧ c.code = 4
    ∧ c.phase = 0)
  ∧ (
    let s : State := (c17Cs (c17C 4 3 0 0x1000 0x2000 9))
    let c : Command := (c17C 4 3 0 0x1000 0x2000 9)
    let r : Report := c17DummyR
    let part := s.sel.part
    let hi := c.a64 + c.b64
    (tget [] s.commands part).head? = some c
    ∧ c.unknown = false
    ∧ c.code = 4
    ∧ c.phase ≠ 0
    ∧ s.remotes.any (fun r => r.part = part && decide (r.id < c.phase) && remoteMeets s r c.a64 hi) = false)
  ∧ (
    let s : State := (c17Frs 0)
    let c : Command := (c17C 5 5 0 0 0)
    let r : Report := c17DummyR
    let part := s.sel.part
    (tget [] s.commands part).head? = some c
    ∧ c.unknown = false
    ∧ c.code = 5
    ∧ s.reports.find? (fun r => r.part = part && r.seq = c.a16) = some r)
  ∧ (
    let s : State := (c17Cs (c17C 8 2 0 0x100 0))
    let c : Command := (c17C 8 2 0 0x100 0)
    let m : List Byte := (List.replicate 24 0)
    let part := s.sel.part
    let p := partOf s part
    (tget [] s.commands part).head? = some c
    ∧ c.unknown = false
    ∧ c.code = 8
    ∧ p.groupLo ≤ c.a16
    ∧ c.a16 < p.groupHi
    ∧ c.a64 % 8 = 0
    ∧ groupUsed s part c.a16 = false
    ∧ tensorBytes s part p.submission c.a64 24 = some m
    ∧ (tensorBytes s part p.groupTensor (64 * c.a16 + 40) 24).isSome = true
    ∧ heldTensor s part p.groupTensor (64 * c.a16 + 40) 24 = false)
  ∧ (
    let s : State := c17Qs
    let c : Command := (c17C 9 6 0 0 0)
    let q : QPair := c17Q0
    let part := s.sel.part
    let p := partOf s part
    (tget [] s.commands part).head? = some c
    ∧ c.unknown = false
    ∧ c.code = 9
    ∧ tfind p.qps c.a16 = some q
    ∧ q.error = true) := by
  and_intros <;> decide +kernel

theorem wit_ImageCommands :
  (
    let s : State := (c17Cs (c17C 6 1 0 0 0))
    let c : Command := (c17C 6 1 0 0 0)
    let part := s.sel.part
    (tget [] s.commands part).head? = some c
    ∧ c.unknown = false
    ∧ c.code = 6
    ∧ c.phase = 0)
  ∧ (
    let s : State := c17Ckp
    let c : Command := (c17C 6 1 0 0 0 1)
    let part := s.sel.part
    (tget [] s.commands part).head? = some c
    ∧ c.unknown = false
    ∧ c.code = 6
    ∧ c.phase = 1
    ∧ atRest s part = true
    ∧ s.sel.flag = false)
  ∧ (
    let s : State := c17Cs (c17C 6 1 0 0 0 2)
    let c : Command := (c17C 6 1 0 0 0 2)
    let part := s.sel.part
    (tget [] s.commands part).head? = some c
    ∧ c.unknown = false
    ∧ c.code = 6
    ∧ c.phase = 2
    ∧ recordsOut (partOf s part) c.due = true)
  ∧ (
    let s : State := { c17Rst with commands := [(0, [c17C 7 1 0 0 0])] }
    let c : Command := (c17C 7 1 0 0 0)
    let part := s.sel.part
    (tget [] s.commands part).head? = some c
    ∧ c.unknown = false
    ∧ c.code = 7
    ∧ s.ops.any (fun e => e.2.part = part && e.2.phase != .retired) = false
    ∧ s.tensors.any (fun e => e.1 / 0x100000 = part) = false
    ∧ c.phase = 0)
  ∧ (
    let s : State := c17Rst
    let u : State := ((restoreImage c17Rst 0 true c17Rdat).getD base)
    let c : Command := (c17C 7 1 0 0 0 1)
    let part := s.sel.part
    (tget [] s.commands part).head? = some c
    ∧ c.unknown = false
    ∧ c.code = 7
    ∧ s.ops.any (fun e => e.2.part = part && e.2.phase != .retired) = false
    ∧ s.tensors.any (fun e => e.1 / 0x100000 = part) = false
    ∧ c.phase ≠ 0
    ∧ s.sel.flag = false
    ∧ restoreImage s part (c.a16 % 2 = 1) s.sel.data = some u)
  ∧ (
    let s : State := (c17Gl (c17Cs (c17C 10 63 6 9 0)))
    let c : Command := (c17C 10 63 6 9 0)
    let nodes : List (List Byte) := [c17Rec0, c17Rec0]
    let n : Nat := 2
    let part := s.sel.part
    let tid := c.a32 % 2 ^ 20
    (tget [] s.commands part).head? = some c
    ∧ c.unknown = false
    ∧ c.code = 10
    ∧ graphCount s part tid = some n
    ∧ graphNodes s part tid n = some nodes
    ∧ c.a16 < 64)
  ∧ (
    let s : State := (put (0x1000000 + 0x400) c17Rec0 (c17Gl (c17Cs (c17C 11 1 6 0x400 0))))
    let c : Command := (c17C 11 1 6 0x400 0)
    let l : List Byte := c17Rec0
    let n : Nat := 2
    let part := s.sel.part
    let p := partOf s part
    let tid := c.a32 % 2 ^ 20
    (tget [] s.commands part).head? = some c
    ∧ c.unknown = false
    ∧ c.code = 11
    ∧ graphCount s part tid = some n
    ∧ c.a16 < n
    ∧ tensorBytes s part p.submission c.a64 128 = some l
    ∧ recordBad s part (parseOperator part 0 l) = false
    ∧ (tensorBytes s part tid (64 + 128 * c.a16) 128).isSome = true
    ∧ heldTensor s part tid (64 + 128 * c.a16) 128 = false)
  ∧ (
    let s : State := c17Ga
    let c : Command := (c17C 12 0 0 9 0)
    let part := s.sel.part
    (tget [] s.commands part).head? = some c
    ∧ c.unknown = false
    ∧ c.code = 12)
  ∧ (
    let s : State := (c17Cs (c17C 13 0 0 0x400 0))
    let c : Command := (c17C 13 0 0 0x400 0)
    let l : List Byte := (List.replicate 32 0)
    let part := s.sel.part
    let p := partOf s part
    (tget [] s.commands part).head? = some c
    ∧ c.unknown = false
    ∧ c.code = 13
    ∧ tensorBytes s part p.submission c.a64 32 = some l
    ∧ (tensorBytes s part p.submission (c.a64 + 32) 30160).isSome = true
    ∧ heldTensor s part p.submission (c.a64 + 32) 30160 = false)
  ∧ (
    let s : State := (c17Cs (c17C 14 0 0 0x400 0))
    let c : Command := (c17C 14 0 0 0x400 0)
    let part := s.sel.part
    let p := partOf s part
    (tget [] s.commands part).head? = some c
    ∧ c.unknown = false
    ∧ c.code = 14
    ∧ c.a64 % 64 = 0
    ∧ (tensorBytes s part p.submission c.a64 1024).isSome = true
    ∧ heldTensor s part p.submission c.a64 1024 = false) := by
  refine ⟨?_, ?_, ?_, ?_, ?_, ?_, ?_, ?_⟩ <;> decide +kernel

theorem wit_LinksAndPower :
  (
    let s : State := (c20Rs c20Q1)
    let q : QPair := c20Q1
    let id : Nat := 9
    let kind : Nat := 1
    let data : List Byte := [3]
    let uid : Nat := 7
    let rest : List (Nat × Nat × Nat × List Byte) := [(9, 2, 7, [])]
    let part := s.sel.part
    let n := s.sel.num
    let p := partOf s part
    tfind p.qps n = some q
    ∧ q.posted = (id, kind, uid, data) :: rest
    ∧ s.sel.flag = false
    ∧ s.sel.keep = false
    ∧ kind ≠ 3
    ∧ heldTensor s part q.tid (q.dbOff + 4) 8 = false
    ∧ q.reliable = true)
  ∧ (
    let s : State := c20Rq
    let q : QPair := c20Q0
    let d : W32 × Nat × Nat := (9, 3, 7)
    let id : Nat := 9
    let l : List Byte := c20Wq
    let part := s.sel.part
    let n := s.sel.num
    let p := partOf s part
    tfind p.qps n = some q
    ∧ q.doors.find? (fun d => doorOpen q d.1) = some d
    ∧ q.error = false
    ∧ opOfLaunch s part d.2.1 = some id
    ∧ tensorBytes s part q.tid (q.sqOff + 64 * (q.taken % max 1 q.sqCount)) 64 = some l
    ∧ (tensorOf s part q.tid).all (fun t => !tensorPoisoned s part t (q.sqOff + 64 * (q.taken % max 1 q.sqCount)) 64) = true
    ∧ heldRead s part q.tid (q.sqOff + 64 * (q.taken % max 1 q.sqCount)) 64 = false)
  ∧ (
    let s : State := { c20Rq with poison := [(sectorOf (.mem (2 ^ 38 + 0x10000 + 0x100 + 64 * 3)), true)] }
    let q : QPair := c20Q0
    let part := s.sel.part
    let t := aTensor 5 0x10000 0x20000
    tfind (partOf s part).qps s.sel.num = some q
    ∧ tensorOf s part q.tid = some t
    ∧ tensorPoisoned s part t (q.sqOff + 64 * (q.taken % max 1 q.sqCount)) 64 = true)
  ∧ (
    let s : State := c20Rf
    let q : QPair := c20Q1
    let id : Nat := 9
    let kind : Nat := 1
    let data : List Byte := [3]
    let uid : Nat := 7
    let rest : List (Nat × Nat × Nat × List Byte) := [(9, 2, 7, [])]
    let part := s.sel.part
    let n := s.sel.num
    let p := partOf s part
    tfind p.qps n = some q
    ∧ q.posted = (id, kind, uid, data) :: rest
    ∧ s.sel.flag = true)
  ∧ (
    let s : State := (c20Iw 78 0x800000 (leBytes (3 * 2^48 + 0) 8))
    let u : State := (refTensor (c20Iw 78 0x800000 (leBytes (3 * 2^48) 8)) 0 1 0 none).1
    let q : QPair := c20Q0
    let tid : Nat := 1
    let segs : List Seg := (tensorSegs (refTensor (c20Iw 78 0x800000 (leBytes (3 * 2^48) 8)) 0 1 0 none).1 0 1 0x800000 8).getD []
    let part := s.sel.part
    let p := partOf s part
    tfind p.qps s.sel.idx = some q
    ∧ q.error = false
    ∧ tfind p.keys (s.sel.word.toNat % 2 ^ 32) = some tid
    ∧ refTensor s part tid 0 none = (u, .ok)
    ∧ tensorSegs u part tid s.sel.num s.sel.data.length = some segs
    ∧ heldWrite u u.fresh segs = false)
  ∧ (
    let s : State := (c20Ps { alarm := true, clock := 705, changed := 5, low := 1000, temp := 1051, cool := some 7, hot := some 9 })
    let d := s.sel.die
    let x := dieOf s d
    let y := dieOf (readMonitors s d) d
    let port := s.sel.num
    let off := 64
    let v := 5
    s.sel.flag = false
    ∧ port < 24
    ∧ tget false s.links port = false
    ∧ y.alarm = true
    ∧ 1000 ≤ y.low
    ∧ 1050 < x.temp
    ∧ x.cool = some 7
    ∧ x.hot = some 9
    ∧ 9 + 9400000 ≤ s.cycle
    ∧ (s.parts.map (·.1)).Nodup
    ∧ (partOf s 0).live = true
    ∧ 7 + 9400000 ≤ s.cycle
    ∧ d < 4
    ∧ x.clock = 705
    ∧ x.changed + 9400000 ≤ s.cycle
    ∧ x.clock ≠ 940
    ∧ s.sel.keep = false
    ∧ s.savedAt + 564000000000 ≤ s.cycle
    ∧ hoursDue s = 0
    ∧ (monitored s).unsaved = [(off, v)])
  ∧ (
    let s : State := (c20Ps { alarm := false, clock := 940, changed := 5, amps := List.replicate 10 901, temp := 1151 })
    let d := s.sel.die
    let x := dieOf s d
    let y := dieOf (readMonitors s d) d
    d < 4
    ∧ y.alarm = false
    ∧ (9000 < amps10 y ∨ 700000 < amps1000 y)
    ∧ 1050 < x.temp
    ∧ 1150 < (dieOf s (d % 4)).temp
    ∧ x.clock = 940)
  ∧ (
    let o : EngineOp := { placedCall.op with id := 77, core := 0, opc := 4 }
    let s : State := withCtx 0 (fun c => { c with k := [(4, ⟨.pend, FaultRec.none, 77⟩)] }) (c20T (modCore base 0 (fun k => { k with queue := [o] })))
    let s : State := { s with sel := { s.sel with num := 4 } }
    o ∈ liveOps s ∧ o.core = s.sel.core ∧ unitOf o.opc = unitOf s.sel.num
    ∧ (∀ x, x ∈ s.joins ++ liveOps s → x.id = o.id → x.opc ≠ 3 ∧ x.ready = true ∧ x.inherited = none)
    ∧ readK (ctxOf s 0) 4 = ⟨.pend, FaultRec.none, o.id⟩)
  ∧ (
    let s : State := c20Us
    let u : State := (takeTurn c20Us).2
    let t : Turn := c20Us.turn
    let x : Upset := (.sector (.mem 99))
    let unit := 0x23
    takeTurn s = (t, u)
    ∧ t.agent = .upset x
    ∧ u.stopped = false
    ∧ unitGood unit = true
    ∧ unitPlaced unit 192 24 = true)
  ∧ (
    let s : State := { c20Us with stopped := true }
    let u : State := (takeTurn { c20Us with stopped := true }).2
    let t : Turn := c20Us.turn
    let x : Upset := (.sector (.mem 99))
    takeTurn s = (t, u)
    ∧ t.agent = .upset x
    ∧ u.stopped = true) := by
  and_intros <;> decide +kernel

theorem wit_BootRows :
  (
    let s : State := c20Bs
    s.recovery = true
    ∧ s.sel.num < 2
    ∧ s.rails = true
    ∧ ({ s with rails := false } : State).rails = false) := by decide +kernel

end Sys2Proof.Tests
end

section
/-! SUPPORT. The scalar block's slot answers (R73 to R78): each shared shape delivers one scalar result under a true guard; a division by a divisor of 0 traps, or idles under a false guard. -/

namespace Sys2Proof.Machine

/-! ### A scalar on its way -/

/-- A slot whose guard reads 1 answers what its instruction makes of the guard's read (R13). -/
theorem guarded_true {c : Ctx} {g : GReg} (hg : readG c g = true) (sl : Slot) (opc : Nat) (f : SlotOut → SlotOut) :
    guarded sl opc g c f = f { SlotOut.idle sl opc with reads := [guardItem g], active := true } := if_pos hg

/-- A slot whose guard reads 0 reads that guard and is idle (R13). -/
theorem guarded_false {c : Ctx} {g : GReg} (hg : readG c g = false) (sl : Slot) (opc : Nat) (f : SlotOut → SlotOut) :
    guarded sl opc g c f = { SlotOut.idle sl opc with reads := [guardItem g] } := if_neg (by simp [hg])

/-- The effects of a scalar result are its delivery; one to s0 has none (R9, R18). -/
theorem afterAll_scalarEffects (c : Ctx) (lat : Nat) (d : SReg) (v : W64) : c.afterAll (scalarEffects lat d v) = c.give lat d v := by
  unfold scalarEffects Ctx.give
  split <;> rfl

theorem inCtx_scalarEffects (lat : Nat) (d : SReg) (v : W64) : ∀ e ∈ scalarEffects lat d v, e.inCtx = true := by
  unfold scalarEffects
  split <;> simp [Effect.inCtx]

section
variable {s : State} {sl : AB} {g : GReg} {opc lat : Nat} {sd sa sb : SReg} {v : W64}

/-- A quiet context's slot whose guard reads 1 and whose instruction makes one scalar result and no check of it delivers that result, and its bundle changes nothing else (R14, R18). -/
theorem runSlot_gives {f : State → Nat → SlotOut} {slot : Slot} {make : SlotOut → SlotOut} {reads : List (Nat × Nat × Nat)} {writes debug : List (Nat × Nat)}
    (hq : quiet s = true) (hg : readG (actor s) g = true) (hf : f (begun s) (selCtx s) = guarded slot opc g (actor s) make)
    (ho : make { SlotOut.idle slot opc with reads := [guardItem g], active := true }
      = { SlotOut.idle slot opc with active := true, reads := reads, writes := writes, debug := debug, effects := scalarEffects lat sd v }) :
    runSlot s f = .next (committed s (fun c => c.give lat sd v)) := by
  rw [runSlot_inCtx s f _ hq (hf.trans ((guarded_true hg _ _ _).trans ho)) rfl rfl rfl rfl rfl rfl rfl rfl (inCtx_scalarEffects lat sd v)]
  simp only [afterAll_scalarEffects]

/-- A quiet context's slot that does nothing but read registers leaves its bundle to commit (R13, R14). -/
theorem runSlot_idle {f : State → Nat → SlotOut} {slot : Slot} {reads : List (Nat × Nat × Nat)} (hq : quiet s = true)
    (ho : f (begun s) (selCtx s) = { SlotOut.idle slot opc with reads := reads }) : runSlot s f = .next (committed s id) :=
  runSlot_inCtx s f _ hq ho rfl rfl rfl rfl rfl rfl rfl rfl (fun _ he => absurd he List.not_mem_nil)

/-- A register form under a true guard delivers `f` of its two sources (R73). -/
theorem runSlot_regOut {f : W64 → W64 → W64} {dbg : W64 → W64 → List (Nat × Nat)} (hq : quiet s = true) (hg : readG (actor s) g = true)
    (hv : f (readS (actor s) sa) (readS (actor s) sb) = v) : runSlot s (regOut sl opc g sd sa sb lat f dbg) = .next (committed s (fun c => c.give lat sd v)) := by
  subst hv
  unfold regOut
  exact runSlot_gives hq hg rfl rfl

/-- A form of one source under a true guard delivers `f` of it with latency 1 (R74, R75, R76). -/
theorem runSlot_unOut {f : W64 → W64} {dbg : W64 → List (Nat × Nat)} (hq : quiet s = true) (hg : readG (actor s) g = true)
    (hv : f (readS (actor s) sa) = v) : runSlot s (unOut sl opc g sd sa f dbg) = .next (committed s (fun c => c.give 1 sd v)) := by
  subst hv
  unfold unOut
  exact runSlot_gives hq hg rfl rfl

/-- A form that also reads its destination, under a true guard (R73, R76). -/
theorem runSlot_accOut {f : Ctx → W64} {more : List SReg} (hq : quiet s = true) (hg : readG (actor s) g = true)
    (hv : f (actor s) = v) : runSlot s (accOut sl opc g sd sa more lat f) = .next (committed s (fun c => c.give lat sd v)) := by
  subst hv
  unfold accOut
  exact runSlot_gives hq hg rfl rfl

/-- LUI under a true guard delivers its immediate moved up by 16 bits (R74). -/
theorem execLui_gives {imm : BitVec 24} (hq : quiet s = true) (hg : readG (actor s) g = true) (hv : imm.signExtend 64 <<< 16 = v) :
    execLui sl g sd imm s = .next (committed s (fun c => c.give 1 sd v)) := by
  subst hv
  exact runSlot_gives hq hg rfl rfl

/-- SEL under a true guard delivers the source its selecting guard picks (R77). -/
theorem execSel_gives {gc : GReg} (hq : quiet s = true) (hg : readG (actor s) g = true) :
    execSel sl g sd sa sb gc s = .next (committed s (fun c => c.give 1 sd (if readG (actor s) gc then readS (actor s) sa else readS (actor s) sb))) :=
  runSlot_gives hq hg rfl rfl

/-! ### Divisions (R78) -/

variable {signed : Bool} {f : W64 → W64 → W64}

/-- A division with a divisor that is not 0 is a register form of latency 18. -/
theorem runSlot_divOut (hq : quiet s = true) (hg : readG (actor s) g = true) (hb : readS (actor s) sb ≠ 0)
    (hv : f (readS (actor s) sa) (readS (actor s) sb) = v) : runSlot s (divOut sl opc g sd sa sb signed f) = .next (committed s (fun c => c.give 18 sd v)) := by
  subst hv
  have hb' : (readS (ctxOf (begun s) (selCtx s)) sb == 0) = false := beq_eq_false_iff_ne.mpr hb
  have ho : divOut sl opc g sd sa sb signed f (begun s) (selCtx s) = regOut sl opc g sd sa sb Config.latDiv f _ (begun s) (selCtx s) :=
    if_neg (by rw [hb', Bool.and_false]; exact Bool.false_ne_true)
  unfold regOut at ho
  exact runSlot_gives hq hg ho rfl

/-- A segment's entry is read off tensors, partitions and memory, whatever the contexts are (R167). -/
theorem segEntry_setCtx (s : State) (id : Nat) (x : Ctx) (part ktab n : Nat) : segEntry (setCtx s id x) part ktab n = segEntry s part ktab n := rfl

/-- Whether a context has a handler depends on the context by its TVEC and its operator alone (R355). -/
theorem hasHandler_setCtx {s : State} {id : Nat} {x : Ctx} (htv : x.tvec = (ctxOf s id).tvec) (hop : x.op = (ctxOf s id).op) :
    hasHandler (setCtx s id x) id = hasHandler s id := by
  have hk : ktabOf (setCtx s id x) id = ktabOf s id := by simp [ktabOf, opOf, hop]
  have hp : partOfCore (setCtx s id x) (id / 4) = partOfCore s (id / 4) := rfl
  simp only [hasHandler, ctxOf_setCtx_same, htv, hk, hp, segEntry_setCtx]

/-- A trap of a task with a handler enters it (R24). -/
theorem trapCtx_enters {id : Nat} (hm : (ctxOf s id).mode = false) (hh : hasHandler s id = true) (t : Trap) :
    trapCtx s id t = setCtx s id ((ctxOf s id).enter t) := by
  simp [trapCtx, takeTrap, hm, hh]

/-- Under a true guard a divisor of 0 traps with INT_DIV_ZERO and the slot; nothing of the bundle is done (R15, R78). -/
theorem runSlot_divOut_zero (hq : quiet s = true) (hg : readG (actor s) g = true) (hb : readS (actor s) sb = 0) (hs : (actor s).storeFail = none)
    (hm : (actor s).mode = false) (hh : hasHandler (begun s) (selCtx s) = true) :
    runSlot s (divOut sl opc g sd sa sb signed f) = .next (setCtx (begun s) (selCtx s) ((actor s).enter (trapOf 0x10 (Slot.num sl.slot)))) := by
  have hg' : readG (ctxOf (begun s) (selCtx s)) g = true := hg
  have hb' : readS (ctxOf (begun s) (selCtx s)) sb = 0 := hb
  have ht : (divOut sl opc g sd sa sb signed f (begun s) (selCtx s)).trap = some (trapOf 0x10 (Slot.num sl.slot)) := by
    simp [divOut, regOut, guarded_true hg', hb']
  have hp : (divOut sl opc g sd sa sb signed f (begun s) (selCtx s)).priv = none := by
    simp [divOut, regOut, guarded_true hg', hb', SlotOut.idle]
  obtain ⟨u, hu, rfl⟩ := runSlot_traps s _ _ _ hq hs rfl hp ht
  have hh' : hasHandler (setCtx (begun s) (selCtx s) (actor s)) (selCtx s) = true := (hasHandler_setCtx rfl rfl).trans hh
  rw [hu, trapCtx_enters (by simpa using hm) hh', ctxOf_setCtx_same, setCtx_setCtx]

/-- Under a false guard a division's bundle just commits, whatever its divisor (R13). -/
theorem runSlot_divOut_idle (hq : quiet s = true) (hg : readG (actor s) g = false) :
    runSlot s (divOut sl opc g sd sa sb signed f) = .next (committed s id) := by
  have hg' : readG (ctxOf (begun s) (selCtx s)) g = false := hg
  refine runSlot_idle hq (?_ : _ = { SlotOut.idle sl.slot opc with reads := [guardItem g] })
  rw [divOut, regOut, guarded_false hg']
  rfl

end

end Sys2Proof.Machine
end

section
/-! SUPPORT. The words the scalar block computes, as the rules give them: numbers modulo 2^64, and words bit by bit (R73 to R78). -/

namespace Sys2Proof.Machine

/-! ### The register and immediate forms as numbers (R73, R74) -/

theorem sub_eq_ofInt (a b : W64) : a - b = BitVec.ofInt 64 ((a.toNat : Int) - b.toNat) := by
  rw [Int.sub_eq_add_neg, BitVec.ofInt_add, BitVec.ofInt_neg, BitVec.ofInt_natCast, BitVec.ofInt_natCast, BitVec.ofNat_toNat, BitVec.ofNat_toNat]
  exact BitVec.sub_eq_add_neg a b

theorem mul_eq_ofNat (a b : W64) : a * b = BitVec.ofNat 64 (a.toNat * b.toNat) := by
  rw [BitVec.ofNat_mul]
  simp

theorem mul_add_eq_ofNat (d a b : W64) : d + a * b = BitVec.ofNat 64 (d.toNat + a.toNat * b.toNat) := by
  rw [BitVec.ofNat_add, ← mul_eq_ofNat]
  simp

theorem shiftLeft_eq_ofNat (a : W64) (n : Nat) : a <<< n = BitVec.ofNat 64 (a.toNat * 2 ^ n) :=
  BitVec.eq_of_toNat_eq (by simp [Nat.shiftLeft_eq])

theorem ushiftRight_eq_ofNat (a : W64) (n : Nat) : a >>> n = BitVec.ofNat 64 (a.toNat / 2 ^ n) := by
  have hlt : a.toNat / 2 ^ n < 2 ^ 64 := lt_of_le_of_lt (Nat.div_le_self _ _) a.isLt
  refine BitVec.eq_of_toNat_eq ?_
  rw [BitVec.toNat_ushiftRight, Nat.shiftRight_eq_div_pow, BitVec.toNat_ofNat, Nat.mod_eq_of_lt hlt]

theorem sshiftRight_eq_ofInt (a : W64) (n : Nat) : a.sshiftRight n = BitVec.ofInt 64 (a.toInt / 2 ^ n) := by
  rw [← @BitVec.ofInt_toInt 64 (a.sshiftRight n), BitVec.toInt_sshiftRight, Int.shiftRight_eq_div_pow]
  push_cast
  rfl

/-- Two words that the order cannot tell apart are one word, so it does not matter whether a pick between them asks for less or for at most. -/
theorem ite_lt_eq_ite_le {β : Type} [LinearOrder β] {f : W64 → β} (hf : Function.Injective f) {a b x y : W64} (hxy : a = b → x = y) :
    (if f a < f b then x else y) = if f a ≤ f b then x else y := by
  rcases lt_trichotomy (f a) (f b) with h | h | h
  · rw [if_pos h, if_pos h.le]
  · rw [hxy (hf h), ite_self, ite_self]
  · rw [if_neg h.not_gt, if_neg h.not_ge]

theorem toInt_injective : Function.Injective (BitVec.toInt : W64 → Int) := fun _ _ => BitVec.eq_of_toInt_eq
theorem toNat_injective : Function.Injective (BitVec.toNat : W64 → Nat) := fun _ _ => BitVec.eq_of_toNat_eq

theorem minS_eq (a b : W64) : minS a b = if a.toInt ≤ b.toInt then a else b := by
  simp only [minS, BitVec.slt_eq_decide, decide_eq_true_eq]
  exact ite_lt_eq_ite_le toInt_injective id

theorem maxS_eq (a b : W64) : maxS a b = if a.toInt ≤ b.toInt then b else a := by
  simp only [maxS, BitVec.slt_eq_decide, decide_eq_true_eq]
  exact ite_lt_eq_ite_le toInt_injective Eq.symm

theorem minU_eq (a b : W64) : minU a b = if a.toNat ≤ b.toNat then a else b := by
  simp only [minU, BitVec.ult_eq_decide, decide_eq_true_eq]
  exact ite_lt_eq_ite_le toNat_injective id

theorem maxU_eq (a b : W64) : maxU a b = if a.toNat ≤ b.toNat then b else a := by
  simp only [maxU, BitVec.ult_eq_decide, decide_eq_true_eq]
  exact ite_lt_eq_ite_le toNat_injective Eq.symm

/-- The high half of the signed product is the upper word of the product at double width, which holds the exact product modulo 2^128. -/
theorem mulHigh_eq (a b : W64) : mulHigh a b = (a.signExtend 128 * b.signExtend 128).extractLsb' 64 64 := by
  have hp : a.signExtend 128 * b.signExtend 128 = BitVec.ofInt 128 (a.toInt * b.toInt) := (BitVec.ofInt_mul ..).symm
  rw [hp]
  refine BitVec.eq_of_toNat_eq ?_
  simp only [mulHigh, BitVec.extractLsb'_toNat, BitVec.toNat_ofInt, Nat.shiftRight_eq_div_pow]
  generalize a.toInt * b.toInt = p
  omega

theorem mulHighU_eq (a b : W64) : mulHighU a b = (a.zeroExtend 128 * b.zeroExtend 128).extractLsb' 64 64 := by
  refine BitVec.eq_of_toNat_eq ?_
  simp only [mulHighU, BitVec.extractLsb'_toNat, BitVec.toNat_mul, BitVec.zeroExtend, BitVec.toNat_setWidth, BitVec.toNat_ofNat, Nat.shiftRight_eq_div_pow,
    Nat.mul_mod_mod, Nat.mod_mul_mod]
  omega

theorem add_signExtend_eq_ofInt (a : W64) (imm : BitVec 19) : a + imm.signExtend 64 = BitVec.ofInt 64 (a.toInt + imm.toInt) := by
  rw [BitVec.ofInt_add, BitVec.ofInt_toInt]
  rfl

theorem signExtend_shiftLeft_eq_ofInt (imm : BitVec 24) : imm.signExtend 64 <<< 16 = BitVec.ofInt 64 (imm.toInt * 2 ^ 16) := by
  rw [BitVec.ofInt_mul, BitVec.shiftLeft_eq_mul_twoPow]
  rfl

/-! ### Bit counts and fields (R75, R76) -/

theorem toNat_ne_zero {a : W64} (ha : a ≠ 0) : a.toNat ≠ 0 := fun h => ha (BitVec.eq_of_toNat_eq h)

/-- Of a word that is not 0, the leading zeros end at its highest one bit. -/
theorem leadingZeros_add_log2 {a : W64} (ha : a ≠ 0) : leadingZeros a + Nat.log2 a.toNat = 63 := by
  have hlog : Nat.log2 a.toNat < 64 := (Nat.log2_lt (toNat_ne_zero ha)).2 a.isLt
  rw [leadingZeros, if_neg ha]
  omega

theorem leadingZeros_zero : leadingZeros 0 = 64 := rfl

theorem leadingZeros_le (a : W64) : leadingZeros a ≤ 64 := by
  by_cases ha : a = 0
  · rw [ha, leadingZeros_zero]
  · have := leadingZeros_add_log2 ha
    omega

theorem toNat_lt_two_pow_sub_leadingZeros (a : W64) : a.toNat < 2 ^ (64 - leadingZeros a) := by
  by_cases ha : a = 0
  · simp [ha]
  · have hsum := leadingZeros_add_log2 ha
    rw [show 64 - leadingZeros a = Nat.log2 a.toNat + 1 by omega]
    exact Nat.lt_log2_self

theorem getLsbD_leadingZeros {a : W64} (hz : leadingZeros a < 64) : a.getLsbD (63 - leadingZeros a) = true := by
  have ha : a ≠ 0 := by
    rintro rfl
    rw [leadingZeros_zero] at hz
    omega
  have hsum := leadingZeros_add_log2 ha
  rw [show 63 - leadingZeros a = Nat.log2 a.toNat by omega]
  exact Nat.testBit_log2 (toNat_ne_zero ha)

theorem onesOf_eq_countP (a : W64) : onesOf 64 a.toNat = (List.range 64).countP (fun i => a.getLsbD i) := List.countP_eq_length_filter.symm

theorem getLsbD_extractField (a : W64) (pos wm1 : Nat) {i : Nat} (hi : i < 64) :
    (extractField a pos wm1).getLsbD i = (decide (i ≤ wm1) && a.getLsbD (pos + i)) := by
  rw [extractField, BitVec.getLsbD_ofNat, Nat.testBit_mod_two_pow, Nat.testBit_div_two_pow, Nat.add_comm i pos]
  simp [hi, BitVec.getLsbD]

/-- The mask of an inserted field covers its bits (R76). -/
theorem getLsbD_fieldMask (pos wm1 : Nat) {i : Nat} (hi : i < 64) :
    (BitVec.ofNat 64 ((2 ^ (wm1 + 1) - 1) * 2 ^ pos)).getLsbD i = decide (pos ≤ i ∧ i ≤ pos + wm1) := by
  rw [BitVec.getLsbD_ofNat, Nat.testBit_mul_two_pow, Nat.testBit_two_pow_sub_one, Bool.eq_iff_iff]
  simp only [Bool.and_eq_true, decide_eq_true_eq]
  omega

theorem getLsbD_insertField (d a : W64) (pos wm1 : Nat) {i : Nat} (hi : i < 64) :
    (insertField d a pos wm1).getLsbD i = if pos ≤ i ∧ i ≤ pos + wm1 then a.getLsbD (i - pos) else d.getLsbD i := by
  simp only [insertField, BitVec.getLsbD_or, BitVec.getLsbD_and, BitVec.getLsbD_not, getLsbD_fieldMask pos wm1 hi, hi, BitVec.getLsbD_shiftLeft]
  by_cases h : pos ≤ i ∧ i ≤ pos + wm1
  · simp [h, h.1.not_gt]
  · simp [h]

/-! ### Signed division (R78) -/

/-- −2^63 by −1 is no exception: 2^63 modulo 2^64 is −2^63 again. -/
theorem divS_eq (a b : W64) : divS a b = if a.toInt = -2 ^ 63 ∧ b.toInt = -1 then a else BitVec.ofInt 64 (a.toInt.tdiv b.toInt) := by
  rw [divS]
  split
  case isTrue h => exact BitVec.eq_of_toInt_eq (by rw [h.1, h.2]; rfl)
  case isFalse => rfl

theorem remS_eq (a b : W64) : remS a b = if a.toInt = -2 ^ 63 ∧ b.toInt = -1 then 0 else BitVec.ofInt 64 (a.toInt - a.toInt.tdiv b.toInt * b.toInt) := by
  rw [remS]
  split
  case isTrue h => rw [h.1, h.2]; rfl
  case isFalse => rw [Int.tmod_def, Int.mul_comm]

end Sys2Proof.Machine
end

section
/-! The statements on the scalar block's integer forms, settled: each form's answer has one of the shared shapes, and its word is the rule's. -/

namespace Sys2Proof.Machine

/-- Settles O7: each form's slot answers with one result, whose word is R73's formula. -/
theorem integerRegisterForms : Obligations.IntegerRegisterForms := by
  intro s sl g sd sa sb hq hg a b n gives
  exact ⟨runSlot_regOut hq hg (BitVec.add_def a b), runSlot_regOut hq hg (sub_eq_ofInt a b),
    runSlot_regOut hq hg rfl, runSlot_regOut hq hg rfl, runSlot_regOut hq hg rfl,
    runSlot_regOut hq hg (shiftLeft_eq_ofNat a n), runSlot_regOut hq hg (ushiftRight_eq_ofNat a n), runSlot_regOut hq hg (sshiftRight_eq_ofInt a n),
    runSlot_regOut hq hg (minS_eq a b), runSlot_regOut hq hg (maxS_eq a b), runSlot_regOut hq hg (minU_eq a b), runSlot_regOut hq hg (maxU_eq a b),
    runSlot_regOut hq hg (mul_eq_ofNat a b), runSlot_regOut hq hg (mulHigh_eq a b), runSlot_regOut hq hg (mulHighU_eq a b),
    runSlot_accOut hq hg (mul_add_eq_ofNat _ a b)⟩

/-- Settles O8: the forms of one source and the two that read their destination, with CLZ's count by the highest one bit and the fields bit by bit. -/
theorem immediateBitAndFieldForms : Obligations.ImmediateBitAndFieldForms := by
  constructor
  case left =>
    intro s sl g sd sa sb imm imm24 n gc hq hg a gives
    exact ⟨runSlot_unOut hq hg (add_signExtend_eq_ofInt a imm), runSlot_unOut hq hg rfl, runSlot_unOut hq hg rfl, runSlot_unOut hq hg rfl,
      runSlot_unOut hq hg (shiftLeft_eq_ofNat a n.toNat), runSlot_unOut hq hg (ushiftRight_eq_ofNat a n.toNat), runSlot_unOut hq hg (sshiftRight_eq_ofInt a n.toNat),
      execLui_gives hq hg (signExtend_shiftLeft_eq_ofInt imm24), execSel_gives hq hg,
      ⟨leadingZeros a, leadingZeros_le a, toNat_lt_two_pow_sub_leadingZeros a, getLsbD_leadingZeros, runSlot_unOut hq hg rfl⟩,
      runSlot_unOut hq hg (congrArg (BitVec.ofNat 64) (onesOf_eq_countP a))⟩
  case right =>
    intro s sl g sd sa wm1 pos hq hg _ a d
    exact ⟨⟨extractField a pos.toNat wm1.toNat, fun _ => getLsbD_extractField a pos.toNat wm1.toNat, runSlot_unOut hq hg rfl⟩,
      ⟨insertField d a pos.toNat wm1.toNat, fun _ => getLsbD_insertField d a pos.toNat wm1.toNat, runSlot_accOut hq hg rfl⟩⟩

/-- Settles O9: with a divisor that is not 0 a division is a register form, and without one it traps or, under a false guard, idles. -/
theorem divisionForms : Obligations.DivisionForms := by
  constructor
  case left =>
    intro s sl g sd sa sb hq hg hb a b gives
    exact ⟨runSlot_divOut hq hg hb (divS_eq a b), runSlot_divOut hq hg hb (remS_eq a b), runSlot_divOut hq hg hb rfl,
      runSlot_divOut hq hg hb (congrArg (BitVec.ofNat 64) Nat.mod_eq_sub_div_mul)⟩
  case right =>
    intro s sl g sd sa sb hq hs hb hm hh enters all
    constructor
    case left =>
      intro hg
      exact ⟨runSlot_divOut_zero hq hg hb hs hm hh, runSlot_divOut_zero hq hg hb hs hm hh, runSlot_divOut_zero hq hg hb hs hm hh, runSlot_divOut_zero hq hg hb hs hm hh⟩
    case right =>
      intro hg
      exact ⟨runSlot_divOut_idle hq hg, runSlot_divOut_idle hq hg, runSlot_divOut_idle hq hg, runSlot_divOut_idle hq hg⟩

end Sys2Proof.Machine
end
